-- ==== Sys2Proof/Word.lean ====
section
/-! DEFINITION. The machine's word and byte types and the names of its agents. -/

namespace Sys2Proof

/-- A 64-bit register value (02_encoding.md R26). -/
abbrev Word := BitVec 64

/-- A byte. -/
abbrev Byte := BitVec 8

/-- What can execute instructions (01_machine.md R11, R13): a master core of a die; a slot of a thread core of a spur
of a die; a service core of a die. -/
inductive AgentId where
  | master (die core : Nat)
  | slot (die spur core slot : Nat)
  | service (die core : Nat)
  deriving DecidableEq, Repr

/-- What fails in a bring-up (R399): firmware complexes (0 A, 1 B) at their self-test; how many slots hold no image that verifies; the
firmware of the service cores; HBM pseudo-channels by die and number; dies with a failed HBM stack; directions of Saddle
ports as a whole; banks, spurs and lanes of links, by class, die and number as a fence names them (R378). -/
structure BootFails where
  rom : List Nat
  slots : Nat
  micro : Bool
  channels : List (Nat × Nat)
  deadStacks : List Nat
  ports : List Nat
  units : List (Nat × Nat × Nat)
  deriving DecidableEq, Repr

/-- A bring-up in which nothing fails. -/
def BootFails.none : BootFails :=
  { rom := [], slots := 0, micro := false, channels := [], deadStacks := [], ports := [], units := [] }

end Sys2Proof
end

