-- ==== Sys2Proof/Machine/Flags.lean ====
section
/-! DEFINITION. The floating-point flags of R78 and R79, and the fields of FCSR that govern an instruction. -/

namespace Sys2Proof.Machine

/-- NV, DZ, OF, UF, NX in bits 4 to 0, as in FCSR[4:0] (R78). -/
abbrev Flags := BitVec 5

/-- Invalid. -/
def flagNV : Flags := 16
/-- Divide by zero. -/
def flagDZ : Flags := 8
/-- Overflow. -/
def flagOF : Flags := 4
/-- Underflow. -/
def flagUF : Flags := 2
/-- Inexact. -/
def flagNX : Flags := 1
/-- Overflow with inexact: every overflow raises both (R74). -/
def flagOFNX : Flags := 5
/-- A flushed result raises underflow and inexact (R81). -/
def flagUFNX : Flags := 3

/-- The flag `f` when `c` holds. -/
def flagIf (c : Bool) (f : Flags) : Flags := if c then f else 0

/-- Everything that governs the rounding of one instruction (R73 to R81): the effective mode, flushing, saturation of
8-bit formats, and the two inputs of the stochastic draw that are the same for all its elements. -/
structure FEnv where
  rm : Nat
  ftz : Bool
  sat8 : Bool
  seed : Word
  tid : Word
  deriving DecidableEq, Repr

/-- FCSR.RM (R78). -/
def fcsrRm (f : Word) : Nat := (f.toNat / 32) % 8

/-- FCSR.FTZ (R78). -/
def fcsrFtz (f : Word) : Bool := f.getLsbD 17

/-- FCSR.SAT8 (R78). -/
def fcsrSat8 (f : Word) : Bool := f.getLsbD 18

/-- The sticky flags FCSR[4:0]. -/
def fcsrFlags (f : Word) : Flags := BitVec.ofNat 5 f.toNat

/-- The trap enables ENV, EDZ, EOF, EUF, ENX in the order of the flags (R78). -/
def fcsrEnables (f : Word) : Flags := BitVec.ofNat 5 (f.toNat / 4096)

/-- FCSR with flags ORed into FCSR[4:0] (R79). -/
def fcsrRaise (f : Word) (fl : Flags) : Word := f ||| fl.zeroExtend 64

/-- The mode an instruction's rounding code names: 7 is FCSR.RM (R73). -/
def effRm (f : Word) (code : Nat) : Nat := if code = 7 then fcsrRm f else code

/-- The mixing function of R76. -/
def mix64 (z : Word) : Word :=
  let z := (z ^^^ (z >>> 30)) * 0xBF58476D1CE4E5B9#64
  let z := (z ^^^ (z >>> 27)) * 0x94D049BB133111EB#64
  z ^^^ (z >>> 31)

/-- The 32-bit stochastic draw of R76. -/
def srDraw (seed tid : Word) (c0 c1 : Nat) : Nat :=
  let h := mix64 (seed + tid * 0xD6E8FEB86659FD93#64)
  let h := mix64 (h ^^^ (BitVec.ofNat 64 (c0 % 2 ^ 32) <<< 32) ^^^ BitVec.ofNat 64 (c1 % 2 ^ 32))
  h.toNat / 2 ^ 32

/-- SRSEED after an instruction whose effective mode is RS (R76). -/
def advanceSeed (seed : Word) : Word := seed + 0x9E3779B97F4A7C15#64

end Sys2Proof.Machine
end

