-- ==== Sys2Proof/Machine/Fp.lean ====
section
/-! DEFINITION. Floating-point formats, exact values and rounding (03_numbers.md R65 to R88). An exact result is kept
as a sign, a natural number and an exponent, with a mark for a positive rest below one unit of the number; one
operation rounds it to any format in any mode. -/

namespace Sys2Proof.Machine

/-- How a format uses its top exponent (R65). -/
inductive FmtKind where
  | ieee
  | e4m3
  | e2m1
  deriving DecidableEq, Repr

/-- A binary format: exponent width, fraction width, bias (R65). -/
structure Fmt where
  ew : Nat
  mw : Nat
  bias : Nat
  kind : FmtKind
  deriving DecidableEq, Repr

def fp64 : Fmt := ⟨11, 52, 1023, .ieee⟩
def fp32 : Fmt := ⟨8, 23, 127, .ieee⟩
def fp16 : Fmt := ⟨5, 10, 15, .ieee⟩
def bf16 : Fmt := ⟨8, 7, 127, .ieee⟩
def e5m2 : Fmt := ⟨5, 2, 15, .ieee⟩
def e4m3 : Fmt := ⟨4, 3, 7, .e4m3⟩
def e2m1 : Fmt := ⟨2, 1, 1, .e2m1⟩

/-- Bits of a format. -/
def Fmt.width (f : Fmt) : Nat := f.ew + f.mw + 1

/-- The formats FTZ flushes: those wider than eight bits (R81). -/
def Fmt.flushes (f : Fmt) : Bool := decide (8 < f.width)

/-- The exponent of the unit of the subnormals: 1 - bias - mw (R65). -/
def Fmt.qmin (f : Fmt) : Int := 1 - (f.bias : Int) - (f.mw : Int)

/-- The encoding of the largest finite magnitude (R65). -/
def Fmt.maxEnc (f : Fmt) : Nat :=
  match f.kind with
  | .ieee => (2 ^ f.ew - 1) * 2 ^ f.mw - 1
  | .e4m3 => 2 ^ (f.ew + f.mw) - 2
  | .e2m1 => 2 ^ (f.ew + f.mw) - 1

/-- The sign bit of a format when `neg`. -/
def Fmt.signBit (f : Fmt) (neg : Bool) : Nat := if neg then 2 ^ (f.ew + f.mw) else 0

/-- The default NaN (R66). -/
def Fmt.nan (f : Fmt) : Nat :=
  match f.kind with
  | .e4m3 => 0x7F
  | _ => (2 ^ f.ew - 1) * 2 ^ f.mw + 2 ^ (f.mw - 1)

/-- An infinity, of a format that has one. -/
def Fmt.inf (f : Fmt) (neg : Bool) : Nat := f.signBit neg + (2 ^ f.ew - 1) * 2 ^ f.mw

/-- What a bit pattern means: NaN, infinity, or (-1)^neg * m * 2^e. -/
inductive FVal where
  | nan (signalling : Bool)
  | inf (neg : Bool)
  | fin (neg : Bool) (m : Nat) (e : Int)
  deriving DecidableEq, Repr

/-- Reads a bit pattern (R65 to R67). -/
def Fmt.read (f : Fmt) (bits : Nat) : FVal :=
  let neg := decide (bits / 2 ^ (f.ew + f.mw) % 2 = 1)
  let ex := bits / 2 ^ f.mw % 2 ^ f.ew
  let fr := bits % 2 ^ f.mw
  let num := if ex = 0 then FVal.fin neg fr f.qmin else FVal.fin neg (2 ^ f.mw + fr) (f.qmin + (ex : Int) - 1)
  match f.kind with
  | .ieee =>
    if ex = 2 ^ f.ew - 1 then
      if fr = 0 then .inf neg else .nan (decide (fr < 2 ^ (f.mw - 1)))
    else num
  | .e4m3 => if ex = 15 ∧ fr = 7 then .nan false else num
  | .e2m1 => num

/-- A subnormal bit pattern: exponent field zero, fraction nonzero. -/
def Fmt.isSubnormal (f : Fmt) (bits : Nat) : Bool :=
  decide (bits / 2 ^ f.mw % 2 ^ f.ew = 0) && decide (bits % 2 ^ f.mw ≠ 0)

/-- Reads an operand under FTZ (R81). -/
def Fmt.readFtz (f : Fmt) (ftz : Bool) (bits : Nat) : FVal :=
  if ftz && f.flushes && f.isSubnormal bits then
    .fin (decide (bits / 2 ^ (f.ew + f.mw) % 2 = 1)) 0 f.qmin
  else f.read bits

/-- An exact real result: (-1)^neg * (m + rest) * 2^e, the rest being 0, or strictly between 0 and 1 when `sticky`. -/
structure Exact where
  neg : Bool
  m : Nat
  e : Int
  sticky : Bool
  deriving DecidableEq, Repr

/-- Whether the magnitude `kept + frac` goes up to `kept + 1`, frac being (rem + rest) / 2^s (R73, R75). -/
def roundUp (rm : Nat) (neg : Bool) (kept rem s : Nat) (sticky : Bool) (u : Nat) : Bool :=
  let half := 2 ^ (s - 1)
  let exact := rem == 0 && !sticky
  let above := decide (half < rem) || (rem == half && sticky)
  let tie := rem == half && !sticky
  if exact then false
  else
    match rm with
    | 0 => above || (tie && kept % 2 == 1)
    | 1 => false
    | 2 => !neg
    | 3 => neg
    | 4 => above || tie
    | _ => decide (u * 2 ^ s < rem * 2 ^ 32) || (sticky && decide (u * 2 ^ s = rem * 2 ^ 32))

/-- A magnitude cut at the unit 2^q: the whole units, the rest, its scale, whether it is exact. -/
def cutAt (m : Nat) (e q : Int) (sticky : Bool) : Nat × Nat × Nat × Bool :=
  if q ≤ e then (m * 2 ^ (e - q).toNat, 0, 0, !sticky)
  else
    let s := (q - e).toNat
    (m / 2 ^ s, m % 2 ^ s, s, decide (m % 2 ^ s = 0) && !sticky)

/-- What an overflow delivers (R74). `fromInf`: the value comes from an infinite operand. -/
def overflowResult (f : Fmt) (v : FEnv) (neg : Bool) (fromInf : Bool) : Nat :=
  let toInf := match v.rm with
    | 0 => true
    | 1 => false
    | 2 => !neg
    | 3 => neg
    | _ => true
  if fromInf || toInf then
    match f.kind with
    | .e4m3 => if v.sat8 then f.signBit neg + f.maxEnc else f.nan
    | .e2m1 => f.signBit neg + f.maxEnc
    | .ieee =>
      if f.width = 8 ∧ v.sat8 ∧ !fromInf then f.signBit neg + f.maxEnc else f.inf neg
  else f.signBit neg + f.maxEnc

/-- Rounds an exact value to a format, with the flags of R79 and the flushing of R81. `u` is the stochastic draw. -/
def roundTo (f : Fmt) (v : FEnv) (u : Nat) (x : Exact) : Nat × Flags :=
  if x.m = 0 ∧ x.sticky = false then (f.signBit x.neg, 0)
  else
    let q := max (x.e + (Nat.log2 x.m : Int) - (f.mw : Int)) f.qmin
    let (kept, rem, s, exact) := cutAt x.m x.e q x.sticky
    let k := if roundUp v.rm x.neg kept rem s x.sticky u then kept + 1 else kept
    let enc := (q - f.qmin).toNat * 2 ^ f.mw + k
    if f.maxEnc < enc then (overflowResult f v x.neg false, flagOFNX)
    else if v.ftz && f.flushes && decide (0 < k) && decide (enc < 2 ^ f.mw) then
      (f.signBit x.neg, flagUFNX)
    else
      (f.signBit x.neg + enc,
        flagIf (!exact) flagNX ||| flagIf (!exact && decide (0 < k) && decide (enc < 2 ^ f.mw)) flagUF)

/-- The stochastic draw of an element at coordinates (c0, c1) (R76). -/
def FEnv.draw (v : FEnv) (c0 c1 : Nat) : Nat := if v.rm = 5 then srDraw v.seed v.tid c0 c1 else 0

/-- An exact finite value. -/
def FVal.exact : FVal → Exact
  | .fin neg m e => ⟨neg, m, e, false⟩
  | _ => ⟨false, 0, 0, false⟩

/-- Whether a value is a signalling NaN. -/
def FVal.isSnan : FVal → Bool
  | .nan s => s
  | _ => false

/-- Whether a value is a NaN. -/
def FVal.isNan : FVal → Bool
  | .nan _ => true
  | _ => false

/-- Whether a value is an infinity. -/
def FVal.isInf : FVal → Bool
  | .inf _ => true
  | _ => false

/-- Whether a value is a zero. -/
def FVal.isZero : FVal → Bool
  | .fin _ m _ => m == 0
  | _ => false

/-- The sign of a value. -/
def FVal.neg : FVal → Bool
  | .nan _ => false
  | .inf n => n
  | .fin n _ _ => n

/-- A value with its sign turned. -/
def FVal.negate : FVal → FVal
  | .nan s => .nan s
  | .inf n => .inf (!n)
  | .fin n m e => .fin (!n) m e

/-- The signed integer of a finite value in units of 2^e0, for e0 at most its exponent. -/
def scaledInt (neg : Bool) (m : Nat) (e e0 : Int) : Int :=
  let v : Int := ((m * 2 ^ (e - e0).toNat : Nat) : Int)
  if neg then -v else v

/-- The exact sum of two finite values, with the zero sign of R114. -/
def addExact (rm : Nat) (n1 : Bool) (m1 : Nat) (e1 : Int) (n2 : Bool) (m2 : Nat) (e2 : Int) : Exact :=
  let e0 := min e1 e2
  let z := scaledInt n1 m1 e1 e0 + scaledInt n2 m2 e2 e0
  if z = 0 then
    if m1 = 0 ∧ m2 = 0 ∧ n1 = n2 then ⟨n1, 0, 0, false⟩ else ⟨rm == 3, 0, 0, false⟩
  else ⟨decide (z < 0), z.natAbs, e0, false⟩

/-- What an operation gives before rounding: a NaN (with NV or not), an infinity, or an exact value. -/
inductive FRes where
  | nan (fl : Flags)
  | inf (neg : Bool) (fl : Flags)
  | val (x : Exact)
  deriving DecidableEq, Repr

/-- The exact sum of two values (R113, R114). -/
def addVal (rm : Nat) (a b : FVal) : FRes :=
  match a, b with
  | .nan s, y => .nan (flagIf (s || y.isSnan) flagNV)
  | x, .nan s => .nan (flagIf (s || x.isSnan) flagNV)
  | .inf n1, .inf n2 => if n1 = n2 then .inf n1 0 else .nan flagNV
  | .inf n, .fin .. => .inf n 0
  | .fin .., .inf n => .inf n 0
  | .fin n1 m1 e1, .fin n2 m2 e2 => .val (addExact rm n1 m1 e1 n2 m2 e2)

/-- The exact product of two values (R113). -/
def mulVal (a b : FVal) : FRes :=
  match a, b with
  | .nan s, y => .nan (flagIf (s || y.isSnan) flagNV)
  | x, .nan s => .nan (flagIf (s || x.isSnan) flagNV)
  | .inf n1, .inf n2 => .inf (n1 != n2) 0
  | .inf n1, .fin n2 m _ => if m = 0 then .nan flagNV else .inf (n1 != n2) 0
  | .fin n1 m _, .inf n2 => if m = 0 then .nan flagNV else .inf (n1 != n2) 0
  | .fin n1 m1 e1, .fin n2 m2 e2 => .val ⟨n1 != n2, m1 * m2, e1 + e2, false⟩

/-- The quotient of two values, with 128 bits or more before the sticky mark (R113). -/
def divVal (a b : FVal) : FRes :=
  match a, b with
  | .nan s, y => .nan (flagIf (s || y.isSnan) flagNV)
  | x, .nan s => .nan (flagIf (s || x.isSnan) flagNV)
  | .inf _, .inf _ => .nan flagNV
  | .inf n1, .fin n2 .. => .inf (n1 != n2) 0
  | .fin n1 .., .inf n2 => .val ⟨n1 != n2, 0, 0, false⟩
  | .fin n1 m1 e1, .fin n2 m2 e2 =>
    if m2 = 0 then
      if m1 = 0 then .nan flagNV else .inf (n1 != n2) flagDZ
    else
      let k := 128 + Nat.log2 m2
      .val ⟨n1 != n2, m1 * 2 ^ k / m2, e1 - e2 - (k : Int), decide (m1 * 2 ^ k % m2 ≠ 0)⟩

/-- The integer square root, bit by bit from bit `k - 1`. -/
def isqrtFrom : Nat → Nat → Nat → Nat
  | 0, _, r => r
  | k + 1, n, r => isqrtFrom k n (if (r + 2 ^ k) * (r + 2 ^ k) ≤ n then r + 2 ^ k else r)

/-- floor of the square root. -/
def isqrt (n : Nat) : Nat := isqrtFrom (Nat.log2 n / 2 + 1) n 0

/-- The square root of a value (R116). -/
def sqrtVal (a : FVal) : FRes :=
  match a with
  | .nan s => .nan (flagIf s flagNV)
  | .inf true => .nan flagNV
  | .inf false => .inf false 0
  | .fin neg m e =>
    if m = 0 then .val ⟨neg, 0, 0, false⟩
    else if neg then .nan flagNV
    else
      let odd : Nat := (e % 2).toNat
      let n := m * 2 ^ (200 + odd)
      let r := isqrt n
      .val ⟨false, r, (e - (odd : Int)) / 2 - 100, decide (r * r ≠ n)⟩

/-- c + a * b, or c - a * b when `negp`, with one rounding (R115). -/
def fmaVal (rm : Nat) (negp : Bool) (a b c : FVal) : FRes :=
  let p := mulVal (if negp then a.negate else a) b
  match p with
  | .nan fl => .nan (fl ||| flagIf c.isSnan flagNV)
  | .inf n fl =>
    match addVal rm (.inf n) c with
    | .nan f2 => .nan (fl ||| f2)
    | .inf n f2 => .inf n (fl ||| f2)
    | .val x => .val x
  | .val x => addVal rm (.fin x.neg x.m x.e) c

/-- An operation's result rounded to a format. -/
def finishRes (f : Fmt) (v : FEnv) (u : Nat) (r : FRes) : Nat × Flags :=
  match r with
  | .nan fl => (f.nan, fl)
  | .inf n fl => (f.inf n, fl)
  | .val x => roundTo f v u x

/-- FADD. -/
def fAdd (f : Fmt) (v : FEnv) (u a b : Nat) : Nat × Flags :=
  finishRes f v u (addVal v.rm (f.readFtz v.ftz a) (f.readFtz v.ftz b))
/-- FSUB. -/
def fSub (f : Fmt) (v : FEnv) (u a b : Nat) : Nat × Flags :=
  finishRes f v u (addVal v.rm (f.readFtz v.ftz a) (f.readFtz v.ftz b).negate)
/-- FMUL. -/
def fMul (f : Fmt) (v : FEnv) (u a b : Nat) : Nat × Flags :=
  finishRes f v u (mulVal (f.readFtz v.ftz a) (f.readFtz v.ftz b))
/-- FDIV. -/
def fDiv (f : Fmt) (v : FEnv) (u a b : Nat) : Nat × Flags :=
  finishRes f v u (divVal (f.readFtz v.ftz a) (f.readFtz v.ftz b))
/-- FSQRT. -/
def fSqrt (f : Fmt) (v : FEnv) (u a : Nat) : Nat × Flags :=
  finishRes f v u (sqrtVal (f.readFtz v.ftz a))
/-- FMA and, with `negp`, FNMA. -/
def fFma (f : Fmt) (v : FEnv) (negp : Bool) (u a b c : Nat) : Nat × Flags :=
  finishRes f v u (fmaVal v.rm negp (f.readFtz v.ftz a) (f.readFtz v.ftz b) (f.readFtz v.ftz c))

/-- -1, 0 or 1 as the first of two numbers is less, equal or greater; +0 equals -0. -/
def cmpVal (a b : FVal) : Int :=
  match a, b with
  | .inf n1, .inf n2 => if n1 = n2 then 0 else if n1 then -1 else 1
  | .inf n, _ => if n then -1 else 1
  | _, .inf n => if n then 1 else -1
  | .fin n1 m1 e1, .fin n2 m2 e2 =>
    let e0 := min e1 e2
    let x := scaledInt n1 m1 e1 e0
    let y := scaledInt n2 m2 e2 e0
    if x < y then -1 else if x = y then 0 else 1
  | _, _ => 0

/-- The order of R88: as `cmpVal`, with -0 less than +0. -/
def lessR88 (a b : FVal) : Bool :=
  if a.isZero && b.isZero then a.neg && !b.neg else decide (cmpVal a b < 0)

/-- FMIN, FMAX, FMINN, FMAXN (R88): `isMax` the greater, `num` the forms that return the other operand of one NaN. -/
def fMinMax (f : Fmt) (ftz isMax num : Bool) (a b : Nat) : Nat × Flags :=
  let x := f.readFtz ftz a
  let y := f.readFtz ftz b
  let enc (v : FVal) : Nat := match v with
    | .nan _ => f.nan
    | .inf n => f.inf n
    | .fin n m e => (roundTo f ⟨0, false, false, 0, 0⟩ 0 ⟨n, m, e, false⟩).1
  let nv := flagIf (x.isSnan || y.isSnan) flagNV
  if x.isNan && y.isNan then (f.nan, nv)
  else if x.isNan then (if num then enc y else f.nan, nv)
  else if y.isNan then (if num then enc x else f.nan, nv)
  else if isMax then (if lessR88 x y then enc y else enc x, 0)
  else (if lessR88 y x then enc y else enc x, 0)

/-- FCMP by its cond (R118): the truth value and NV. -/
def fCompare (f : Fmt) (ftz : Bool) (cond a b : Nat) : Bool × Flags :=
  let x := f.readFtz ftz a
  let y := f.readFtz ftz b
  let un := x.isNan || y.isNan
  let sn := x.isSnan || y.isSnan
  let c := cmpVal x y
  match cond with
  | 0 => (!un && decide (c = 0), flagIf sn flagNV)
  | 1 => (un || decide (c ≠ 0), flagIf sn flagNV)
  | 2 => (!un && decide (c < 0), flagIf un flagNV)
  | 3 => (!un && decide (c ≤ 0), flagIf un flagNV)
  | 4 => (!un && decide (0 < c), flagIf un flagNV)
  | 5 => (!un && decide (0 ≤ c), flagIf un flagNV)
  | 6 => (un, flagIf sn flagNV)
  | _ => (!un, flagIf sn flagNV)

/-- FCLASS (R117): one bit of ten. -/
def fClass (f : Fmt) (a : Nat) : Nat :=
  match f.read a with
  | .nan s => if s then 2 ^ 8 else 2 ^ 9
  | .inf n => if n then 2 ^ 0 else 2 ^ 7
  | .fin n m _ =>
    if m = 0 then (if n then 2 ^ 3 else 2 ^ 4)
    else if f.isSubnormal a then (if n then 2 ^ 2 else 2 ^ 5)
    else (if n then 2 ^ 1 else 2 ^ 6)

/-- A value converted to a format (R84, R74): NaN, infinity and zero as R84 lists them, else rounded. -/
def convVal (t : Fmt) (v : FEnv) (u : Nat) (x : FVal) : Nat × Flags :=
  match x with
  | .nan s => (t.nan, flagIf s flagNV)
  | .inf n =>
    match t.kind with
    | .e4m3 => (overflowResult t v n true, if v.sat8 then flagOFNX else flagNV)
    | .e2m1 => (overflowResult t v n true, flagOFNX)
    | .ieee => (t.inf n, 0)
  | .fin n m e => roundTo t v u ⟨n, m, e, false⟩

/-- A float-to-float conversion (R84). -/
def fConv (fr t : Fmt) (v : FEnv) (u a : Nat) : Nat × Flags := convVal t v u (fr.readFtz v.ftz a)

/-- A value rounded to an integer in the mode, saturated to [lo, hi] (R85). -/
def toInt (v : FEnv) (u : Nat) (lo hi : Int) (x : FVal) : Int × Flags :=
  match x with
  | .nan _ => (0, flagNV)
  | .inf n => (if n then lo else hi, flagNV)
  | .fin n m e =>
    let (kept, rem, s, exact) := cutAt m e 0 false
    let k := if roundUp v.rm n kept rem s false u then kept + 1 else kept
    let z : Int := if n then -(k : Int) else (k : Int)
    if z < lo then (lo, flagNV)
    else if hi < z then (hi, flagNV)
    else (z, flagIf (!exact) flagNX)

/-- An integer converted to a format (R84). -/
def ofInt (t : Fmt) (v : FEnv) (u : Nat) (z : Int) : Nat × Flags :=
  roundTo t v u ⟨decide (z < 0), z.natAbs, 0, false⟩

end Sys2Proof.Machine
end

