-- ==== Sys2Proof/Config.lean ====
section
/-! DEFINITION. What an implementation fixes and the values the spec leaves open: constants with no body, so that no proof
can know them (log 10). -/

namespace Sys2Proof.Config

/-- The n-th unspecified 64-bit value of a run (R2). -/
opaque freeWord : Nat → Word

/-- The n-th unspecified byte of a run: a destination byte an engine has not written (R210). -/
opaque freeByte : Nat → Byte

/-- The flags of a reduction slot whose contributions mix operations (R289). -/
opaque freeFlags : Nat → BitVec 5

/-- Byte i of the master record of a context area, whose layout the spec does not give (R368), for its contents as numbers. -/
opaque masterByte : List Nat → Nat → Byte

/-- Byte i of the 4 KiB of a spur's state in its image, whose layout the spec does not give (R368), for its contents as numbers. -/
opaque spurByte : List Nat → Nat → Byte

/-- The tag of a nested descriptor in SPWID.DESC, before it is made nonzero and distinct (R268). -/
opaque descTag : Nat → BitVec 32

/-- The result of an SFU function where the enclosures of the model do not decide the rounding (log 10): function code,
operand bits, type code. No operand is known for which this happens. -/
opaque sfuUndecided : Nat → Nat → Nat → Nat

/-- Whether the host's root port completes AtomicOp requests (R237). -/
opaque hostAtomicOps : Bool

/-- The n-th unspecified bit of a run: whether a request over a failed link was applied (R239), whether a lost thread's store is
performed (R202), a granule of a role whose bank was fenced (R334). -/
opaque freeBit : Nat → Bool

/-- The Traverse link that firmware's routing table gives to an address, by bits [51:40] (R340). -/
opaque traverseLink : Nat → Nat

/-- The request queue of its die's link port that an agent's requests use (R238), for masters by 124 * 896 + core, for threads by
their physical slot; below 16. -/
opaque requestQueue : Nat → Nat

/-- The home slice of a line, below 64 (R14). -/
opaque homeSlice : Nat → Nat

/-- The pseudo-channel of its die's HBM that holds a frame of 4 KiB (R378). -/
opaque hbmChannel : Nat → Nat

/-- The fused serial number (R12). -/
opaque serial : BitVec 32

/-- The digests of the boot's images and tables (R350). -/
opaque bootDigest : Nat → BitVec 512

/-- The version of an image or table of the boot, in the measurement log (R350). -/
opaque bootVersion : Nat → Nat

/-- The length of a firmware image from its first 64 bytes: the spec gives no format of an image (R350, R385). -/
opaque imageLength : List Byte → Nat

/-- Whether an image of the firmware, by its number, can import a state table of a layout version (R384). -/
opaque importable : Nat → Nat → Bool

/-- The firmware version of an image (R384). -/
opaque fwVersion : Nat → Nat

/-- The layout version of the state table that an image exports, and the oldest firmware version able to import it (R384). -/
opaque tableVersion : Nat → Nat
opaque tableMinver : Nat → Nat

/-- The body of a state table, whose byte layout the spec does not give (R384), for its contents as numbers. -/
opaque tableBody : List Nat → List Byte

/-- The digest of the fuse-held configuration (R350, R378): of the fence list, as numbers, and the security version. -/
opaque fuseDigest : List Nat → BitVec 512

/-- SVN of the attestation report (R351): the fused security version with the versions of FC-A's and FC-B's firmware. -/
opaque svn : Nat → Nat → BitVec 64

/-- An entry of the measurement log, whose byte layout the spec does not give (R350, R351): for its register, name, version and
digest. -/
opaque logEntry : Nat → String → Nat → List Byte → List Byte

/-- The ML-DSA-87 signature of a report under the identity key (R351): byte i of the signature of a digest. -/
opaque signature : BitVec 512 → Nat → Byte

/-- The certificate chain (R351). -/
opaque certificate : List Byte

end Sys2Proof.Config
end

