-- ==== Sys2Proof/Syntax.lean ====
section
/-! DEFINITION. The instruction set: one constructor for each row of the opcode table.
The first 288 rows are the 32-bit instruction words of 02_encoding.md (register numbers, predicates and unsigned
fields are `Nat`, signed immediates are `Int`); the last 109 rows are the events of the part, whose arguments say
which agent, unit or entry the event is about and what the outside supplies with it. -/

namespace Sys2Proof

inductive Instr where
  /-- ADD (R97). Adds two scalar registers modulo 2^64. -/
  | add (d a b : Nat)
  /-- SUB (R97). Subtracts s(b) from s(a) modulo 2^64. -/
  | sub (d a b : Nat)
  /-- AND (R97). Bitwise AND of two scalar registers. -/
  | and (d a b : Nat)
  /-- OR (R97). Bitwise OR of two scalar registers. -/
  | or (d a b : Nat)
  /-- XOR (R97). Bitwise XOR of two scalar registers. -/
  | xor (d a b : Nat)
  /-- ANDN (R97). s(a) AND NOT s(b). -/
  | andn (d a b : Nat)
  /-- MIN (R97). Signed minimum of two scalar registers. -/
  | min (d a b : Nat)
  /-- MAX (R97). Signed maximum of two scalar registers. -/
  | max (d a b : Nat)
  /-- MINU (R97). Unsigned minimum of two scalar registers. -/
  | minu (d a b : Nat)
  /-- MAXU (R97). Unsigned maximum of two scalar registers. -/
  | maxu (d a b : Nat)
  /-- SHL (R97). Shifts s(a) left by s(b)(5:0). -/
  | shl (d a b : Nat)
  /-- SHR (R97). Logical right shift by s(b)(5:0). -/
  | shr (d a b : Nat)
  /-- SRA (R97). Arithmetic right shift by s(b)(5:0). -/
  | sra (d a b : Nat)
  /-- ROTR (R97). Rotates s(a) right by s(b)(5:0). -/
  | rotr (d a b : Nat)
  /-- MUL (R98). Low 64 bits of the product. -/
  | mul (d a b : Nat)
  /-- MULH (R98). High 64 bits of the signed product. -/
  | mulh (d a b : Nat)
  /-- MULHU (R98). High 64 bits of the unsigned product. -/
  | mulhu (d a b : Nat)
  /-- DIV (R98). Signed quotient rounded towards zero, with the cases of R72. -/
  | div (d a b : Nat)
  /-- DIVU (R98). Unsigned quotient, with the cases of R72. -/
  | divu (d a b : Nat)
  /-- REM (R98). Signed remainder with the sign of the dividend. -/
  | rem (d a b : Nat)
  /-- REMU (R98). Unsigned remainder. -/
  | remu (d a b : Nat)
  /-- CLZ (R99). Counts leading zero bits of s(a). -/
  | clz (d a : Nat)
  /-- CTZ (R99). Counts trailing zero bits of s(a). -/
  | ctz (d a : Nat)
  /-- POPC (R99). Counts set bits of s(a). -/
  | popc (d a : Nat)
  /-- SEL (R103). Selects s(a) or s(b) by a predicate. -/
  | sel (d a b q : Nat)
  /-- PADD (R105). Adds to the 56-bit address of a pointer, keeping its tag. -/
  | padd (d a b : Nat)
  /-- QOP_AND (R108). Predicate AND. -/
  | qopAnd (d a b : Nat)
  /-- QOP_OR (R108). Predicate OR. -/
  | qopOr (d a b : Nat)
  /-- QOP_XOR (R108). Predicate XOR. -/
  | qopXor (d a b : Nat)
  /-- QOP_ANDN (R108). Predicate qa AND NOT qb. -/
  | qopAndn (d a b : Nat)
  /-- QOP_ORN (R108). Predicate qa OR NOT qb. -/
  | qopOrn (d a b : Nat)
  /-- QOP_XNOR (R108). Predicate XNOR. -/
  | qopXnor (d a b : Nat)
  /-- QOP_NOT (R108). Predicate NOT qa. -/
  | qopNot (d a : Nat)
  /-- CMP_EQ (R107). Sets a predicate when two registers are equal. -/
  | cmpEq (q a b : Nat)
  /-- CMP_NE (R107). Sets a predicate when two registers differ. -/
  | cmpNe (q a b : Nat)
  /-- CMP_LT (R107). Signed less-than compare to a predicate. -/
  | cmpLt (q a b : Nat)
  /-- CMP_GE (R107). Signed greater-or-equal compare to a predicate. -/
  | cmpGe (q a b : Nat)
  /-- CMP_LTU (R107). Unsigned less-than compare to a predicate. -/
  | cmpLtu (q a b : Nat)
  /-- CMP_GEU (R107). Unsigned greater-or-equal compare to a predicate. -/
  | cmpGeu (q a b : Nat)
  /-- CMP_TST (R107). Sets a predicate when s(a) AND s(b) is nonzero. -/
  | cmpTst (q a b : Nat)
  /-- CMPI_EQ (R107). Equality compare with a signed immediate. -/
  | cmpiEq (q a : Nat) (i : Int)
  /-- CMPI_NE (R107). Inequality compare with a signed immediate. -/
  | cmpiNe (q a : Nat) (i : Int)
  /-- CMPI_LT (R107). Signed less-than compare with an immediate. -/
  | cmpiLt (q a : Nat) (i : Int)
  /-- CMPI_GE (R107). Signed greater-or-equal compare with an immediate. -/
  | cmpiGe (q a : Nat) (i : Int)
  /-- CMPI_LTU (R107). Unsigned less-than compare with an immediate. -/
  | cmpiLtu (q a : Nat) (i : Int)
  /-- CMPI_GEU (R107). Unsigned greater-or-equal compare with an immediate. -/
  | cmpiGeu (q a : Nat) (i : Int)
  /-- CMPI_TST (R107). Bit-test compare with an immediate. -/
  | cmpiTst (q a : Nat) (i : Int)
  /-- BFX (R104). Extracts a bit field described by s(b). -/
  | bfx (d a b : Nat)
  /-- BFI (R104). Inserts a bit field of s(a) into s(d). -/
  | bfi (d a b : Nat)
  /-- ADDI (R100). Adds a sign-extended immediate. -/
  | addi (d a : Nat) (i : Int)
  /-- ANDI (R100). ANDs with a sign-extended immediate. -/
  | andi (d a : Nat) (i : Int)
  /-- ORI (R100). ORs with a sign-extended immediate. -/
  | ori (d a : Nat) (i : Int)
  /-- XORI (R100). XORs with a sign-extended immediate. -/
  | xori (d a : Nat) (i : Int)
  /-- SHLI (R101). Shifts left by an immediate count. -/
  | shli (d a i : Nat)
  /-- SHRI (R101). Logical right shift by an immediate count. -/
  | shri (d a i : Nat)
  /-- SRAI (R101). Arithmetic right shift by an immediate count. -/
  | srai (d a i : Nat)
  /-- LIH (R102). Adds the immediate times 2^34 to s(a). -/
  | lih (d a : Nat) (i : Int)
  /-- PTAG (R106). Writes a tag byte into bits (63:56) of a pointer. -/
  | ptag (d a t : Nat)
  /-- B (R109). Branches on a predicate or its negation. -/
  | br (q n : Nat) (o : Int)
  /-- JAL (R110). Jumps PC-relative and writes the link. -/
  | jal (d : Nat) (o : Int)
  /-- JALR (R111). Jumps to a register plus scaled offset and writes the link. -/
  | jalr (d a : Nat) (i : Int)
  /-- REP (R112). Decrements a counter and branches back over a loop body. -/
  | rep (a : Nat) (i : Int)
  /-- FADD (R113). Floating-point add of the typed operands, rounded once. -/
  | fadd (t d a b : Nat)
  /-- FSUB (R113). Floating-point subtract. -/
  | fsub (t d a b : Nat)
  /-- FMUL (R113). Floating-point multiply. -/
  | fmul (t d a b : Nat)
  /-- FDIV (R113). Floating-point divide. -/
  | fdiv (t d a b : Nat)
  /-- FMIN (R88). IEEE minimum. -/
  | fmin (t d a b : Nat)
  /-- FMAX (R88). IEEE maximum. -/
  | fmax (t d a b : Nat)
  /-- FMINN (R88). IEEE minimumNumber. -/
  | fminn (t d a b : Nat)
  /-- FMAXN (R88). IEEE maximumNumber. -/
  | fmaxn (t d a b : Nat)
  /-- FMA (R115). Fused multiply-add into s(d). -/
  | fma (t d a b : Nat)
  /-- FNMA (R115). Fused s(d) minus the product. -/
  | fnma (t d a b : Nat)
  /-- FSQRT (R116). Correctly rounded square root. -/
  | fsqrt (t d a : Nat)
  /-- FCLASS (R117). Writes a one-hot class mask of s(a). -/
  | fclass (t d a : Nat)
  /-- FCMP_EQ (R118). Floating equality compare to a predicate. -/
  | fcmpEq (t q a b : Nat)
  /-- FCMP_NE (R118). Floating not-equal or unordered compare. -/
  | fcmpNe (t q a b : Nat)
  /-- FCMP_LT (R118). Floating less-than compare. -/
  | fcmpLt (t q a b : Nat)
  /-- FCMP_LE (R118). Floating less-or-equal compare. -/
  | fcmpLe (t q a b : Nat)
  /-- FCMP_GT (R118). Floating greater-than compare. -/
  | fcmpGt (t q a b : Nat)
  /-- FCMP_GE (R118). Floating greater-or-equal compare. -/
  | fcmpGe (t q a b : Nat)
  /-- FCMP_UN (R118). Unordered compare. -/
  | fcmpUn (t q a b : Nat)
  /-- FCMP_OR (R118). Ordered compare. -/
  | fcmpOr (t q a b : Nat)
  /-- FCVT (R119). Converts s(a) between floating and integer types. -/
  | fcvt (d a t f r : Nat)
  /-- SFN_EXP2 (R120). SFU base-2 exponential. -/
  | sfnExp2 (d a t : Nat)
  /-- SFN_LOG2 (R120). SFU base-2 logarithm. -/
  | sfnLog2 (d a t : Nat)
  /-- SFN_RCP (R120). SFU reciprocal. -/
  | sfnRcp (d a t : Nat)
  /-- SFN_RSQ (R120). SFU reciprocal square root. -/
  | sfnRsq (d a t : Nat)
  /-- SFN_SIN (R120). SFU sine. -/
  | sfnSin (d a t : Nat)
  /-- SFN_COS (R120). SFU cosine. -/
  | sfnCos (d a t : Nat)
  /-- SFN_TANH (R120). SFU hyperbolic tangent. -/
  | sfnTanh (d a t : Nat)
  /-- SFN_ERF (R120). SFU error function. -/
  | sfnErf (d a t : Nat)
  /-- VSFN_EXP2 (R122). Per-lane base-2 exponential in one SFU request. -/
  | vsfnExp2 (d a m l : Nat)
  /-- VSFN_LOG2 (R122). Per-lane base-2 logarithm. -/
  | vsfnLog2 (d a m l : Nat)
  /-- VSFN_RCP (R122). Per-lane reciprocal. -/
  | vsfnRcp (d a m l : Nat)
  /-- VSFN_RSQ (R122). Per-lane reciprocal square root. -/
  | vsfnRsq (d a m l : Nat)
  /-- VSFN_SIN (R122). Per-lane sine. -/
  | vsfnSin (d a m l : Nat)
  /-- VSFN_COS (R122). Per-lane cosine. -/
  | vsfnCos (d a m l : Nat)
  /-- VSFN_TANH (R122). Per-lane hyperbolic tangent. -/
  | vsfnTanh (d a m l : Nat)
  /-- VSFN_ERF (R122). Per-lane error function. -/
  | vsfnErf (d a m l : Nat)
  /-- VADD (R124). Per-lane integer add. -/
  | vadd (d a b m l : Nat)
  /-- VSUB (R124). Per-lane integer subtract. -/
  | vsub (d a b m l : Nat)
  /-- VADDS (R124). Per-lane saturating signed add. -/
  | vadds (d a b m l : Nat)
  /-- VSUBS (R124). Per-lane saturating signed subtract. -/
  | vsubs (d a b m l : Nat)
  /-- VMUL (R124). Per-lane low product. -/
  | vmul (d a b m l : Nat)
  /-- VMULH (R124). Per-lane high signed product. -/
  | vmulh (d a b m l : Nat)
  /-- VMAD (R124). Per-lane multiply-add into vd. -/
  | vmad (d a b m l : Nat)
  /-- VMIN (R124). Per-lane signed minimum. -/
  | vmin (d a b m l : Nat)
  /-- VMAX (R124). Per-lane signed maximum. -/
  | vmax (d a b m l : Nat)
  /-- VAND (R125). 128-bit AND. -/
  | vand (d a b m l : Nat)
  /-- VOR (R125). 128-bit OR. -/
  | vor (d a b m l : Nat)
  /-- VXOR (R125). 128-bit XOR. -/
  | vxor (d a b m l : Nat)
  /-- VSHL (R125). Per-lane left shift by lane counts. -/
  | vshl (d a b m l : Nat)
  /-- VSHR (R125). Per-lane logical right shift. -/
  | vshr (d a b m l : Nat)
  /-- VSRA (R125). Per-lane arithmetic right shift. -/
  | vsra (d a b m l : Nat)
  /-- VCMP_EQ (R126). Per-lane integer equality mask. -/
  | vcmpEq (d a b m l : Nat)
  /-- VCMP_LT (R126). Per-lane signed less-than mask. -/
  | vcmpLt (d a b m l : Nat)
  /-- VCMP_LTU (R126). Per-lane unsigned less-than mask. -/
  | vcmpLtu (d a b m l : Nat)
  /-- VCMP_TST (R126). Per-lane bit-test mask. -/
  | vcmpTst (d a b m l : Nat)
  /-- VSEL (R125). Bitwise select of va or vb by the mask in vd. -/
  | vsel (d a b m l : Nat)
  /-- VSHUF (R129). Permutes lanes of va by indices in vb. -/
  | vshuf (d a b m l : Nat)
  /-- VSPLAT (R130). Copies a scalar into every lane. -/
  | vsplat (d a m l : Nat)
  /-- VEXT (R130). Extracts one lane, sign-extended, to a scalar. -/
  | vext (d a k m l : Nat)
  /-- VINS (R130). Inserts a scalar into one lane. -/
  | vins (d a k m l : Nat)
  /-- VNZ (R131). Compacts positions of nonzero lanes. -/
  | vnz (d a m l : Nat)
  /-- VRED_ADD (R134). Tree-sum of the lanes. -/
  | vredAdd (d a m l : Nat)
  /-- VRED_MIN (R134). Tree minimum of the lanes. -/
  | vredMin (d a m l : Nat)
  /-- VRED_MAX (R134). Tree maximum of the lanes. -/
  | vredMax (d a m l : Nat)
  /-- VRED_MINN (R134). Tree minimumNumber of floating lanes. -/
  | vredMinn (d a m l : Nat)
  /-- VRED_MAXN (R134). Tree maximumNumber of floating lanes. -/
  | vredMaxn (d a m l : Nat)
  /-- VRED_MINU (R134). Tree unsigned minimum of integer lanes. -/
  | vredMinu (d a m l : Nat)
  /-- VRED_MAXU (R134). Tree unsigned maximum of integer lanes. -/
  | vredMaxu (d a m l : Nat)
  /-- VDOT (R135). Dot product summed in the fixed lane tree. -/
  | vdot (d a b m l : Nat)
  /-- VCVT (R132). Converts elements between vector types. -/
  | vcvt (d a f r m t : Nat)
  /-- VFADD (R128). Per-lane floating add. -/
  | vfadd (d a b m l : Nat)
  /-- VFSUB (R128). Per-lane floating subtract. -/
  | vfsub (d a b m l : Nat)
  /-- VFMUL (R128). Per-lane floating multiply. -/
  | vfmul (d a b m l : Nat)
  /-- VFMA (R128). Per-lane fused multiply-add into vd. -/
  | vfma (d a b m l : Nat)
  /-- VFMIN (R128). Per-lane IEEE minimum. -/
  | vfmin (d a b m l : Nat)
  /-- VFMAX (R128). Per-lane IEEE maximum. -/
  | vfmax (d a b m l : Nat)
  /-- VFMINN (R128). Per-lane minimumNumber. -/
  | vfminn (d a b m l : Nat)
  /-- VFMAXN (R128). Per-lane maximumNumber. -/
  | vfmaxn (d a b m l : Nat)
  /-- VFCMP_EQ (R127). Per-lane floating equality mask. -/
  | vfcmpEq (d a b m l : Nat)
  /-- VFCMP_LT (R127). Per-lane floating less-than mask. -/
  | vfcmpLt (d a b m l : Nat)
  /-- VFCMP_LE (R127). Per-lane floating less-or-equal mask. -/
  | vfcmpLe (d a b m l : Nat)
  /-- VFCMP_UN (R127). Per-lane unordered mask. -/
  | vfcmpUn (d a b m l : Nat)
  /-- LD_B (R222). Loads a sign-extended byte. -/
  | ldB (d a : Nat) (i : Int)
  /-- LD_BU (R222). Loads a zero-extended byte. -/
  | ldBu (d a : Nat) (i : Int)
  /-- LD_H (R222). Loads a sign-extended halfword. -/
  | ldH (d a : Nat) (i : Int)
  /-- LD_HU (R222). Loads a zero-extended halfword. -/
  | ldHu (d a : Nat) (i : Int)
  /-- LD_W (R222). Loads a sign-extended word. -/
  | ldW (d a : Nat) (i : Int)
  /-- LD_WU (R222). Loads a zero-extended word. -/
  | ldWu (d a : Nat) (i : Int)
  /-- LD_D (R222). Loads a doubleword. -/
  | ldD (d a : Nat) (i : Int)
  /-- ST_B (R222). Stores a byte. -/
  | stB (d a : Nat) (i : Int)
  /-- ST_H (R222). Stores a halfword. -/
  | stH (d a : Nat) (i : Int)
  /-- ST_W (R222). Stores a word. -/
  | stW (d a : Nat) (i : Int)
  /-- ST_D (R222). Stores a doubleword. -/
  | stD (d a : Nat) (i : Int)
  /-- LDV (R223). Loads 16 bytes into a vector. -/
  | ldv (d a : Nat) (i : Int)
  /-- STV (R223). Stores a vector's 16 bytes. -/
  | stv (d a : Nat) (i : Int)
  /-- LDA (R224). Doubleword load with acquire at package scope. -/
  | lda (d a : Nat) (i : Int)
  /-- STL (R224). Doubleword store with release at package scope. -/
  | stl (d a : Nat) (i : Int)
  /-- LDC (R224). Consume load that taints its destination. -/
  | ldc (d a : Nat) (i : Int)
  /-- LDT (R227). Typed load decoding elements and scales into vector lanes. -/
  | ldt (d a b t : Nat)
  /-- STT (R228). Typed store encoding four FP32 lanes against existing scales. -/
  | stt (d a b r : Nat)
  /-- LDS (R225). Loads 8 bytes from scratchpad as one pool step. -/
  | lds (d a : Nat) (i : Int)
  /-- STS (R225). Stores 8 bytes to scratchpad as one pool step. -/
  | sts (d a : Nat) (i : Int)
  /-- PREF (R226). Prefetch hint for one line. -/
  | pref (a : Nat) (i : Int)
  /-- LDF (R230). Reads a full granule, leaving it full, waiting while empty. -/
  | ldf (d a : Nat) (i : Int)
  /-- LDFE (R230). Reads a full granule and empties it, waiting while empty. -/
  | ldfe (d a : Nat) (i : Int)
  /-- STF (R230). Writes an empty granule and fills it, waiting while full. -/
  | stf (d a : Nat) (i : Int)
  /-- STO (R230). Writes a granule and sets it full without waiting. -/
  | sto (d a : Nat) (i : Int)
  /-- FEST (R230). Reports and optionally sets a granule's state bit. -/
  | fest (d a : Nat) (i : Int)
  /-- AMO_SWAP_W (R232). Atomic 32-bit swap returning the old value. -/
  | amoSwapW (d a b : Nat)
  /-- AMO_ADD_W (R232). Atomic 32-bit add. -/
  | amoAddW (d a b : Nat)
  /-- AMO_AND_W (R232). Atomic 32-bit AND. -/
  | amoAndW (d a b : Nat)
  /-- AMO_OR_W (R232). Atomic 32-bit OR. -/
  | amoOrW (d a b : Nat)
  /-- AMO_XOR_W (R232). Atomic 32-bit XOR. -/
  | amoXorW (d a b : Nat)
  /-- AMO_MIN_W (R232). Atomic 32-bit signed minimum. -/
  | amoMinW (d a b : Nat)
  /-- AMO_MAX_W (R232). Atomic 32-bit signed maximum. -/
  | amoMaxW (d a b : Nat)
  /-- AMO_SWAP_D (R232). Atomic 64-bit swap. -/
  | amoSwapD (d a b : Nat)
  /-- AMO_ADD_D (R232). Atomic 64-bit add. -/
  | amoAddD (d a b : Nat)
  /-- AMO_AND_D (R232). Atomic 64-bit AND. -/
  | amoAndD (d a b : Nat)
  /-- AMO_OR_D (R232). Atomic 64-bit OR. -/
  | amoOrD (d a b : Nat)
  /-- AMO_XOR_D (R232). Atomic 64-bit XOR. -/
  | amoXorD (d a b : Nat)
  /-- AMO_MIN_D (R232). Atomic 64-bit signed minimum. -/
  | amoMinD (d a b : Nat)
  /-- AMO_MAX_D (R232). Atomic 64-bit signed maximum. -/
  | amoMaxD (d a b : Nat)
  /-- AMO_MINU_W (R232). Atomic 32-bit unsigned minimum. -/
  | amoMinuW (d a b : Nat)
  /-- AMO_MAXU_W (R232). Atomic 32-bit unsigned maximum. -/
  | amoMaxuW (d a b : Nat)
  /-- AMO_MINU_D (R232). Atomic 64-bit unsigned minimum. -/
  | amoMinuD (d a b : Nat)
  /-- AMO_MAXU_D (R232). Atomic 64-bit unsigned maximum. -/
  | amoMaxuD (d a b : Nat)
  /-- AMOCAS_W (R232). Atomic 32-bit compare-and-swap. -/
  | amocasW (d a b : Nat)
  /-- AMOCAS_D (R232). Atomic 64-bit compare-and-swap. -/
  | amocasD (d a b : Nat)
  /-- RED_ADD (R235). Sends a non-returning integer add reduction to the home. -/
  | redAdd (a b w : Nat)
  /-- RED_AND (R235). Non-returning AND reduction. -/
  | redAnd (a b w : Nat)
  /-- RED_OR (R235). Non-returning OR reduction. -/
  | redOr (a b w : Nat)
  /-- RED_XOR (R235). Non-returning XOR reduction. -/
  | redXor (a b w : Nat)
  /-- RED_MIN (R235). Non-returning signed minimum reduction. -/
  | redMin (a b w : Nat)
  /-- RED_MAX (R235). Non-returning signed maximum reduction. -/
  | redMax (a b w : Nat)
  /-- RED_MINU (R235). Non-returning unsigned minimum reduction. -/
  | redMinu (a b w : Nat)
  /-- RED_MAXU (R235). Non-returning unsigned maximum reduction. -/
  | redMaxu (a b w : Nat)
  /-- RED_FADD (R235). Non-returning floating add reduction, RNE. -/
  | redFadd (a b w : Nat)
  /-- RED_FMIN (R235). Non-returning floating minimum reduction. -/
  | redFmin (a b w : Nat)
  /-- RED_FMAX (R235). Non-returning floating maximum reduction. -/
  | redFmax (a b w : Nat)
  /-- FENCE_T (R236). Thread-scope fence ordering engine source reads. -/
  | fenceT
  /-- FENCE_S (R236). Spur-scope fence. -/
  | fenceS
  /-- FENCE_D (R236). Die-scope fence. -/
  | fenceD
  /-- FENCE_P (R236). Package-scope fence. -/
  | fenceP
  /-- FENCE_X (R236). System-scope fence confirming host writes. -/
  | fenceX
  /-- REDWAIT (R236). Waits until every earlier reduction is applied. -/
  | redwait
  /-- KSHAPE (R158). Writes a tile shape register. -/
  | kshape (d s : Nat)
  /-- KLD (R159). Copies a tile raw from memory into TIL. -/
  | kld (d s : Nat)
  /-- KLDT (R160). Loads a tile from typed memory with decoding. -/
  | kldt (d s : Nat)
  /-- KST (R159). Copies a tile raw from TIL to memory. -/
  | kst (a s : Nat)
  /-- KZERO (R161). Writes canonical zeros and unit scales into a tile. -/
  | kzero (d : Nat)
  /-- KMOV (R162). Copies a tile. -/
  | kmov (d a : Nat)
  /-- KTR (R162). Transposes a tile. -/
  | ktr (d a : Nat)
  /-- GANG (R149). Joins the following KMMA or KMMR to a gang record and parks. -/
  | gang
  /-- KMMA (R154). Gang matrix multiply-accumulate into an accumulator window. -/
  | kmma (c a b n z t s : Nat)
  /-- KMMR (R156). Ring matrix multiply-accumulate with rotation of kb. -/
  | kmmr (c a b n z t s : Nat)
  /-- AZERO (R163). Zeroes an accumulator. -/
  | azero (c : Nat)
  /-- ALD (R164). Loads an accumulator window raw from memory. -/
  | ald (c t s : Nat)
  /-- AST (R164). Stores an accumulator window raw to memory. -/
  | ast (c t s : Nat)
  /-- ACVT (R165). Converts an accumulator window into a tile. -/
  | acvt (d c t r s : Nat)
  /-- NZSCAN (R168). Writes the indices of nonzero elements of a vector to SCR. -/
  | nzscan (d a b : Nat)
  /-- GATH (R170). Queues a gather of indexed rows into SCR or TIL. -/
  | gath (d a b : Nat)
  /-- MGOPEN (R174). Opens an Arete session from a descriptor. -/
  | mgopen (d a : Nat)
  /-- MGAREA (R180). Adds a spill extent to a session. -/
  | mgarea (d a b : Nat)
  /-- MGPUT (R178). Puts a batch of triples on a session stream. -/
  | mgput (d a b : Nat)
  /-- MGEND_END (R183). Ends input to a session. -/
  | mgendEnd (d a b : Nat)
  /-- MGEND_ABANDON (R183). Abandons a session and releases its resources. -/
  | mgendAbandon (d a b : Nat)
  /-- MGFIN (R184). Merges a session into compressed sparse rows. -/
  | mgfin (d a b : Nat)
  /-- MGSTAT (R185). Returns a session statistic. -/
  | mgstat (d a b : Nat)
  /-- GTOPK (R188). Selects the top k experts per token. -/
  | gtopk (d a b : Nat)
  /-- GHIST (R189). Writes per-expert counts and prefix. -/
  | ghist (d a b : Nat)
  /-- GPERM (R190). Writes the permutation grouping entries by expert. -/
  | gperm (d a b : Nat)
  /-- CTREE_BIND (R252). Binds a tree region under a tree number. -/
  | ctreeBind (d a b : Nat)
  /-- CTREE_UNBIND (R252). Releases a tree binding after its instructions complete. -/
  | ctreeUnbind (d a b : Nat)
  /-- CDESC (R255). Descends the tree by PUCT, adding virtual loss and claiming a leaf. -/
  | cdesc (d a b : Nat)
  /-- CEXP (R257). Expands a claimed leaf with a batch of children. -/
  | cexp (d a b : Nat)
  /-- CBACK_BACKUP (R259). Backs a value up along a path, leaf first. -/
  | cbackBackup (d a b : Nat)
  /-- CBACK_CANCEL (R259). Removes a path's virtual loss and gives up its claim. -/
  | cbackCancel (d a b : Nat)
  /-- CREAD (R260). Reads one node atomically into four registers. -/
  | cread (d a b : Nat)
  /-- CREUSE (R261). Compacts the subtree of a new root into the other half. -/
  | creuse (d a : Nat)
  /-- SPAWN (R271). Starts a plain spawn of virtual threads. -/
  | spawn (d : Nat) (o : Int)
  /-- SPAWNR (R271). Starts a resident spawn placing every member at once. -/
  | spawnr (d : Nat) (o : Int)
  /-- JOIN (R282). Waits for the outstanding spawn and writes its status. -/
  | join (d : Nat)
  /-- TEND (R281). Ends the executing thread after draining its writes. -/
  | tend
  /-- SSPAWN (R276). Pushes a nested descriptor to Scree or runs children inline. -/
  | sspawn (d a p : Nat)
  /-- PS (R287). Ridge prefix sum on a Ridge register. -/
  | ps (d n b : Nat)
  /-- PSM (R287). Ridge prefix sum bounded by a limit register. -/
  | psm (d n b : Nat)
  /-- NRD (R288). Reads a Ridge register as one Ridge step. -/
  | nrd (d n : Nat)
  /-- NWR (R288). Writes a Ridge register from the master. -/
  | nwr (n b : Nat)
  /-- JRED_ADD (R289). Contributes to a join reduction slot by integer add. -/
  | jredAdd (n b : Nat)
  /-- JRED_MIN (R289). Join reduction by signed minimum. -/
  | jredMin (n b : Nat)
  /-- JRED_MAX (R289). Join reduction by signed maximum. -/
  | jredMax (n b : Nat)
  /-- JRED_MINU (R289). Join reduction by unsigned minimum. -/
  | jredMinu (n b : Nat)
  /-- JRED_MAXU (R289). Join reduction by unsigned maximum. -/
  | jredMaxu (n b : Nat)
  /-- JRED_FADD_FP64 (R289). Join reduction by FP64 add, RNE. -/
  | jredFaddFp64 (n b : Nat)
  /-- JRED_FADD_FP32 (R289). Join reduction by FP32 add, RNE. -/
  | jredFaddFp32 (n b : Nat)
  /-- BAR (R293). Arrives at a named barrier and parks until the phase completes. -/
  | bar (i : Int)
  /-- BARINIT (R293). Sets a named barrier's count. -/
  | barinit (a : Nat) (i : Int)
  /-- YIELD (R309). Leaves the next rotation set. -/
  | yield
  /-- WAIT_GEU (R313). Waits until a doubleword is at least a value, unsigned. -/
  | waitGeu (d a b : Nat)
  /-- WAIT_EQ (R313). Waits until a doubleword equals a value. -/
  | waitEq (d a b : Nat)
  /-- WAIT_NE (R313). Waits until a doubleword differs from a value. -/
  | waitNe (d a b : Nat)
  /-- POOLSET (R321). Grows or shrinks a pool role, returning a status. -/
  | poolset (d a b : Nat)
  /-- POOLSET_T (R321). POOLSET that traps POOLREF on refusal. -/
  | poolsetT (d a b : Nat)
  /-- POOLACK (R327). Acknowledges a scratch shrink notice. -/
  | poolack (d a : Nat)
  /-- POOLQ (R335). Queries bank roles and REG room. -/
  | poolq (d a : Nat)
  /-- CPY (R240). Queues a copy-engine copy with optional arrival counter. -/
  | cpy (d a b : Nat)
  /-- CPY2D (R241). Queues a strided two-dimensional copy. -/
  | cpy2d (d a b : Nat)
  /-- CPWAIT (R244). Waits for the thread's copies and counts those stopped on error. -/
  | cpwait (d : Nat)
  /-- RLD (R245). Remote scratch load, plain or full-empty. -/
  | rld (d a b : Nat)
  /-- RST (R245). Remote scratch store, plain or full-empty. -/
  | rst (d a b : Nat)
  /-- TRAP (R360). Raises SWTRAP with a code, resuming after it. -/
  | trap (i : Nat)
  /-- TRET (R361). Returns from a trap handler. -/
  | tret
  /-- CSRR (R362). Reads a CSR. -/
  | csrr (d c : Nat)
  /-- CSRW (R362). Writes the RW fields of a CSR. -/
  | csrw (a c : Nat)
  /-- CSRS (R362). Sets bits of a CSR's RW fields. -/
  | csrs (a c : Nat)
  /-- CSRC (R362). Clears bits of a CSR's RW fields and W1C fields. -/
  | csrc (a c : Nat)
  /-- CTXSV (R365). Service core pre-empts a master core's program and saves it. -/
  | ctxsv (a n : Nat)
  /-- CTXRS (R365). Service core restores a saved program onto a master core. -/
  | ctxrs (a n : Nat)
  /-- FENCEI (R363). Orders instruction fetch after earlier stores. -/
  | fencei
  /-- BKPT (R360). Raises SWTRAP 0x400 at itself. -/
  | bkpt
  /-- HALT (R364). Ends the program normally. -/
  | halt
  /-- TLBINV (R346). Invalidates translations package-wide and drains their users. -/
  | tlbinv (a b : Nat)
  /-- PROBE (R347). Reports the translation attributes of an address. -/
  | probe (d a : Nat)
  /-- FRAME (R40). Repeat frame executing captured words with stepped registers. -/
  | frame (l i d a b : Nat)
  /-- XIMM (R38). Extension prefix widening the next immediate. -/
  | ximm (h : Nat)
  /-- NUMBER_GRANT (R274). The Ridge grants the next spawn number to a requesting slot. -/
  | numberGrant (who : AgentId)
  /-- SCREE_DRAW (R278). An idle slot draws the next number of the best eligible descriptor. -/
  | screeDraw (who : AgentId)
  /-- RERUN_TAKE (R380). A slot starts a lost thread from its recorded start state. -/
  | rerunTake (who : AgentId)
  /-- PARKED_THREAD_RETURN (R310). A slot restores a runnable parked thread, which re-executes its faulting instruction. -/
  | parkedThreadReturn (who : AgentId)
  /-- RESIDENT_PLACEMENT (R306). A held SPAWNR is placed in the first interval with no hold on its zones. -/
  | residentPlacement (die core : Nat)
  /-- INLINE_CHILD_START (R279). An inline child starts once REG room for its window appears. -/
  | inlineChildStart (who : AgentId)
  /-- THREAD_END (R281). After TEND's drain the thread's reduction and flags are folded and its slot freed. -/
  | threadEnd (who : AgentId)
  /-- JOIN_COMPLETE (R284). When U, D, L and E are zero JOIN writes results and status. -/
  | joinComplete (die core : Nat)
  /-- RIDGE_REPLY (R287). A Ridge result is written to s(d) 14 cycles after issue. -/
  | ridgeReply (who : AgentId)
  /-- SFU_RESULT (R311). The SFU writes a result into the slot's return token cell. -/
  | sfuResult (die spur : Nat)
  /-- LOAD_REPLY (R221). A load or returning reply arrives and the slot rejoins rotation. -/
  | loadReply (who : AgentId)
  /-- STORE_PERFORM (R221). An outstanding store is performed at its home. -/
  | storePerform (who : AgentId) (k : Nat)
  /-- RED_APPLY (R235). The home slice applies a pending reduction in the word's queue. -/
  | redApply (who : AgentId) (k : Nat)
  /-- CLAIM_GRANT (R233). The home slice grants a word's claim to the queue head with its value. -/
  | claimGrant (word : Nat)
  /-- CLAIM_RELEASE (R233). The claimant returns the new word and the next claim is granted. -/
  | claimRelease (word : Nat)
  /-- REMOTE_ACCESS_PERFORM (R246). Slot 31 of the target spur performs a remote access as a pool step. -/
  | remoteAccessPerform (die spur k : Nat)
  /-- MATRIX_OP_START (R305). A gang operation starts at an allowed MGATE cycle. -/
  | matrixOpStart (die spur gang : Nat)
  /-- MATRIX_OP_COMPLETE (R150). A gang operation completes and releases its members. -/
  | matrixOpComplete (die spur gang : Nat)
  /-- NZSCAN_COMPLETE (R169). The scan's index list is written in one pool step. -/
  | nzscanComplete (who : AgentId)
  /-- COPY_COMMAND_COMPLETE (R242). A copy command's writes finish and its arrival increment is performed. -/
  | copyCommandComplete (die spur k : Nat)
  /-- GATHER_COMMAND_COMPLETE (R172). A gather's rows are written and its counter incremented. -/
  | gatherCommandComplete (die spur k : Nat)
  /-- ENGINE_FAULT_STOP (R210). An engine meeting PROT, POISON or a refused page stops and releases ownership. -/
  | engineFaultStop (die spur unit k : Nat)
  /-- ARETE_PUT_REPLY (R178). Arete assigns positions and replies to a parked MGPUT. -/
  | aretePutReply (who : AgentId)
  /-- ARETE_MERGE_COMPLETE (R184). The merge writes the result arrays and the MGFIN status. -/
  | areteMergeComplete (who : AgentId)
  /-- CAIRN_OPERATION_COMPLETE (R262). A Cairn instruction's last step completes and its status is written. -/
  | cairnOperationComplete (who : AgentId)
  /-- GATE_OPERATION_COMPLETE (R188). A gate unit instruction's outputs are performed and it returns OK. -/
  | gateOperationComplete (die : Nat)
  /-- WAIT_RECHECK (R313). A sleeping WAIT rereads its word on a store wake or every 256 cycles. -/
  | waitRecheck (who : AgentId)
  /-- WAIT_WLIM_EXPIRY (R313). A WAIT's limit expires and it traps WLIMIT. -/
  | waitWlimExpiry (who : AgentId)
  /-- FE_WAIT_EXPIRY (R231). A full-empty waiter is withdrawn on WLIM expiry and traps WLIMIT. -/
  | feWaitExpiry (who : AgentId)
  /-- BAR_WLIM_EXPIRY (R293). A barrier arrival is withdrawn on WLIM expiry and traps WLIMIT. -/
  | barWlimExpiry (who : AgentId)
  /-- REMOTE_WAIT_EXPIRY (R246). A remote full-empty request is withdrawn on expiry and traps WLIMIT. -/
  | remoteWaitExpiry (who : AgentId)
  /-- GANG_PARK_EXPIRY (R151). A parked gang member's WLIM expires with GANGBRK or WLIMIT. -/
  | gangParkExpiry (who : AgentId)
  /-- GANG_RECORD_STALL_EXPIRY (R150). A pair stalled for a 17th gang record traps WLIMIT. -/
  | gangRecordStallExpiry (who : AgentId)
  /-- GOVERNOR_SAMPLE (R304). Every 10 µs the governor samples power and sets LEVEL, holds, MGATE and clock. -/
  | governorSample (die watts : Nat) (temps : List Nat)
  /-- PAGE_FAULT_SERVICE (R366). The die's fault service maps, holds or forwards a page fault. -/
  | pageFaultService (die k choice frame : Nat)
  /-- PAGE_MOVE_ACCEPT (R214). The fault service accepts a move nomination and marks the page MIGRATING. -/
  | pageMoveAccept (die asid page dest frame : Nat)
  /-- MIGRATION_INVAL_ACK (R214). Every die acknowledges the invalidation and draining begins. -/
  | migrationInvalAck (k : Nat)
  /-- MIGRATION_DRAIN_DONE (R214). Accesses in flight are drained and the copy begins. -/
  | migrationDrainDone (k : Nat)
  /-- MIGRATION_COMMIT (R214). The copy completes, HOME changes and held accesses replay. -/
  | migrationCommit (k : Nat)
  /-- MIGRATION_ABORT (R214). An uncorrectable error aborts the copy and held accesses replay at the old home. -/
  | migrationAbort (k : Nat)
  /-- CONTEXT_SAVE_COMPLETE (R367). After drains a pre-empted program's context is written and its units freed. -/
  | contextSaveComplete (die core : Nat)
  /-- CORRECTED_ERROR (R377). A corrected error is counted and may prove a lasting fault. -/
  | correctedError (die unit index : Nat)
  /-- UNCORRECTABLE_ERROR (R376). An uncorrectable error marks poison or fences a spur or die. -/
  | uncorrectableError (die unit index addr : Nat)
  /-- DIE_RESET_COMPLETE (R376). A reset die returns to service or is fenced after self-test. -/
  | dieResetComplete (die : Nat) (pass : Bool)
  /-- DEVICE_RESET (R376). The host resets a stopped device. -/
  | deviceReset (fails : BootFails)
  /-- QDOOR_WRITE (R387). A doorbell write sets a queue's TAIL, or puts it in ERROR on overrun. -/
  | qdoorWrite (die q value : Nat)
  /-- FRHEAD_WRITE (R390). The host advances the fault-ring head, making room for entries. -/
  | frheadWrite (die value : Nat)
  /-- BAR0_REGISTER_WRITE (R387). A host write to a BAR0 register without behaviour of its own. -/
  | bar0RegisterWrite (offset size value : Nat)
  /-- FAULT_RING_WRITE (R390). Firmware writes a fault-ring entry when room exists and raises the die vector. -/
  | faultRingWrite (die : Nat)
  /-- LAUNCH (R300). The command processor starts a chosen LAUNCH on a free master core. -/
  | launch (die q : Nat)
  /-- COPY (R298). A COPY packet starts moving bytes. -/
  | copy (die q : Nat)
  /-- COPY_PACKET_DONE (R298). A COPY packet completes when every destination byte is written. -/
  | copyPacketDone (die q k : Nat)
  /-- SIGNAL_SET (R298). A packet whose only effect is its header signal. -/
  | signalSet (die q : Nat)
  /-- SIGNAL_WAIT (R298). A packet that blocks its queue until a memory condition holds. -/
  | signalWait (die q : Nat)
  /-- SIGNAL_WAIT_SATISFIED (R298). The awaited word satisfies the condition and the packet completes. -/
  | signalWaitSatisfied (die q k : Nat)
  /-- FENCE (R298). A packet that completes when every earlier packet has completed. -/
  | fence (die q : Nat)
  /-- COMPLETE (R298). A packet that sends an MSI-X message after earlier packets complete. -/
  | complete (die q : Nat)
  /-- PACKET_FETCH_FAULT (R391). A ring packet fetch faults and the queue enters FETCH_FAULT. -/
  | packetFetchFault (die q : Nat)
  /-- QENABLE (R389). Binds and enables a host queue. -/
  | qenable
  /-- QDISABLE (R389). Disables a host queue. -/
  | qdisable
  /-- QRESET (R389). Resets a queue to DISABLED with zero counters. -/
  | qreset
  /-- QACK (R392). Acknowledges a ring fetch fault and refetches the packet. -/
  | qack
  /-- FRING (R389). Binds a die's fault ring. -/
  | fring
  /-- FANSWER (R366). Answers a page fault SERVED or REFUSED. -/
  | fanswer
  /-- EXTENT (R371). Supplies or refuses a dynamic context extent. -/
  | extent
  /-- KILL (R389). Ends a master core's program with KILLED. -/
  | kill
  /-- CTXSAVE (R389). Has a service core pre-empt and save a program. -/
  | ctxsave
  /-- CTXRESTORE (R372). Has a service core restore a saved program. -/
  | ctxrestore
  /-- SETBUDGET (R16). Lowers a die's power budget. -/
  | setbudget
  /-- SETNODE (R12). Assigns the device's system NODE number. -/
  | setnode
  /-- ROOTSET (R338). Writes an ASID's root table entry. -/
  | rootset
  /-- INVAL (R389). Has a service core execute TLBINV. -/
  | inval
  /-- ERRCFG (R377). Writes a die's error-counting limits. -/
  | errcfg
  /-- OCCUP (R333). Returns a program's pool occupancy sums. -/
  | occup
  /-- UPDATE (R385). Starts a live firmware update on the standby complex. -/
  | update
  /-- ATTEST (R351). Writes a signed attestation report over a host nonce. -/
  | attest
  /-- CERT (R351). Writes the identity certificate chain. -/
  | cert
  /-- EXTEND (R350). Extends MR6 or MR7 with a host digest. -/
  | extend
  /-- SLEEP (R400). Moves the package from IDLE to SLEEP. -/
  | sleep
  /-- WAKE (R400). Moves the package from SLEEP to ACTIVE. -/
  | wake
  /-- LINKUP (R395). Trains or takes down a Traverse link. -/
  | linkup
  /-- UNKNOWN_COMMAND (R389). A mailbox CODE naming no command is answered UNKNOWN. -/
  | unknownCommand
  /-- HEARTBEAT (R383). Every 1 ms the active complex sends a heartbeat to the standby. -/
  | heartbeat
  /-- FAILOVER (R383). After three missed heartbeats the standby takes over from its journal. -/
  | failover
  /-- JOURNAL_APPLY (R383). The standby applies a state-table journal entry. -/
  | journalApply
  /-- UPDATE_VERIFIED (R385). The staged image passes verification and is measured. -/
  | updateVerified (ok : Bool)
  /-- STATE_TABLE_IMPORT (R384). The standby imports or refuses the firmware state table. -/
  | stateTableImport (version minver : Nat)
  /-- JOURNAL_SYNCED (R385). The journal reaches the active JSEQ and quiescing begins. -/
  | journalSynced
  /-- QUIESCENCE_TAKEOVER (R385). At quiescence the complexes swap roles in one step. -/
  | quiescenceTakeover
  /-- QUIESCE_TIMEOUT (R385). Without quiescence in 100 ms the update aborts. -/
  | quiesceTimeout
  /-- DATA_FLIT (R394). A DATA flit is delivered in order or discarded with a NAK. -/
  | dataFlit (link : Nat) (send : Bool) (flit : List Byte)
  /-- NAK_FLIT (R394). A NAK makes the sender resend from the expected number. -/
  | nakFlit (link : Nat) (flit : List Byte)
  /-- IDLE_FLIT (R393). An IDLE flit carries an acknowledgment sequence. -/
  | idleFlit (link : Nat) (flit : List Byte)
  /-- REPLAY_TIMEOUT (R394). 4 µs without acknowledgment triggers a resend. -/
  | replayTimeout (link : Nat)
  /-- REPLAY_LIMIT (R395). Eight resends without progress move the link to RETRAIN. -/
  | replayLimit (link : Nat)
  /-- LINK_TRAINING_DONE (R395). Training passes at a width or fails and the link goes DOWN. -/
  | linkTrainingDone (link width : Nat)
  /-- LINK_REQUEST (R238). A cross-link writing request is applied once by sequence number. -/
  | linkRequest (src seq kind fn w addr y expect : Nat)
  /-- HOST_WRITE (R216). A PCIe write to device memory is performed in arrival order. -/
  | hostWrite (addr : Nat) (data : List Byte)
  /-- HOST_READ (R216). A PCIe read of device memory is performed at its home. -/
  | hostRead (bar : Bool) (addr len : Nat)
  /-- POWER_ON (R399). Power-on runs the bring-up sequence ending in IDLE. -/
  | powerOn (fails : BootFails)
  /-- IDLE_TIMEOUT (R400). 10 ms with no work moves the package to IDLE. -/
  | idleTimeout
  /-- D3HOT_ENTRY (R400). The host places the endpoint in D3hot and the package sleeps. -/
  | d3hotEntry
  /-- D0_RETURN (R400). The endpoint returns to D0 and the package wakes. -/
  | d0Return
  /-- POWER_OFF (R400). D3cold or loss of main power turns the package off. -/
  | powerOff
  /-- CAIRN_ATOMIC_STEP (R262). Cairn performs one per-node atomic step (a descent ply, an expansion commit or a backup node step) of an accepted instruction at the node lines' home slices. -/
  | cairnAtomicStep (who : AgentId)
  /-- ARETE_COMMAND_REPLY (R176). Arete accepts and answers an MGOPEN, MGAREA, MGEND or MGSTAT, fixing its place in the session's acceptance order and writing the status. -/
  | areteCommandReply (who : AgentId)
  /-- SFU_REQUEST_ACCEPT (R311). The SFU accepts the oldest queued request, at most one every 4 cycles, freeing a queue entry. -/
  | sfuRequestAccept (die spur : Nat)
  /-- FIRMWARE_COMPLEX_FAILURE (R383). The active or standby firmware complex fails and stops sending heartbeats or applying the journal. -/
  | firmwareComplexFailure (standby : Bool)
  /-- SADDLE_FIRMWARE_RECOVERY (R395). Firmware starts retraining a Saddle port that is DOWN, moving it to TRAINING with a new FSEQ series. -/
  | saddleFirmwareRecovery (link : Nat)
  deriving DecidableEq, Repr

end Sys2Proof
end

