-- ==== Sys2Proof/WellFormed.lean ====
section
/-! DEFINITION. When an instruction term is one that a word of 02_encoding.md can stand for: every operand within its
field (R26 to R31), and none of the reserved values of R34, R35, R44 to R53 that trap ILLOP whatever the state. -/

namespace Sys2Proof

/-- An unsigned field of `n` bits. -/
abbrev inU (n v : Nat) : Bool := decide (v < 2 ^ n)

/-- A signed field of `n` bits. -/
abbrev inS (n : Nat) (v : Int) : Bool := decide (-(2 ^ (n - 1) : Int) ≤ v ∧ v < (2 ^ (n - 1) : Int))

/-- Lane types 0 to 3 (R35). -/
def intLane (l : Nat) : Bool := decide (l < 4)

/-- Lane types 4 to 7 (R35). -/
def fpLane (l : Nat) : Bool := decide (4 ≤ l)

/-- Lanes of a lane type (R35). -/
def laneCount (l : Nat) : Nat :=
  match l with
  | 0 => 16
  | 1 => 8
  | 2 => 4
  | 3 => 2
  | 4 => 8
  | 5 => 8
  | 6 => 4
  | _ => 2

/-- A rounding code: 6 is reserved (R73). -/
def roundCode (r : Nat) : Bool := r != 6

/-- TO and FROM of FCVT (R46): different, and not both integers. -/
def fcvtPair (t f : Nat) : Bool := t != f && !(decide (6 ≤ t) && decide (6 ≤ f))

/-- TO and FROM of VCVT (R47): different, and not both integers. -/
def vcvtPair (t f : Nat) : Bool := t != f && !(decide (6 ≤ t) && decide (6 ≤ f))

/-- A 7-bit field that names a vector register (R28). -/
def vecField (d : Nat) : Bool := decide (d < 64)

/-- Widths of the integer reductions: .W and .D (R48). -/
def redWidthInt (w : Nat) : Bool := decide (w < 2)

/-- Widths of the floating reductions: .FP32 and .FP64 (R48). -/
def redWidthFp (w : Nat) : Bool := decide (w = 2 ∨ w = 3)

/-- An accumulator field (R29). -/
def accField (c : Nat) : Bool := decide (c < 4)

/-- An accumulation type AT (R154). -/
def accType (t : Nat) : Bool := decide (t < 3)

/-- A Ridge register field (R29). -/
def ridgeField (n : Nat) : Bool := decide (n < 64)

/-- The instruction terms that some word stands for; the events of the part carry no encoding and are all well formed. -/
def Instr.wellFormed (i : Instr) : Bool :=
  match i with
  | .add d a b => inU 7 d && inU 7 a && inU 7 b
  | .sub d a b => inU 7 d && inU 7 a && inU 7 b
  | .and d a b => inU 7 d && inU 7 a && inU 7 b
  | .or d a b => inU 7 d && inU 7 a && inU 7 b
  | .xor d a b => inU 7 d && inU 7 a && inU 7 b
  | .andn d a b => inU 7 d && inU 7 a && inU 7 b
  | .min d a b => inU 7 d && inU 7 a && inU 7 b
  | .max d a b => inU 7 d && inU 7 a && inU 7 b
  | .minu d a b => inU 7 d && inU 7 a && inU 7 b
  | .maxu d a b => inU 7 d && inU 7 a && inU 7 b
  | .shl d a b => inU 7 d && inU 7 a && inU 7 b
  | .shr d a b => inU 7 d && inU 7 a && inU 7 b
  | .sra d a b => inU 7 d && inU 7 a && inU 7 b
  | .rotr d a b => inU 7 d && inU 7 a && inU 7 b
  | .mul d a b => inU 7 d && inU 7 a && inU 7 b
  | .mulh d a b => inU 7 d && inU 7 a && inU 7 b
  | .mulhu d a b => inU 7 d && inU 7 a && inU 7 b
  | .div d a b => inU 7 d && inU 7 a && inU 7 b
  | .divu d a b => inU 7 d && inU 7 a && inU 7 b
  | .rem d a b => inU 7 d && inU 7 a && inU 7 b
  | .remu d a b => inU 7 d && inU 7 a && inU 7 b
  | .clz d a => inU 7 d && inU 7 a
  | .ctz d a => inU 7 d && inU 7 a
  | .popc d a => inU 7 d && inU 7 a
  | .sel d a b q => inU 7 d && inU 7 a && inU 7 b && inU 3 q
  | .padd d a b => inU 7 d && inU 7 a && inU 7 b
  | .qopAnd d a b => inU 3 d && inU 3 a && inU 3 b
  | .qopOr d a b => inU 3 d && inU 3 a && inU 3 b
  | .qopXor d a b => inU 3 d && inU 3 a && inU 3 b
  | .qopAndn d a b => inU 3 d && inU 3 a && inU 3 b
  | .qopOrn d a b => inU 3 d && inU 3 a && inU 3 b
  | .qopXnor d a b => inU 3 d && inU 3 a && inU 3 b
  | .qopNot d a => inU 3 d && inU 3 a
  | .cmpEq q a b => inU 3 q && inU 7 a && inU 7 b
  | .cmpNe q a b => inU 3 q && inU 7 a && inU 7 b
  | .cmpLt q a b => inU 3 q && inU 7 a && inU 7 b
  | .cmpGe q a b => inU 3 q && inU 7 a && inU 7 b
  | .cmpLtu q a b => inU 3 q && inU 7 a && inU 7 b
  | .cmpGeu q a b => inU 3 q && inU 7 a && inU 7 b
  | .cmpTst q a b => inU 3 q && inU 7 a && inU 7 b
  | .cmpiEq q a i => inU 3 q && inU 7 a && inS 7 i
  | .cmpiNe q a i => inU 3 q && inU 7 a && inS 7 i
  | .cmpiLt q a i => inU 3 q && inU 7 a && inS 7 i
  | .cmpiGe q a i => inU 3 q && inU 7 a && inS 7 i
  | .cmpiLtu q a i => inU 3 q && inU 7 a && inS 7 i
  | .cmpiGeu q a i => inU 3 q && inU 7 a && inS 7 i
  | .cmpiTst q a i => inU 3 q && inU 7 a && inS 7 i
  | .bfx d a b => inU 7 d && inU 7 a && inU 7 b
  | .bfi d a b => inU 7 d && inU 7 a && inU 7 b
  | .addi d a i => inU 7 d && inU 7 a && inS 10 i
  | .andi d a i => inU 7 d && inU 7 a && inS 10 i
  | .ori d a i => inU 7 d && inU 7 a && inS 10 i
  | .xori d a i => inU 7 d && inU 7 a && inS 10 i
  | .shli d a i => inU 7 d && inU 7 a && inU 6 i
  | .shri d a i => inU 7 d && inU 7 a && inU 6 i
  | .srai d a i => inU 7 d && inU 7 a && inU 6 i
  | .lih d a i => inU 7 d && inU 7 a && inS 10 i
  | .ptag d a t => inU 7 d && inU 7 a && inU 8 t
  | .br q n o => inU 3 q && inU 1 n && inS 20 o && !(q == 0 && n == 1)
  | .jal d o => inU 7 d && inS 17 o
  | .jalr d a i => inU 7 d && inU 7 a && inS 10 i
  | .rep a i => inU 7 a && inS 10 i && a != 0 && decide (1 ≤ i)
  | .fadd t d a b => inU 2 t && inU 7 d && inU 7 a && inU 7 b
  | .fsub t d a b => inU 2 t && inU 7 d && inU 7 a && inU 7 b
  | .fmul t d a b => inU 2 t && inU 7 d && inU 7 a && inU 7 b
  | .fdiv t d a b => inU 2 t && inU 7 d && inU 7 a && inU 7 b
  | .fmin t d a b => inU 2 t && inU 7 d && inU 7 a && inU 7 b
  | .fmax t d a b => inU 2 t && inU 7 d && inU 7 a && inU 7 b
  | .fminn t d a b => inU 2 t && inU 7 d && inU 7 a && inU 7 b
  | .fmaxn t d a b => inU 2 t && inU 7 d && inU 7 a && inU 7 b
  | .fma t d a b => inU 2 t && inU 7 d && inU 7 a && inU 7 b
  | .fnma t d a b => inU 2 t && inU 7 d && inU 7 a && inU 7 b
  | .fsqrt t d a => inU 2 t && inU 7 d && inU 7 a
  | .fclass t d a => inU 2 t && inU 7 d && inU 7 a
  | .fcmpEq t q a b => inU 2 t && inU 3 q && inU 7 a && inU 7 b
  | .fcmpNe t q a b => inU 2 t && inU 3 q && inU 7 a && inU 7 b
  | .fcmpLt t q a b => inU 2 t && inU 3 q && inU 7 a && inU 7 b
  | .fcmpLe t q a b => inU 2 t && inU 3 q && inU 7 a && inU 7 b
  | .fcmpGt t q a b => inU 2 t && inU 3 q && inU 7 a && inU 7 b
  | .fcmpGe t q a b => inU 2 t && inU 3 q && inU 7 a && inU 7 b
  | .fcmpUn t q a b => inU 2 t && inU 3 q && inU 7 a && inU 7 b
  | .fcmpOr t q a b => inU 2 t && inU 3 q && inU 7 a && inU 7 b
  | .fcvt d a t f r => inU 7 d && inU 7 a && inU 3 t && inU 3 f && inU 3 r && fcvtPair t f && roundCode r
  | .sfnExp2 d a t => inU 7 d && inU 7 a && inU 7 t && decide (t < 3)
  | .sfnLog2 d a t => inU 7 d && inU 7 a && inU 7 t && decide (t < 3)
  | .sfnRcp d a t => inU 7 d && inU 7 a && inU 7 t && decide (t < 3)
  | .sfnRsq d a t => inU 7 d && inU 7 a && inU 7 t && decide (t < 3)
  | .sfnSin d a t => inU 7 d && inU 7 a && inU 7 t && decide (t < 3)
  | .sfnCos d a t => inU 7 d && inU 7 a && inU 7 t && decide (t < 3)
  | .sfnTanh d a t => inU 7 d && inU 7 a && inU 7 t && decide (t < 3)
  | .sfnErf d a t => inU 7 d && inU 7 a && inU 7 t && decide (t < 3)
  | .vsfnExp2 d a m l => inU 6 d && inU 6 a && inU 3 m && inU 3 l && decide (4 ≤ l && l ≤ 6)
  | .vsfnLog2 d a m l => inU 6 d && inU 6 a && inU 3 m && inU 3 l && decide (4 ≤ l && l ≤ 6)
  | .vsfnRcp d a m l => inU 6 d && inU 6 a && inU 3 m && inU 3 l && decide (4 ≤ l && l ≤ 6)
  | .vsfnRsq d a m l => inU 6 d && inU 6 a && inU 3 m && inU 3 l && decide (4 ≤ l && l ≤ 6)
  | .vsfnSin d a m l => inU 6 d && inU 6 a && inU 3 m && inU 3 l && decide (4 ≤ l && l ≤ 6)
  | .vsfnCos d a m l => inU 6 d && inU 6 a && inU 3 m && inU 3 l && decide (4 ≤ l && l ≤ 6)
  | .vsfnTanh d a m l => inU 6 d && inU 6 a && inU 3 m && inU 3 l && decide (4 ≤ l && l ≤ 6)
  | .vsfnErf d a m l => inU 6 d && inU 6 a && inU 3 m && inU 3 l && decide (4 ≤ l && l ≤ 6)
  | .vadd d a b m l => inU 6 d && inU 6 a && inU 6 b && inU 3 m && inU 3 l && intLane l
  | .vsub d a b m l => inU 6 d && inU 6 a && inU 6 b && inU 3 m && inU 3 l && intLane l
  | .vadds d a b m l => inU 6 d && inU 6 a && inU 6 b && inU 3 m && inU 3 l && intLane l
  | .vsubs d a b m l => inU 6 d && inU 6 a && inU 6 b && inU 3 m && inU 3 l && intLane l
  | .vmul d a b m l => inU 6 d && inU 6 a && inU 6 b && inU 3 m && inU 3 l && intLane l
  | .vmulh d a b m l => inU 6 d && inU 6 a && inU 6 b && inU 3 m && inU 3 l && intLane l
  | .vmad d a b m l => inU 6 d && inU 6 a && inU 6 b && inU 3 m && inU 3 l && intLane l
  | .vmin d a b m l => inU 6 d && inU 6 a && inU 6 b && inU 3 m && inU 3 l && intLane l
  | .vmax d a b m l => inU 6 d && inU 6 a && inU 6 b && inU 3 m && inU 3 l && intLane l
  | .vand d a b m l => inU 6 d && inU 6 a && inU 6 b && inU 3 m && inU 3 l
  | .vor d a b m l => inU 6 d && inU 6 a && inU 6 b && inU 3 m && inU 3 l
  | .vxor d a b m l => inU 6 d && inU 6 a && inU 6 b && inU 3 m && inU 3 l
  | .vshl d a b m l => inU 6 d && inU 6 a && inU 6 b && inU 3 m && inU 3 l && intLane l
  | .vshr d a b m l => inU 6 d && inU 6 a && inU 6 b && inU 3 m && inU 3 l && intLane l
  | .vsra d a b m l => inU 6 d && inU 6 a && inU 6 b && inU 3 m && inU 3 l && intLane l
  | .vcmpEq d a b m l => inU 6 d && inU 6 a && inU 6 b && inU 3 m && inU 3 l && intLane l
  | .vcmpLt d a b m l => inU 6 d && inU 6 a && inU 6 b && inU 3 m && inU 3 l && intLane l
  | .vcmpLtu d a b m l => inU 6 d && inU 6 a && inU 6 b && inU 3 m && inU 3 l && intLane l
  | .vcmpTst d a b m l => inU 6 d && inU 6 a && inU 6 b && inU 3 m && inU 3 l && intLane l
  | .vsel d a b m l => inU 6 d && inU 6 a && inU 6 b && inU 3 m && inU 3 l
  | .vshuf d a b m l => inU 6 d && inU 6 a && inU 6 b && inU 3 m && inU 3 l && intLane l
  | .vsplat d a m l => inU 6 d && inU 6 a && inU 3 m && inU 3 l && intLane l
  | .vext d a k m l => inU 6 d && inU 6 a && inU 6 k && inU 3 m && inU 3 l && intLane l && decide (k < laneCount l)
  | .vins d a k m l => inU 6 d && inU 6 a && inU 6 k && inU 3 m && inU 3 l && intLane l && decide (k < laneCount l)
  | .vnz d a m l => inU 6 d && inU 6 a && inU 3 m && inU 3 l && intLane l
  | .vredAdd d a m l => inU 6 d && inU 6 a && inU 3 m && inU 3 l
  | .vredMin d a m l => inU 6 d && inU 6 a && inU 3 m && inU 3 l
  | .vredMax d a m l => inU 6 d && inU 6 a && inU 3 m && inU 3 l
  | .vredMinn d a m l => inU 6 d && inU 6 a && inU 3 m && inU 3 l && fpLane l
  | .vredMaxn d a m l => inU 6 d && inU 6 a && inU 3 m && inU 3 l && fpLane l
  | .vredMinu d a m l => inU 6 d && inU 6 a && inU 3 m && inU 3 l && intLane l
  | .vredMaxu d a m l => inU 6 d && inU 6 a && inU 3 m && inU 3 l && intLane l
  | .vdot d a b m l => inU 6 d && inU 6 a && inU 6 b && inU 3 m && inU 3 l
  | .vcvt d a f r m t => inU 6 d && inU 6 a && inU 3 f && inU 3 r && inU 3 m && inU 3 t && vcvtPair t f && roundCode r
  | .vfadd d a b m l => inU 6 d && inU 6 a && inU 6 b && inU 3 m && inU 3 l && fpLane l
  | .vfsub d a b m l => inU 6 d && inU 6 a && inU 6 b && inU 3 m && inU 3 l && fpLane l
  | .vfmul d a b m l => inU 6 d && inU 6 a && inU 6 b && inU 3 m && inU 3 l && fpLane l
  | .vfma d a b m l => inU 6 d && inU 6 a && inU 6 b && inU 3 m && inU 3 l && fpLane l
  | .vfmin d a b m l => inU 6 d && inU 6 a && inU 6 b && inU 3 m && inU 3 l && fpLane l
  | .vfmax d a b m l => inU 6 d && inU 6 a && inU 6 b && inU 3 m && inU 3 l && fpLane l
  | .vfminn d a b m l => inU 6 d && inU 6 a && inU 6 b && inU 3 m && inU 3 l && fpLane l
  | .vfmaxn d a b m l => inU 6 d && inU 6 a && inU 6 b && inU 3 m && inU 3 l && fpLane l
  | .vfcmpEq d a b m l => inU 6 d && inU 6 a && inU 6 b && inU 3 m && inU 3 l && fpLane l
  | .vfcmpLt d a b m l => inU 6 d && inU 6 a && inU 6 b && inU 3 m && inU 3 l && fpLane l
  | .vfcmpLe d a b m l => inU 6 d && inU 6 a && inU 6 b && inU 3 m && inU 3 l && fpLane l
  | .vfcmpUn d a b m l => inU 6 d && inU 6 a && inU 6 b && inU 3 m && inU 3 l && fpLane l
  | .ldB d a i => inU 7 d && inU 7 a && inS 10 i
  | .ldBu d a i => inU 7 d && inU 7 a && inS 10 i
  | .ldH d a i => inU 7 d && inU 7 a && inS 10 i
  | .ldHu d a i => inU 7 d && inU 7 a && inS 10 i
  | .ldW d a i => inU 7 d && inU 7 a && inS 10 i
  | .ldWu d a i => inU 7 d && inU 7 a && inS 10 i
  | .ldD d a i => inU 7 d && inU 7 a && inS 10 i
  | .stB d a i => inU 7 d && inU 7 a && inS 10 i
  | .stH d a i => inU 7 d && inU 7 a && inS 10 i
  | .stW d a i => inU 7 d && inU 7 a && inS 10 i
  | .stD d a i => inU 7 d && inU 7 a && inS 10 i
  | .ldv d a i => inU 7 d && inU 7 a && inS 10 i && vecField d
  | .stv d a i => inU 7 d && inU 7 a && inS 10 i && vecField d
  | .lda d a i => inU 7 d && inU 7 a && inS 10 i
  | .stl d a i => inU 7 d && inU 7 a && inS 10 i
  | .ldc d a i => inU 7 d && inU 7 a && inS 10 i
  | .ldt d a b t => inU 7 d && inU 7 a && inU 7 b && inU 3 t && vecField d && decide (t < 3)
  | .stt d a b r => inU 7 d && inU 7 a && inU 7 b && inU 3 r && vecField d && roundCode r
  | .lds d a i => inU 7 d && inU 7 a && inS 10 i
  | .sts d a i => inU 7 d && inU 7 a && inS 10 i
  | .pref a i => inU 7 a && inS 10 i
  | .ldf d a i => inU 7 d && inU 7 a && inS 10 i
  | .ldfe d a i => inU 7 d && inU 7 a && inS 10 i
  | .stf d a i => inU 7 d && inU 7 a && inS 10 i
  | .sto d a i => inU 7 d && inU 7 a && inS 10 i
  | .fest d a i => inU 7 d && inU 7 a && inS 10 i
  | .amoSwapW d a b => inU 7 d && inU 7 a && inU 7 b
  | .amoAddW d a b => inU 7 d && inU 7 a && inU 7 b
  | .amoAndW d a b => inU 7 d && inU 7 a && inU 7 b
  | .amoOrW d a b => inU 7 d && inU 7 a && inU 7 b
  | .amoXorW d a b => inU 7 d && inU 7 a && inU 7 b
  | .amoMinW d a b => inU 7 d && inU 7 a && inU 7 b
  | .amoMaxW d a b => inU 7 d && inU 7 a && inU 7 b
  | .amoSwapD d a b => inU 7 d && inU 7 a && inU 7 b
  | .amoAddD d a b => inU 7 d && inU 7 a && inU 7 b
  | .amoAndD d a b => inU 7 d && inU 7 a && inU 7 b
  | .amoOrD d a b => inU 7 d && inU 7 a && inU 7 b
  | .amoXorD d a b => inU 7 d && inU 7 a && inU 7 b
  | .amoMinD d a b => inU 7 d && inU 7 a && inU 7 b
  | .amoMaxD d a b => inU 7 d && inU 7 a && inU 7 b
  | .amoMinuW d a b => inU 7 d && inU 7 a && inU 7 b
  | .amoMaxuW d a b => inU 7 d && inU 7 a && inU 7 b
  | .amoMinuD d a b => inU 7 d && inU 7 a && inU 7 b
  | .amoMaxuD d a b => inU 7 d && inU 7 a && inU 7 b
  | .amocasW d a b => inU 7 d && inU 7 a && inU 7 b
  | .amocasD d a b => inU 7 d && inU 7 a && inU 7 b
  | .redAdd a b w => inU 7 a && inU 7 b && inU 3 w && redWidthInt w
  | .redAnd a b w => inU 7 a && inU 7 b && inU 3 w && redWidthInt w
  | .redOr a b w => inU 7 a && inU 7 b && inU 3 w && redWidthInt w
  | .redXor a b w => inU 7 a && inU 7 b && inU 3 w && redWidthInt w
  | .redMin a b w => inU 7 a && inU 7 b && inU 3 w && redWidthInt w
  | .redMax a b w => inU 7 a && inU 7 b && inU 3 w && redWidthInt w
  | .redMinu a b w => inU 7 a && inU 7 b && inU 3 w && redWidthInt w
  | .redMaxu a b w => inU 7 a && inU 7 b && inU 3 w && redWidthInt w
  | .redFadd a b w => inU 7 a && inU 7 b && inU 3 w && redWidthFp w
  | .redFmin a b w => inU 7 a && inU 7 b && inU 3 w && redWidthFp w
  | .redFmax a b w => inU 7 a && inU 7 b && inU 3 w && redWidthFp w
  | .fenceT => true
  | .fenceS => true
  | .fenceD => true
  | .fenceP => true
  | .fenceX => true
  | .redwait => true
  | .kshape d s => inU 3 d && inU 7 s
  | .kld d s => inU 3 d && inU 7 s
  | .kldt d s => inU 3 d && inU 7 s
  | .kst a s => inU 3 a && inU 7 s
  | .kzero d => inU 3 d
  | .kmov d a => inU 3 d && inU 3 a
  | .ktr d a => inU 3 d && inU 3 a
  | .gang => true
  | .kmma c a b n z t s => inU 3 c && inU 3 a && inU 3 b && inU 1 n && inU 1 z && inU 2 t && inU 7 s && accField c && accType t
  | .kmmr c a b n z t s => inU 3 c && inU 3 a && inU 3 b && inU 1 n && inU 1 z && inU 2 t && inU 7 s && accField c && accType t
  | .azero c => inU 3 c && accField c
  | .ald c t s => inU 3 c && inU 2 t && inU 7 s && accField c && accType t
  | .ast c t s => inU 3 c && inU 2 t && inU 7 s && accField c && accType t
  | .acvt d c t r s => inU 3 d && inU 3 c && inU 2 t && inU 3 r && inU 7 s && accField c && accType t && roundCode r
  | .nzscan d a b => inU 7 d && inU 7 a && inU 7 b
  | .gath d a b => inU 7 d && inU 7 a && inU 7 b
  | .mgopen d a => inU 7 d && inU 7 a
  | .mgarea d a b => inU 7 d && inU 7 a && inU 7 b
  | .mgput d a b => inU 7 d && inU 7 a && inU 7 b
  | .mgendEnd d a b => inU 7 d && inU 7 a && inU 7 b
  | .mgendAbandon d a b => inU 7 d && inU 7 a && inU 7 b
  | .mgfin d a b => inU 7 d && inU 7 a && inU 7 b
  | .mgstat d a b => inU 7 d && inU 7 a && inU 7 b
  | .gtopk d a b => inU 7 d && inU 7 a && inU 7 b
  | .ghist d a b => inU 7 d && inU 7 a && inU 7 b
  | .gperm d a b => inU 7 d && inU 7 a && inU 7 b
  | .ctreeBind d a b => inU 7 d && inU 7 a && inU 7 b
  | .ctreeUnbind d a b => inU 7 d && inU 7 a && inU 7 b
  | .cdesc d a b => inU 7 d && inU 7 a && inU 7 b
  | .cexp d a b => inU 7 d && inU 7 a && inU 7 b
  | .cbackBackup d a b => inU 7 d && inU 7 a && inU 7 b
  | .cbackCancel d a b => inU 7 d && inU 7 a && inU 7 b
  | .cread d a b => inU 7 d && inU 7 a && inU 7 b
  | .creuse d a => inU 7 d && inU 7 a
  | .spawn d o => inU 7 d && inS 17 o
  | .spawnr d o => inU 7 d && inS 17 o
  | .join d => inU 7 d
  | .tend => true
  | .sspawn d a p => inU 7 d && inU 7 a && inU 2 p
  | .ps d n b => inU 7 d && inU 7 n && inU 7 b && ridgeField n
  | .psm d n b => inU 7 d && inU 7 n && inU 7 b && ridgeField n
  | .nrd d n => inU 7 d && inU 7 n && ridgeField n
  | .nwr n b => inU 7 n && inU 7 b && ridgeField n
  | .jredAdd n b => inU 7 n && inU 7 b && decide (n < 8)
  | .jredMin n b => inU 7 n && inU 7 b && decide (n < 8)
  | .jredMax n b => inU 7 n && inU 7 b && decide (n < 8)
  | .jredMinu n b => inU 7 n && inU 7 b && decide (n < 8)
  | .jredMaxu n b => inU 7 n && inU 7 b && decide (n < 8)
  | .jredFaddFp64 n b => inU 7 n && inU 7 b && decide (n < 8)
  | .jredFaddFp32 n b => inU 7 n && inU 7 b && decide (n < 8)
  | .bar i => inS 10 i && decide (0 ≤ i)
  | .barinit a i => inU 7 a && inS 10 i && decide (0 ≤ i)
  | .yield => true
  | .waitGeu d a b => inU 7 d && inU 7 a && inU 7 b
  | .waitEq d a b => inU 7 d && inU 7 a && inU 7 b
  | .waitNe d a b => inU 7 d && inU 7 a && inU 7 b
  | .poolset d a b => inU 7 d && inU 7 a && inU 7 b
  | .poolsetT d a b => inU 7 d && inU 7 a && inU 7 b
  | .poolack d a => inU 7 d && inU 7 a
  | .poolq d a => inU 7 d && inU 7 a
  | .cpy d a b => inU 7 d && inU 7 a && inU 7 b
  | .cpy2d d a b => inU 7 d && inU 7 a && inU 7 b
  | .cpwait d => inU 7 d
  | .rld d a b => inU 7 d && inU 7 a && inU 7 b
  | .rst d a b => inU 7 d && inU 7 a && inU 7 b
  | .trap i => inU 10 i
  | .tret => true
  | .csrr d c => inU 7 d && inU 10 c
  | .csrw a c => inU 7 a && inU 10 c
  | .csrs a c => inU 7 a && inU 10 c
  | .csrc a c => inU 7 a && inU 10 c
  | .ctxsv a n => inU 7 a && inU 10 n && decide (n < 8)
  | .ctxrs a n => inU 7 a && inU 10 n && decide (n < 8)
  | .fencei => true
  | .bkpt => true
  | .halt => true
  | .tlbinv a b => inU 7 a && inU 7 b
  | .probe d a => inU 7 d && inU 7 a
  | .frame l i d a b => inU 4 l && inU 8 i && inU 4 d && inU 4 a && inU 4 b
  | .ximm h => inU 24 h
  | .numberGrant _ => true
  | .screeDraw _ => true
  | .rerunTake _ => true
  | .parkedThreadReturn _ => true
  | .residentPlacement _ _ => true
  | .inlineChildStart _ => true
  | .threadEnd _ => true
  | .joinComplete _ _ => true
  | .ridgeReply _ => true
  | .sfuResult _ _ => true
  | .loadReply _ => true
  | .storePerform _ _ => true
  | .redApply _ _ => true
  | .claimGrant _ => true
  | .claimRelease _ => true
  | .remoteAccessPerform _ _ _ => true
  | .matrixOpStart _ _ _ => true
  | .matrixOpComplete _ _ _ => true
  | .nzscanComplete _ => true
  | .copyCommandComplete _ _ _ => true
  | .gatherCommandComplete _ _ _ => true
  | .engineFaultStop _ _ _ _ => true
  | .aretePutReply _ => true
  | .areteMergeComplete _ => true
  | .cairnOperationComplete _ => true
  | .gateOperationComplete _ => true
  | .waitRecheck _ => true
  | .waitWlimExpiry _ => true
  | .feWaitExpiry _ => true
  | .barWlimExpiry _ => true
  | .remoteWaitExpiry _ => true
  | .gangParkExpiry _ => true
  | .gangRecordStallExpiry _ => true
  | .governorSample _ _ _ => true
  | .pageFaultService _ _ _ _ => true
  | .pageMoveAccept _ _ _ _ _ => true
  | .migrationInvalAck _ => true
  | .migrationDrainDone _ => true
  | .migrationCommit _ => true
  | .migrationAbort _ => true
  | .contextSaveComplete _ _ => true
  | .correctedError _ _ _ => true
  | .uncorrectableError _ _ _ _ => true
  | .dieResetComplete _ _ => true
  | .deviceReset _ => true
  | .qdoorWrite _ _ _ => true
  | .frheadWrite _ _ => true
  | .bar0RegisterWrite _ _ _ => true
  | .faultRingWrite _ => true
  | .launch _ _ => true
  | .copy _ _ => true
  | .copyPacketDone _ _ _ => true
  | .signalSet _ _ => true
  | .signalWait _ _ => true
  | .signalWaitSatisfied _ _ _ => true
  | .fence _ _ => true
  | .complete _ _ => true
  | .packetFetchFault _ _ => true
  | .qenable => true
  | .qdisable => true
  | .qreset => true
  | .qack => true
  | .fring => true
  | .fanswer => true
  | .extent => true
  | .kill => true
  | .ctxsave => true
  | .ctxrestore => true
  | .setbudget => true
  | .setnode => true
  | .rootset => true
  | .inval => true
  | .errcfg => true
  | .occup => true
  | .update => true
  | .attest => true
  | .cert => true
  | .extend => true
  | .sleep => true
  | .wake => true
  | .linkup => true
  | .unknownCommand => true
  | .heartbeat => true
  | .failover => true
  | .journalApply => true
  | .updateVerified _ => true
  | .stateTableImport _ _ => true
  | .journalSynced => true
  | .quiescenceTakeover => true
  | .quiesceTimeout => true
  | .dataFlit _ _ _ => true
  | .nakFlit _ _ => true
  | .idleFlit _ _ => true
  | .replayTimeout _ => true
  | .replayLimit _ => true
  | .linkTrainingDone _ _ => true
  | .linkRequest _ _ _ _ _ _ _ _ => true
  | .hostWrite _ _ => true
  | .hostRead _ _ _ => true
  | .powerOn _ => true
  | .idleTimeout => true
  | .d3hotEntry => true
  | .d0Return => true
  | .powerOff => true
  | .cairnAtomicStep _ => true
  | .areteCommandReply _ => true
  | .sfuRequestAccept _ _ => true
  | .firmwareComplexFailure _ => true
  | .saddleFirmwareRecovery _ => true

end Sys2Proof
end

