-- ==== Sys2Proof/Decode.lean ====
section
/-! DEFINITION. From bytes to instructions and back, from the encoding tables of 02_encoding.md (R25 to R53). A word
that falls under no row, or under a row with a reserved value, is rejected by name. -/

namespace Sys2Proof

/-- Bits [hi:lo] of a word, as R30 writes them. -/
def bits (w hi lo : Nat) : Nat := w / 2 ^ lo % 2 ^ (hi + 1 - lo)

/-- The signed value of an n-bit field. -/
def sext (n v : Nat) : Int := if v < 2 ^ (n - 1) then (v : Int) else (v : Int) - 2 ^ n

/-- The n-bit field of a signed value. -/
def ofSigned (n : Nat) (v : Int) : Nat := (v % 2 ^ n).toNat

/-- Why a word is no instruction. -/
inductive DecodeError where
  /-- fewer than four bytes -/
  | tooShort
  /-- no row of the opcode table: an unassigned or reserved major or function, or a nonzero must-be-zero bit (R53) -/
  | unassigned (word : Nat)
  /-- a row of the table with a reserved operand value (R53) -/
  | reservedValue (word : Nat)
  deriving DecidableEq, Repr

/-- Major 0x01. -/
def decode01 (w : Nat) : Option Instr :=
  if bits w 2 0 = 0 then some (.add (bits w 23 17) (bits w 16 10) (bits w 9 3))
  else if bits w 2 0 = 1 then some (.sub (bits w 23 17) (bits w 16 10) (bits w 9 3))
  else if bits w 2 0 = 2 then some (.and (bits w 23 17) (bits w 16 10) (bits w 9 3))
  else if bits w 2 0 = 3 then some (.or (bits w 23 17) (bits w 16 10) (bits w 9 3))
  else if bits w 2 0 = 4 then some (.xor (bits w 23 17) (bits w 16 10) (bits w 9 3))
  else if bits w 2 0 = 5 then some (.andn (bits w 23 17) (bits w 16 10) (bits w 9 3))
  else if bits w 2 0 = 6 then some (.min (bits w 23 17) (bits w 16 10) (bits w 9 3))
  else if bits w 2 0 = 7 then some (.max (bits w 23 17) (bits w 16 10) (bits w 9 3))
  else none

/-- Major 0x02. -/
def decode02 (w : Nat) : Option Instr :=
  if bits w 2 0 = 0 then some (.minu (bits w 23 17) (bits w 16 10) (bits w 9 3))
  else if bits w 2 0 = 1 then some (.maxu (bits w 23 17) (bits w 16 10) (bits w 9 3))
  else if bits w 2 0 = 2 then some (.shl (bits w 23 17) (bits w 16 10) (bits w 9 3))
  else if bits w 2 0 = 3 then some (.shr (bits w 23 17) (bits w 16 10) (bits w 9 3))
  else if bits w 2 0 = 4 then some (.sra (bits w 23 17) (bits w 16 10) (bits w 9 3))
  else if bits w 2 0 = 5 then some (.rotr (bits w 23 17) (bits w 16 10) (bits w 9 3))
  else none

/-- Major 0x03. -/
def decode03 (w : Nat) : Option Instr :=
  if bits w 2 0 = 0 then some (.mul (bits w 23 17) (bits w 16 10) (bits w 9 3))
  else if bits w 2 0 = 1 then some (.mulh (bits w 23 17) (bits w 16 10) (bits w 9 3))
  else if bits w 2 0 = 2 then some (.mulhu (bits w 23 17) (bits w 16 10) (bits w 9 3))
  else if bits w 2 0 = 3 then some (.div (bits w 23 17) (bits w 16 10) (bits w 9 3))
  else if bits w 2 0 = 4 then some (.divu (bits w 23 17) (bits w 16 10) (bits w 9 3))
  else if bits w 2 0 = 5 then some (.rem (bits w 23 17) (bits w 16 10) (bits w 9 3))
  else if bits w 2 0 = 6 then some (.remu (bits w 23 17) (bits w 16 10) (bits w 9 3))
  else none

/-- Major 0x04. -/
def decode04 (w : Nat) : Option Instr :=
  if bits w 9 0 = 0 then some (.clz (bits w 23 17) (bits w 16 10))
  else if bits w 9 0 = 1 then some (.ctz (bits w 23 17) (bits w 16 10))
  else if bits w 9 0 = 2 then some (.popc (bits w 23 17) (bits w 16 10))
  else none

/-- Major 0x05. -/
def decode05 (w : Nat) : Option Instr :=
  some (.sel (bits w 23 17) (bits w 16 10) (bits w 9 3) (bits w 2 0))

/-- Major 0x06. -/
def decode06 (w : Nat) : Option Instr :=
  if bits w 2 0 = 0 then some (.padd (bits w 23 17) (bits w 16 10) (bits w 9 3))
  else none

/-- Major 0x07. -/
def decode07 (w : Nat) : Option Instr :=
  if bits w 6 0 = 0 ∧ bits w 13 10 = 0 ∧ bits w 20 17 = 0 then some (.qopAnd (bits w 23 21) (bits w 16 14) (bits w 9 7))
  else if bits w 6 0 = 16 ∧ bits w 13 10 = 0 ∧ bits w 20 17 = 0 then some (.qopOr (bits w 23 21) (bits w 16 14) (bits w 9 7))
  else if bits w 6 0 = 32 ∧ bits w 13 10 = 0 ∧ bits w 20 17 = 0 then some (.qopXor (bits w 23 21) (bits w 16 14) (bits w 9 7))
  else if bits w 6 0 = 48 ∧ bits w 13 10 = 0 ∧ bits w 20 17 = 0 then some (.qopAndn (bits w 23 21) (bits w 16 14) (bits w 9 7))
  else if bits w 6 0 = 64 ∧ bits w 13 10 = 0 ∧ bits w 20 17 = 0 then some (.qopOrn (bits w 23 21) (bits w 16 14) (bits w 9 7))
  else if bits w 6 0 = 80 ∧ bits w 13 10 = 0 ∧ bits w 20 17 = 0 then some (.qopXnor (bits w 23 21) (bits w 16 14) (bits w 9 7))
  else if bits w 13 0 = 96 ∧ bits w 20 17 = 0 then some (.qopNot (bits w 23 21) (bits w 16 14))
  else none

/-- Major 0x08. -/
def decode08 (w : Nat) : Option Instr :=
  if bits w 6 0 = 0 then some (.cmpEq (bits w 23 21) (bits w 20 14) (bits w 13 7))
  else if bits w 6 0 = 16 then some (.cmpNe (bits w 23 21) (bits w 20 14) (bits w 13 7))
  else if bits w 6 0 = 32 then some (.cmpLt (bits w 23 21) (bits w 20 14) (bits w 13 7))
  else if bits w 6 0 = 48 then some (.cmpGe (bits w 23 21) (bits w 20 14) (bits w 13 7))
  else if bits w 6 0 = 64 then some (.cmpLtu (bits w 23 21) (bits w 20 14) (bits w 13 7))
  else if bits w 6 0 = 80 then some (.cmpGeu (bits w 23 21) (bits w 20 14) (bits w 13 7))
  else if bits w 6 0 = 96 then some (.cmpTst (bits w 23 21) (bits w 20 14) (bits w 13 7))
  else none

/-- Major 0x09. -/
def decode09 (w : Nat) : Option Instr :=
  if bits w 6 0 = 0 then some (.cmpiEq (bits w 23 21) (bits w 20 14) (sext 7 (bits w 13 7)))
  else if bits w 6 0 = 16 then some (.cmpiNe (bits w 23 21) (bits w 20 14) (sext 7 (bits w 13 7)))
  else if bits w 6 0 = 32 then some (.cmpiLt (bits w 23 21) (bits w 20 14) (sext 7 (bits w 13 7)))
  else if bits w 6 0 = 48 then some (.cmpiGe (bits w 23 21) (bits w 20 14) (sext 7 (bits w 13 7)))
  else if bits w 6 0 = 64 then some (.cmpiLtu (bits w 23 21) (bits w 20 14) (sext 7 (bits w 13 7)))
  else if bits w 6 0 = 80 then some (.cmpiGeu (bits w 23 21) (bits w 20 14) (sext 7 (bits w 13 7)))
  else if bits w 6 0 = 96 then some (.cmpiTst (bits w 23 21) (bits w 20 14) (sext 7 (bits w 13 7)))
  else none

/-- Major 0x0A. -/
def decode0A (w : Nat) : Option Instr :=
  if bits w 2 0 = 0 then some (.bfx (bits w 23 17) (bits w 16 10) (bits w 9 3))
  else if bits w 2 0 = 1 then some (.bfi (bits w 23 17) (bits w 16 10) (bits w 9 3))
  else none

/-- Major 0x10. -/
def decode10 (w : Nat) : Option Instr :=
  some (.addi (bits w 23 17) (bits w 16 10) (sext 10 (bits w 9 0)))

/-- Major 0x11. -/
def decode11 (w : Nat) : Option Instr :=
  some (.andi (bits w 23 17) (bits w 16 10) (sext 10 (bits w 9 0)))

/-- Major 0x12. -/
def decode12 (w : Nat) : Option Instr :=
  some (.ori (bits w 23 17) (bits w 16 10) (sext 10 (bits w 9 0)))

/-- Major 0x13. -/
def decode13 (w : Nat) : Option Instr :=
  some (.xori (bits w 23 17) (bits w 16 10) (sext 10 (bits w 9 0)))

/-- Major 0x14. -/
def decode14 (w : Nat) : Option Instr :=
  if bits w 9 6 = 0 then some (.shli (bits w 23 17) (bits w 16 10) (bits w 5 0))
  else none

/-- Major 0x15. -/
def decode15 (w : Nat) : Option Instr :=
  if bits w 9 6 = 0 then some (.shri (bits w 23 17) (bits w 16 10) (bits w 5 0))
  else none

/-- Major 0x16. -/
def decode16 (w : Nat) : Option Instr :=
  if bits w 9 6 = 0 then some (.srai (bits w 23 17) (bits w 16 10) (bits w 5 0))
  else none

/-- Major 0x17. -/
def decode17 (w : Nat) : Option Instr :=
  some (.lih (bits w 23 17) (bits w 16 10) (sext 10 (bits w 9 0)))

/-- Major 0x18. -/
def decode18 (w : Nat) : Option Instr :=
  if bits w 9 8 = 0 then some (.ptag (bits w 23 17) (bits w 16 10) (bits w 7 0))
  else none

/-- Major 0x20. -/
def decode20 (w : Nat) : Option Instr :=
  some (.br (bits w 23 21) (bits w 20 20) (sext 20 (bits w 19 0)))

/-- Major 0x21. -/
def decode21 (w : Nat) : Option Instr :=
  some (.jal (bits w 23 17) (sext 17 (bits w 16 0)))

/-- Major 0x22. -/
def decode22 (w : Nat) : Option Instr :=
  some (.jalr (bits w 23 17) (bits w 16 10) (sext 10 (bits w 9 0)))

/-- Major 0x23. -/
def decode23 (w : Nat) : Option Instr :=
  if bits w 31 17 = 4480 then some (.rep (bits w 16 10) (sext 10 (bits w 9 0)))
  else none

/-- Major 0x40, 0x41, 0x42, 0x43. -/
def decode40 (w : Nat) : Option Instr :=
  if bits w 2 0 = 0 then some (.fadd (bits w 25 24) (bits w 23 17) (bits w 16 10) (bits w 9 3))
  else if bits w 2 0 = 1 then some (.fsub (bits w 25 24) (bits w 23 17) (bits w 16 10) (bits w 9 3))
  else if bits w 2 0 = 2 then some (.fmul (bits w 25 24) (bits w 23 17) (bits w 16 10) (bits w 9 3))
  else if bits w 2 0 = 3 then some (.fdiv (bits w 25 24) (bits w 23 17) (bits w 16 10) (bits w 9 3))
  else if bits w 2 0 = 4 then some (.fmin (bits w 25 24) (bits w 23 17) (bits w 16 10) (bits w 9 3))
  else if bits w 2 0 = 5 then some (.fmax (bits w 25 24) (bits w 23 17) (bits w 16 10) (bits w 9 3))
  else if bits w 2 0 = 6 then some (.fminn (bits w 25 24) (bits w 23 17) (bits w 16 10) (bits w 9 3))
  else if bits w 2 0 = 7 then some (.fmaxn (bits w 25 24) (bits w 23 17) (bits w 16 10) (bits w 9 3))
  else none

/-- Major 0x44, 0x45, 0x46, 0x47. -/
def decode44 (w : Nat) : Option Instr :=
  if bits w 2 0 = 0 then some (.fma (bits w 25 24) (bits w 23 17) (bits w 16 10) (bits w 9 3))
  else if bits w 2 0 = 1 then some (.fnma (bits w 25 24) (bits w 23 17) (bits w 16 10) (bits w 9 3))
  else if bits w 9 0 = 2 then some (.fsqrt (bits w 25 24) (bits w 23 17) (bits w 16 10))
  else if bits w 9 0 = 3 then some (.fclass (bits w 25 24) (bits w 23 17) (bits w 16 10))
  else none

/-- Major 0x48, 0x49, 0x4A, 0x4B. -/
def decode48 (w : Nat) : Option Instr :=
  if bits w 6 0 = 0 then some (.fcmpEq (bits w 25 24) (bits w 23 21) (bits w 20 14) (bits w 13 7))
  else if bits w 6 0 = 16 then some (.fcmpNe (bits w 25 24) (bits w 23 21) (bits w 20 14) (bits w 13 7))
  else if bits w 6 0 = 32 then some (.fcmpLt (bits w 25 24) (bits w 23 21) (bits w 20 14) (bits w 13 7))
  else if bits w 6 0 = 48 then some (.fcmpLe (bits w 25 24) (bits w 23 21) (bits w 20 14) (bits w 13 7))
  else if bits w 6 0 = 64 then some (.fcmpGt (bits w 25 24) (bits w 23 21) (bits w 20 14) (bits w 13 7))
  else if bits w 6 0 = 80 then some (.fcmpGe (bits w 25 24) (bits w 23 21) (bits w 20 14) (bits w 13 7))
  else if bits w 6 0 = 96 then some (.fcmpUn (bits w 25 24) (bits w 23 21) (bits w 20 14) (bits w 13 7))
  else if bits w 6 0 = 112 then some (.fcmpOr (bits w 25 24) (bits w 23 21) (bits w 20 14) (bits w 13 7))
  else none

/-- Major 0x4C. -/
def decode4C (w : Nat) : Option Instr :=
  if bits w 6 6 = 0 then some (.fcvt (bits w 23 17) (bits w 16 10) (bits w 9 7) (bits w 5 3) (bits w 2 0))
  else none

/-- Major 0x50. -/
def decode50 (w : Nat) : Option Instr :=
  if bits w 2 0 = 0 then some (.sfnExp2 (bits w 23 17) (bits w 16 10) (bits w 9 3))
  else if bits w 2 0 = 1 then some (.sfnLog2 (bits w 23 17) (bits w 16 10) (bits w 9 3))
  else if bits w 2 0 = 2 then some (.sfnRcp (bits w 23 17) (bits w 16 10) (bits w 9 3))
  else if bits w 2 0 = 3 then some (.sfnRsq (bits w 23 17) (bits w 16 10) (bits w 9 3))
  else if bits w 2 0 = 4 then some (.sfnSin (bits w 23 17) (bits w 16 10) (bits w 9 3))
  else if bits w 2 0 = 5 then some (.sfnCos (bits w 23 17) (bits w 16 10) (bits w 9 3))
  else if bits w 2 0 = 6 then some (.sfnTanh (bits w 23 17) (bits w 16 10) (bits w 9 3))
  else if bits w 2 0 = 7 then some (.sfnErf (bits w 23 17) (bits w 16 10) (bits w 9 3))
  else none

/-- Major 0x58. -/
def decode58 (w : Nat) : Option Instr :=
  if bits w 11 6 = 0 then some (.vsfnExp2 (bits w 23 18) (bits w 17 12) (bits w 5 3) (bits w 2 0))
  else none

/-- Major 0x59. -/
def decode59 (w : Nat) : Option Instr :=
  if bits w 11 6 = 0 then some (.vsfnLog2 (bits w 23 18) (bits w 17 12) (bits w 5 3) (bits w 2 0))
  else none

/-- Major 0x5A. -/
def decode5A (w : Nat) : Option Instr :=
  if bits w 11 6 = 0 then some (.vsfnRcp (bits w 23 18) (bits w 17 12) (bits w 5 3) (bits w 2 0))
  else none

/-- Major 0x5B. -/
def decode5B (w : Nat) : Option Instr :=
  if bits w 11 6 = 0 then some (.vsfnRsq (bits w 23 18) (bits w 17 12) (bits w 5 3) (bits w 2 0))
  else none

/-- Major 0x5C. -/
def decode5C (w : Nat) : Option Instr :=
  if bits w 11 6 = 0 then some (.vsfnSin (bits w 23 18) (bits w 17 12) (bits w 5 3) (bits w 2 0))
  else none

/-- Major 0x5D. -/
def decode5D (w : Nat) : Option Instr :=
  if bits w 11 6 = 0 then some (.vsfnCos (bits w 23 18) (bits w 17 12) (bits w 5 3) (bits w 2 0))
  else none

/-- Major 0x5E. -/
def decode5E (w : Nat) : Option Instr :=
  if bits w 11 6 = 0 then some (.vsfnTanh (bits w 23 18) (bits w 17 12) (bits w 5 3) (bits w 2 0))
  else none

/-- Major 0x5F. -/
def decode5F (w : Nat) : Option Instr :=
  if bits w 11 6 = 0 then some (.vsfnErf (bits w 23 18) (bits w 17 12) (bits w 5 3) (bits w 2 0))
  else none

/-- Major 0x60. -/
def decode60 (w : Nat) : Option Instr :=
  some (.vadd (bits w 23 18) (bits w 17 12) (bits w 11 6) (bits w 5 3) (bits w 2 0))

/-- Major 0x61. -/
def decode61 (w : Nat) : Option Instr :=
  some (.vsub (bits w 23 18) (bits w 17 12) (bits w 11 6) (bits w 5 3) (bits w 2 0))

/-- Major 0x62. -/
def decode62 (w : Nat) : Option Instr :=
  some (.vadds (bits w 23 18) (bits w 17 12) (bits w 11 6) (bits w 5 3) (bits w 2 0))

/-- Major 0x63. -/
def decode63 (w : Nat) : Option Instr :=
  some (.vsubs (bits w 23 18) (bits w 17 12) (bits w 11 6) (bits w 5 3) (bits w 2 0))

/-- Major 0x64. -/
def decode64 (w : Nat) : Option Instr :=
  some (.vmul (bits w 23 18) (bits w 17 12) (bits w 11 6) (bits w 5 3) (bits w 2 0))

/-- Major 0x65. -/
def decode65 (w : Nat) : Option Instr :=
  some (.vmulh (bits w 23 18) (bits w 17 12) (bits w 11 6) (bits w 5 3) (bits w 2 0))

/-- Major 0x66. -/
def decode66 (w : Nat) : Option Instr :=
  some (.vmad (bits w 23 18) (bits w 17 12) (bits w 11 6) (bits w 5 3) (bits w 2 0))

/-- Major 0x67. -/
def decode67 (w : Nat) : Option Instr :=
  some (.vmin (bits w 23 18) (bits w 17 12) (bits w 11 6) (bits w 5 3) (bits w 2 0))

/-- Major 0x68. -/
def decode68 (w : Nat) : Option Instr :=
  some (.vmax (bits w 23 18) (bits w 17 12) (bits w 11 6) (bits w 5 3) (bits w 2 0))

/-- Major 0x69. -/
def decode69 (w : Nat) : Option Instr :=
  some (.vand (bits w 23 18) (bits w 17 12) (bits w 11 6) (bits w 5 3) (bits w 2 0))

/-- Major 0x6A. -/
def decode6A (w : Nat) : Option Instr :=
  some (.vor (bits w 23 18) (bits w 17 12) (bits w 11 6) (bits w 5 3) (bits w 2 0))

/-- Major 0x6B. -/
def decode6B (w : Nat) : Option Instr :=
  some (.vxor (bits w 23 18) (bits w 17 12) (bits w 11 6) (bits w 5 3) (bits w 2 0))

/-- Major 0x6C. -/
def decode6C (w : Nat) : Option Instr :=
  some (.vshl (bits w 23 18) (bits w 17 12) (bits w 11 6) (bits w 5 3) (bits w 2 0))

/-- Major 0x6D. -/
def decode6D (w : Nat) : Option Instr :=
  some (.vshr (bits w 23 18) (bits w 17 12) (bits w 11 6) (bits w 5 3) (bits w 2 0))

/-- Major 0x6E. -/
def decode6E (w : Nat) : Option Instr :=
  some (.vsra (bits w 23 18) (bits w 17 12) (bits w 11 6) (bits w 5 3) (bits w 2 0))

/-- Major 0x6F. -/
def decode6F (w : Nat) : Option Instr :=
  some (.vcmpEq (bits w 23 18) (bits w 17 12) (bits w 11 6) (bits w 5 3) (bits w 2 0))

/-- Major 0x70. -/
def decode70 (w : Nat) : Option Instr :=
  some (.vcmpLt (bits w 23 18) (bits w 17 12) (bits w 11 6) (bits w 5 3) (bits w 2 0))

/-- Major 0x71. -/
def decode71 (w : Nat) : Option Instr :=
  some (.vcmpLtu (bits w 23 18) (bits w 17 12) (bits w 11 6) (bits w 5 3) (bits w 2 0))

/-- Major 0x72. -/
def decode72 (w : Nat) : Option Instr :=
  some (.vcmpTst (bits w 23 18) (bits w 17 12) (bits w 11 6) (bits w 5 3) (bits w 2 0))

/-- Major 0x73. -/
def decode73 (w : Nat) : Option Instr :=
  some (.vsel (bits w 23 18) (bits w 17 12) (bits w 11 6) (bits w 5 3) (bits w 2 0))

/-- Major 0x74. -/
def decode74 (w : Nat) : Option Instr :=
  some (.vshuf (bits w 23 18) (bits w 17 12) (bits w 11 6) (bits w 5 3) (bits w 2 0))

/-- Major 0x75. -/
def decode75 (w : Nat) : Option Instr :=
  if bits w 11 6 = 0 then some (.vsplat (bits w 23 18) (bits w 17 12) (bits w 5 3) (bits w 2 0))
  else none

/-- Major 0x76. -/
def decode76 (w : Nat) : Option Instr :=
  some (.vext (bits w 23 18) (bits w 17 12) (bits w 11 6) (bits w 5 3) (bits w 2 0))

/-- Major 0x77. -/
def decode77 (w : Nat) : Option Instr :=
  some (.vins (bits w 23 18) (bits w 17 12) (bits w 11 6) (bits w 5 3) (bits w 2 0))

/-- Major 0x78. -/
def decode78 (w : Nat) : Option Instr :=
  if bits w 11 6 = 0 then some (.vnz (bits w 23 18) (bits w 17 12) (bits w 5 3) (bits w 2 0))
  else none

/-- Major 0x79. -/
def decode79 (w : Nat) : Option Instr :=
  if bits w 11 6 = 0 then some (.vredAdd (bits w 23 18) (bits w 17 12) (bits w 5 3) (bits w 2 0))
  else if bits w 11 6 = 1 then some (.vredMin (bits w 23 18) (bits w 17 12) (bits w 5 3) (bits w 2 0))
  else if bits w 11 6 = 2 then some (.vredMax (bits w 23 18) (bits w 17 12) (bits w 5 3) (bits w 2 0))
  else if bits w 11 6 = 3 then some (.vredMinn (bits w 23 18) (bits w 17 12) (bits w 5 3) (bits w 2 0))
  else if bits w 11 6 = 4 then some (.vredMaxn (bits w 23 18) (bits w 17 12) (bits w 5 3) (bits w 2 0))
  else if bits w 11 6 = 5 then some (.vredMinu (bits w 23 18) (bits w 17 12) (bits w 5 3) (bits w 2 0))
  else if bits w 11 6 = 6 then some (.vredMaxu (bits w 23 18) (bits w 17 12) (bits w 5 3) (bits w 2 0))
  else none

/-- Major 0x7A. -/
def decode7A (w : Nat) : Option Instr :=
  some (.vdot (bits w 23 18) (bits w 17 12) (bits w 11 6) (bits w 5 3) (bits w 2 0))

/-- Major 0x7B. -/
def decode7B (w : Nat) : Option Instr :=
  some (.vcvt (bits w 23 18) (bits w 17 12) (bits w 11 9) (bits w 8 6) (bits w 5 3) (bits w 2 0))

/-- Major 0x80. -/
def decode80 (w : Nat) : Option Instr :=
  some (.vfadd (bits w 23 18) (bits w 17 12) (bits w 11 6) (bits w 5 3) (bits w 2 0))

/-- Major 0x81. -/
def decode81 (w : Nat) : Option Instr :=
  some (.vfsub (bits w 23 18) (bits w 17 12) (bits w 11 6) (bits w 5 3) (bits w 2 0))

/-- Major 0x82. -/
def decode82 (w : Nat) : Option Instr :=
  some (.vfmul (bits w 23 18) (bits w 17 12) (bits w 11 6) (bits w 5 3) (bits w 2 0))

/-- Major 0x83. -/
def decode83 (w : Nat) : Option Instr :=
  some (.vfma (bits w 23 18) (bits w 17 12) (bits w 11 6) (bits w 5 3) (bits w 2 0))

/-- Major 0x84. -/
def decode84 (w : Nat) : Option Instr :=
  some (.vfmin (bits w 23 18) (bits w 17 12) (bits w 11 6) (bits w 5 3) (bits w 2 0))

/-- Major 0x85. -/
def decode85 (w : Nat) : Option Instr :=
  some (.vfmax (bits w 23 18) (bits w 17 12) (bits w 11 6) (bits w 5 3) (bits w 2 0))

/-- Major 0x86. -/
def decode86 (w : Nat) : Option Instr :=
  some (.vfminn (bits w 23 18) (bits w 17 12) (bits w 11 6) (bits w 5 3) (bits w 2 0))

/-- Major 0x87. -/
def decode87 (w : Nat) : Option Instr :=
  some (.vfmaxn (bits w 23 18) (bits w 17 12) (bits w 11 6) (bits w 5 3) (bits w 2 0))

/-- Major 0x88. -/
def decode88 (w : Nat) : Option Instr :=
  some (.vfcmpEq (bits w 23 18) (bits w 17 12) (bits w 11 6) (bits w 5 3) (bits w 2 0))

/-- Major 0x89. -/
def decode89 (w : Nat) : Option Instr :=
  some (.vfcmpLt (bits w 23 18) (bits w 17 12) (bits w 11 6) (bits w 5 3) (bits w 2 0))

/-- Major 0x8A. -/
def decode8A (w : Nat) : Option Instr :=
  some (.vfcmpLe (bits w 23 18) (bits w 17 12) (bits w 11 6) (bits w 5 3) (bits w 2 0))

/-- Major 0x8B. -/
def decode8B (w : Nat) : Option Instr :=
  some (.vfcmpUn (bits w 23 18) (bits w 17 12) (bits w 11 6) (bits w 5 3) (bits w 2 0))

/-- Major 0x90. -/
def decode90 (w : Nat) : Option Instr :=
  some (.ldB (bits w 23 17) (bits w 16 10) (sext 10 (bits w 9 0)))

/-- Major 0x91. -/
def decode91 (w : Nat) : Option Instr :=
  some (.ldBu (bits w 23 17) (bits w 16 10) (sext 10 (bits w 9 0)))

/-- Major 0x92. -/
def decode92 (w : Nat) : Option Instr :=
  some (.ldH (bits w 23 17) (bits w 16 10) (sext 10 (bits w 9 0)))

/-- Major 0x93. -/
def decode93 (w : Nat) : Option Instr :=
  some (.ldHu (bits w 23 17) (bits w 16 10) (sext 10 (bits w 9 0)))

/-- Major 0x94. -/
def decode94 (w : Nat) : Option Instr :=
  some (.ldW (bits w 23 17) (bits w 16 10) (sext 10 (bits w 9 0)))

/-- Major 0x95. -/
def decode95 (w : Nat) : Option Instr :=
  some (.ldWu (bits w 23 17) (bits w 16 10) (sext 10 (bits w 9 0)))

/-- Major 0x96. -/
def decode96 (w : Nat) : Option Instr :=
  some (.ldD (bits w 23 17) (bits w 16 10) (sext 10 (bits w 9 0)))

/-- Major 0x98. -/
def decode98 (w : Nat) : Option Instr :=
  some (.stB (bits w 23 17) (bits w 16 10) (sext 10 (bits w 9 0)))

/-- Major 0x99. -/
def decode99 (w : Nat) : Option Instr :=
  some (.stH (bits w 23 17) (bits w 16 10) (sext 10 (bits w 9 0)))

/-- Major 0x9A. -/
def decode9A (w : Nat) : Option Instr :=
  some (.stW (bits w 23 17) (bits w 16 10) (sext 10 (bits w 9 0)))

/-- Major 0x9B. -/
def decode9B (w : Nat) : Option Instr :=
  some (.stD (bits w 23 17) (bits w 16 10) (sext 10 (bits w 9 0)))

/-- Major 0x9C. -/
def decode9C (w : Nat) : Option Instr :=
  some (.ldv (bits w 23 17) (bits w 16 10) (sext 10 (bits w 9 0)))

/-- Major 0x9D. -/
def decode9D (w : Nat) : Option Instr :=
  some (.stv (bits w 23 17) (bits w 16 10) (sext 10 (bits w 9 0)))

/-- Major 0x9E. -/
def decode9E (w : Nat) : Option Instr :=
  some (.lda (bits w 23 17) (bits w 16 10) (sext 10 (bits w 9 0)))

/-- Major 0x9F. -/
def decode9F (w : Nat) : Option Instr :=
  some (.stl (bits w 23 17) (bits w 16 10) (sext 10 (bits w 9 0)))

/-- Major 0xA0. -/
def decodeA0 (w : Nat) : Option Instr :=
  some (.ldc (bits w 23 17) (bits w 16 10) (sext 10 (bits w 9 0)))

/-- Major 0xA1. -/
def decodeA1 (w : Nat) : Option Instr :=
  some (.ldt (bits w 23 17) (bits w 16 10) (bits w 9 3) (bits w 2 0))

/-- Major 0xA2. -/
def decodeA2 (w : Nat) : Option Instr :=
  some (.stt (bits w 23 17) (bits w 16 10) (bits w 9 3) (bits w 2 0))

/-- Major 0xA3. -/
def decodeA3 (w : Nat) : Option Instr :=
  some (.lds (bits w 23 17) (bits w 16 10) (sext 10 (bits w 9 0)))

/-- Major 0xA4. -/
def decodeA4 (w : Nat) : Option Instr :=
  some (.sts (bits w 23 17) (bits w 16 10) (sext 10 (bits w 9 0)))

/-- Major 0xA5. -/
def decodeA5 (w : Nat) : Option Instr :=
  if bits w 31 17 = 21120 then some (.pref (bits w 16 10) (sext 10 (bits w 9 0)))
  else none

/-- Major 0xA6. -/
def decodeA6 (w : Nat) : Option Instr :=
  some (.ldf (bits w 23 17) (bits w 16 10) (sext 10 (bits w 9 0)))

/-- Major 0xA7. -/
def decodeA7 (w : Nat) : Option Instr :=
  some (.ldfe (bits w 23 17) (bits w 16 10) (sext 10 (bits w 9 0)))

/-- Major 0xA8. -/
def decodeA8 (w : Nat) : Option Instr :=
  some (.stf (bits w 23 17) (bits w 16 10) (sext 10 (bits w 9 0)))

/-- Major 0xA9. -/
def decodeA9 (w : Nat) : Option Instr :=
  some (.sto (bits w 23 17) (bits w 16 10) (sext 10 (bits w 9 0)))

/-- Major 0xAA. -/
def decodeAA (w : Nat) : Option Instr :=
  some (.fest (bits w 23 17) (bits w 16 10) (sext 10 (bits w 9 0)))

/-- Major 0xAB. -/
def decodeAB (w : Nat) : Option Instr :=
  if bits w 2 0 = 0 then some (.amoSwapW (bits w 23 17) (bits w 16 10) (bits w 9 3))
  else if bits w 2 0 = 1 then some (.amoAddW (bits w 23 17) (bits w 16 10) (bits w 9 3))
  else if bits w 2 0 = 2 then some (.amoAndW (bits w 23 17) (bits w 16 10) (bits w 9 3))
  else if bits w 2 0 = 3 then some (.amoOrW (bits w 23 17) (bits w 16 10) (bits w 9 3))
  else if bits w 2 0 = 4 then some (.amoXorW (bits w 23 17) (bits w 16 10) (bits w 9 3))
  else if bits w 2 0 = 5 then some (.amoMinW (bits w 23 17) (bits w 16 10) (bits w 9 3))
  else if bits w 2 0 = 6 then some (.amoMaxW (bits w 23 17) (bits w 16 10) (bits w 9 3))
  else none

/-- Major 0xAC. -/
def decodeAC (w : Nat) : Option Instr :=
  if bits w 2 0 = 0 then some (.amoSwapD (bits w 23 17) (bits w 16 10) (bits w 9 3))
  else if bits w 2 0 = 1 then some (.amoAddD (bits w 23 17) (bits w 16 10) (bits w 9 3))
  else if bits w 2 0 = 2 then some (.amoAndD (bits w 23 17) (bits w 16 10) (bits w 9 3))
  else if bits w 2 0 = 3 then some (.amoOrD (bits w 23 17) (bits w 16 10) (bits w 9 3))
  else if bits w 2 0 = 4 then some (.amoXorD (bits w 23 17) (bits w 16 10) (bits w 9 3))
  else if bits w 2 0 = 5 then some (.amoMinD (bits w 23 17) (bits w 16 10) (bits w 9 3))
  else if bits w 2 0 = 6 then some (.amoMaxD (bits w 23 17) (bits w 16 10) (bits w 9 3))
  else none

/-- Major 0xAD. -/
def decodeAD (w : Nat) : Option Instr :=
  if bits w 2 0 = 0 then some (.amoMinuW (bits w 23 17) (bits w 16 10) (bits w 9 3))
  else if bits w 2 0 = 1 then some (.amoMaxuW (bits w 23 17) (bits w 16 10) (bits w 9 3))
  else if bits w 2 0 = 2 then some (.amoMinuD (bits w 23 17) (bits w 16 10) (bits w 9 3))
  else if bits w 2 0 = 3 then some (.amoMaxuD (bits w 23 17) (bits w 16 10) (bits w 9 3))
  else if bits w 2 0 = 4 then some (.amocasW (bits w 23 17) (bits w 16 10) (bits w 9 3))
  else if bits w 2 0 = 5 then some (.amocasD (bits w 23 17) (bits w 16 10) (bits w 9 3))
  else none

/-- Major 0xAE. -/
def decodeAE (w : Nat) : Option Instr :=
  if bits w 31 17 = 22272 then some (.redAdd (bits w 16 10) (bits w 9 3) (bits w 2 0))
  else if bits w 31 17 = 22273 then some (.redAnd (bits w 16 10) (bits w 9 3) (bits w 2 0))
  else if bits w 31 17 = 22274 then some (.redOr (bits w 16 10) (bits w 9 3) (bits w 2 0))
  else if bits w 31 17 = 22275 then some (.redXor (bits w 16 10) (bits w 9 3) (bits w 2 0))
  else if bits w 31 17 = 22276 then some (.redMin (bits w 16 10) (bits w 9 3) (bits w 2 0))
  else if bits w 31 17 = 22277 then some (.redMax (bits w 16 10) (bits w 9 3) (bits w 2 0))
  else if bits w 31 17 = 22278 then some (.redMinu (bits w 16 10) (bits w 9 3) (bits w 2 0))
  else if bits w 31 17 = 22279 then some (.redMaxu (bits w 16 10) (bits w 9 3) (bits w 2 0))
  else if bits w 31 17 = 22280 then some (.redFadd (bits w 16 10) (bits w 9 3) (bits w 2 0))
  else if bits w 31 17 = 22281 then some (.redFmin (bits w 16 10) (bits w 9 3) (bits w 2 0))
  else if bits w 31 17 = 22282 then some (.redFmax (bits w 16 10) (bits w 9 3) (bits w 2 0))
  else none

/-- Major 0xAF. -/
def decodeAF (w : Nat) : Option Instr :=
  if bits w 31 0 = 2936012800 then some (.fenceT)
  else if bits w 31 0 = 2936012801 then some (.fenceS)
  else if bits w 31 0 = 2936012802 then some (.fenceD)
  else if bits w 31 0 = 2936012803 then some (.fenceP)
  else if bits w 31 0 = 2936012804 then some (.fenceX)
  else if bits w 31 0 = 2936012805 then some (.redwait)
  else none

/-- Major 0xB0. -/
def decodeB0 (w : Nat) : Option Instr :=
  if bits w 20 7 = 0 then some (.kshape (bits w 23 21) (bits w 6 0))
  else none

/-- Major 0xB1. -/
def decodeB1 (w : Nat) : Option Instr :=
  if bits w 20 7 = 0 then some (.kld (bits w 23 21) (bits w 6 0))
  else none

/-- Major 0xB2. -/
def decodeB2 (w : Nat) : Option Instr :=
  if bits w 20 7 = 0 then some (.kldt (bits w 23 21) (bits w 6 0))
  else none

/-- Major 0xB3. -/
def decodeB3 (w : Nat) : Option Instr :=
  if bits w 17 7 = 0 ∧ bits w 31 21 = 1432 then some (.kst (bits w 20 18) (bits w 6 0))
  else none

/-- Major 0xB4. -/
def decodeB4 (w : Nat) : Option Instr :=
  if bits w 20 0 = 0 then some (.kzero (bits w 23 21))
  else none

/-- Major 0xB5. -/
def decodeB5 (w : Nat) : Option Instr :=
  if bits w 17 0 = 0 then some (.kmov (bits w 23 21) (bits w 20 18))
  else none

/-- Major 0xB6. -/
def decodeB6 (w : Nat) : Option Instr :=
  if bits w 17 0 = 0 then some (.ktr (bits w 23 21) (bits w 20 18))
  else none

/-- Major 0xB7. -/
def decodeB7 (w : Nat) : Option Instr :=
  if bits w 31 0 = 3070230528 then some (.gang)
  else none

/-- Major 0xB8. -/
def decodeB8 (w : Nat) : Option Instr :=
  if bits w 14 11 = 0 then some (.kmma (bits w 23 21) (bits w 20 18) (bits w 17 15) (bits w 10 10) (bits w 9 9) (bits w 8 7) (bits w 6 0))
  else none

/-- Major 0xB9. -/
def decodeB9 (w : Nat) : Option Instr :=
  if bits w 14 11 = 0 then some (.kmmr (bits w 23 21) (bits w 20 18) (bits w 17 15) (bits w 10 10) (bits w 9 9) (bits w 8 7) (bits w 6 0))
  else none

/-- Major 0xBA. -/
def decodeBA (w : Nat) : Option Instr :=
  if bits w 20 0 = 0 then some (.azero (bits w 23 21))
  else none

/-- Major 0xBB. -/
def decodeBB (w : Nat) : Option Instr :=
  if bits w 20 9 = 0 then some (.ald (bits w 23 21) (bits w 8 7) (bits w 6 0))
  else none

/-- Major 0xBC. -/
def decodeBC (w : Nat) : Option Instr :=
  if bits w 17 9 = 0 ∧ bits w 31 21 = 1504 then some (.ast (bits w 20 18) (bits w 8 7) (bits w 6 0))
  else none

/-- Major 0xBD. -/
def decodeBD (w : Nat) : Option Instr :=
  if bits w 17 12 = 0 then some (.acvt (bits w 23 21) (bits w 20 18) (bits w 11 10) (bits w 9 7) (bits w 6 0))
  else none

/-- Major 0xC0. -/
def decodeC0 (w : Nat) : Option Instr :=
  if bits w 2 0 = 0 then some (.nzscan (bits w 23 17) (bits w 16 10) (bits w 9 3))
  else if bits w 2 0 = 1 then some (.gath (bits w 23 17) (bits w 16 10) (bits w 9 3))
  else none

/-- Major 0xC1. -/
def decodeC1 (w : Nat) : Option Instr :=
  if bits w 9 0 = 0 then some (.mgopen (bits w 23 17) (bits w 16 10))
  else if bits w 2 0 = 1 then some (.mgarea (bits w 23 17) (bits w 16 10) (bits w 9 3))
  else if bits w 2 0 = 2 then some (.mgput (bits w 23 17) (bits w 16 10) (bits w 9 3))
  else if bits w 2 0 = 3 then some (.mgendEnd (bits w 23 17) (bits w 16 10) (bits w 9 3))
  else if bits w 2 0 = 4 then some (.mgfin (bits w 23 17) (bits w 16 10) (bits w 9 3))
  else if bits w 2 0 = 5 then some (.mgstat (bits w 23 17) (bits w 16 10) (bits w 9 3))
  else none

/-- Major 0xC2. -/
def decodeC2 (w : Nat) : Option Instr :=
  if bits w 2 0 = 0 then some (.gtopk (bits w 23 17) (bits w 16 10) (bits w 9 3))
  else if bits w 2 0 = 1 then some (.ghist (bits w 23 17) (bits w 16 10) (bits w 9 3))
  else if bits w 2 0 = 2 then some (.gperm (bits w 23 17) (bits w 16 10) (bits w 9 3))
  else none

/-- Major 0xC8. -/
def decodeC8 (w : Nat) : Option Instr :=
  if bits w 2 0 = 0 then some (.ctreeBind (bits w 23 17) (bits w 16 10) (bits w 9 3))
  else if bits w 2 0 = 1 then some (.cdesc (bits w 23 17) (bits w 16 10) (bits w 9 3))
  else if bits w 2 0 = 2 then some (.cexp (bits w 23 17) (bits w 16 10) (bits w 9 3))
  else if bits w 2 0 = 3 then some (.cbackBackup (bits w 23 17) (bits w 16 10) (bits w 9 3))
  else if bits w 2 0 = 4 then some (.cread (bits w 23 17) (bits w 16 10) (bits w 9 3))
  else if bits w 9 0 = 5 then some (.creuse (bits w 23 17) (bits w 16 10))
  else none

/-- Majors 0x00 to 0x0F. -/
def decodeMajor0 (w : Nat) : Option Instr :=
  match bits w 27 24 with
  | 0x1 => decode01 w
  | 0x2 => decode02 w
  | 0x3 => decode03 w
  | 0x4 => decode04 w
  | 0x5 => decode05 w
  | 0x6 => decode06 w
  | 0x7 => decode07 w
  | 0x8 => decode08 w
  | 0x9 => decode09 w
  | 0xA => decode0A w
  | _ => none

/-- Majors 0x10 to 0x1F. -/
def decodeMajor1 (w : Nat) : Option Instr :=
  match bits w 27 24 with
  | 0x0 => decode10 w
  | 0x1 => decode11 w
  | 0x2 => decode12 w
  | 0x3 => decode13 w
  | 0x4 => decode14 w
  | 0x5 => decode15 w
  | 0x6 => decode16 w
  | 0x7 => decode17 w
  | 0x8 => decode18 w
  | _ => none

/-- Majors 0x20 to 0x2F. -/
def decodeMajor2 (w : Nat) : Option Instr :=
  match bits w 27 24 with
  | 0x0 => decode20 w
  | 0x1 => decode21 w
  | 0x2 => decode22 w
  | 0x3 => decode23 w
  | _ => none

/-- Majors 0x40 to 0x4F. -/
def decodeMajor4 (w : Nat) : Option Instr :=
  match bits w 27 24 with
  | 0x0 => decode40 w
  | 0x1 => decode40 w
  | 0x2 => decode40 w
  | 0x3 => decode40 w
  | 0x4 => decode44 w
  | 0x5 => decode44 w
  | 0x6 => decode44 w
  | 0x7 => decode44 w
  | 0x8 => decode48 w
  | 0x9 => decode48 w
  | 0xA => decode48 w
  | 0xB => decode48 w
  | 0xC => decode4C w
  | _ => none

/-- Majors 0x50 to 0x5F. -/
def decodeMajor5 (w : Nat) : Option Instr :=
  match bits w 27 24 with
  | 0x0 => decode50 w
  | 0x8 => decode58 w
  | 0x9 => decode59 w
  | 0xA => decode5A w
  | 0xB => decode5B w
  | 0xC => decode5C w
  | 0xD => decode5D w
  | 0xE => decode5E w
  | 0xF => decode5F w
  | _ => none

/-- Majors 0x60 to 0x6F. -/
def decodeMajor6 (w : Nat) : Option Instr :=
  match bits w 27 24 with
  | 0x0 => decode60 w
  | 0x1 => decode61 w
  | 0x2 => decode62 w
  | 0x3 => decode63 w
  | 0x4 => decode64 w
  | 0x5 => decode65 w
  | 0x6 => decode66 w
  | 0x7 => decode67 w
  | 0x8 => decode68 w
  | 0x9 => decode69 w
  | 0xA => decode6A w
  | 0xB => decode6B w
  | 0xC => decode6C w
  | 0xD => decode6D w
  | 0xE => decode6E w
  | _ => decode6F w

/-- Majors 0x70 to 0x7F. -/
def decodeMajor7 (w : Nat) : Option Instr :=
  match bits w 27 24 with
  | 0x0 => decode70 w
  | 0x1 => decode71 w
  | 0x2 => decode72 w
  | 0x3 => decode73 w
  | 0x4 => decode74 w
  | 0x5 => decode75 w
  | 0x6 => decode76 w
  | 0x7 => decode77 w
  | 0x8 => decode78 w
  | 0x9 => decode79 w
  | 0xA => decode7A w
  | 0xB => decode7B w
  | _ => none

/-- Majors 0x80 to 0x8F. -/
def decodeMajor8 (w : Nat) : Option Instr :=
  match bits w 27 24 with
  | 0x0 => decode80 w
  | 0x1 => decode81 w
  | 0x2 => decode82 w
  | 0x3 => decode83 w
  | 0x4 => decode84 w
  | 0x5 => decode85 w
  | 0x6 => decode86 w
  | 0x7 => decode87 w
  | 0x8 => decode88 w
  | 0x9 => decode89 w
  | 0xA => decode8A w
  | 0xB => decode8B w
  | _ => none

/-- Majors 0x90 to 0x9F. -/
def decodeMajor9 (w : Nat) : Option Instr :=
  match bits w 27 24 with
  | 0x0 => decode90 w
  | 0x1 => decode91 w
  | 0x2 => decode92 w
  | 0x3 => decode93 w
  | 0x4 => decode94 w
  | 0x5 => decode95 w
  | 0x6 => decode96 w
  | 0x8 => decode98 w
  | 0x9 => decode99 w
  | 0xA => decode9A w
  | 0xB => decode9B w
  | 0xC => decode9C w
  | 0xD => decode9D w
  | 0xE => decode9E w
  | 0xF => decode9F w
  | _ => none

/-- Majors 0xA0 to 0xAF. -/
def decodeMajorA (w : Nat) : Option Instr :=
  match bits w 27 24 with
  | 0x0 => decodeA0 w
  | 0x1 => decodeA1 w
  | 0x2 => decodeA2 w
  | 0x3 => decodeA3 w
  | 0x4 => decodeA4 w
  | 0x5 => decodeA5 w
  | 0x6 => decodeA6 w
  | 0x7 => decodeA7 w
  | 0x8 => decodeA8 w
  | 0x9 => decodeA9 w
  | 0xA => decodeAA w
  | 0xB => decodeAB w
  | 0xC => decodeAC w
  | 0xD => decodeAD w
  | 0xE => decodeAE w
  | _ => decodeAF w

/-- Majors 0xB0 to 0xBF. -/
def decodeMajorB (w : Nat) : Option Instr :=
  match bits w 27 24 with
  | 0x0 => decodeB0 w
  | 0x1 => decodeB1 w
  | 0x2 => decodeB2 w
  | 0x3 => decodeB3 w
  | 0x4 => decodeB4 w
  | 0x5 => decodeB5 w
  | 0x6 => decodeB6 w
  | 0x7 => decodeB7 w
  | 0x8 => decodeB8 w
  | 0x9 => decodeB9 w
  | 0xA => decodeBA w
  | 0xB => decodeBB w
  | 0xC => decodeBC w
  | 0xD => decodeBD w
  | _ => none

/-- Majors 0xC0 to 0xCF. -/
def decodeMajorC (w : Nat) : Option Instr :=
  match bits w 27 24 with
  | 0x0 => decodeC0 w
  | 0x1 => decodeC1 w
  | 0x2 => decodeC2 w
  | 0x8 => decodeC8 w
  | _ => none

/-- The row of a word whose major is below 0xD0. -/
def decodeLow (w : Nat) : Option Instr :=
  match bits w 31 28 with
  | 0x0 => decodeMajor0 w
  | 0x1 => decodeMajor1 w
  | 0x2 => decodeMajor2 w
  | 0x4 => decodeMajor4 w
  | 0x5 => decodeMajor5 w
  | 0x6 => decodeMajor6 w
  | 0x7 => decodeMajor7 w
  | 0x8 => decodeMajor8 w
  | 0x9 => decodeMajor9 w
  | 0xA => decodeMajorA w
  | 0xB => decodeMajorB w
  | 0xC => decodeMajorC w
  | _ => none

/-- The instruction of a word whose major is below 0xD0, or why it is none. -/
def decodeLowWord (w : Nat) : Except DecodeError Instr :=
  match decodeLow w with
  | none => .error (.unassigned w)
  | some i => if i.wellFormed then .ok i else .error (.reservedValue w)

noncomputable section


/-- Major 0xD0. -/
def decodeD0 (w : Nat) : Option Instr :=
  some (.spawn (bits w 23 17) (sext 17 (bits w 16 0)))

/-- Major 0xD1. -/
def decodeD1 (w : Nat) : Option Instr :=
  some (.spawnr (bits w 23 17) (sext 17 (bits w 16 0)))

/-- Major 0xD2. -/
def decodeD2 (w : Nat) : Option Instr :=
  if bits w 16 0 = 0 then some (.join (bits w 23 17))
  else none

/-- Major 0xD3. -/
def decodeD3 (w : Nat) : Option Instr :=
  if bits w 31 0 = 3539992576 then some (.tend)
  else none

/-- Major 0xD4. -/
def decodeD4 (w : Nat) : Option Instr :=
  if bits w 9 2 = 0 then some (.sspawn (bits w 23 17) (bits w 16 10) (bits w 1 0))
  else none

/-- Major 0xD5. -/
def decodeD5 (w : Nat) : Option Instr :=
  if bits w 2 0 = 0 then some (.ps (bits w 23 17) (bits w 16 10) (bits w 9 3))
  else none

/-- Major 0xD6. -/
def decodeD6 (w : Nat) : Option Instr :=
  if bits w 2 0 = 0 then some (.psm (bits w 23 17) (bits w 16 10) (bits w 9 3))
  else none

/-- Major 0xD7. -/
def decodeD7 (w : Nat) : Option Instr :=
  if bits w 9 0 = 0 then some (.nrd (bits w 23 17) (bits w 16 10))
  else none

/-- Major 0xD8. -/
def decodeD8 (w : Nat) : Option Instr :=
  if bits w 2 0 = 0 ∧ bits w 31 17 = 27648 then some (.nwr (bits w 16 10) (bits w 9 3))
  else none

/-- Major 0xD9. -/
def decodeD9 (w : Nat) : Option Instr :=
  if bits w 2 0 = 0 ∧ bits w 31 17 = 27776 then some (.jredAdd (bits w 16 10) (bits w 9 3))
  else if bits w 2 0 = 1 ∧ bits w 31 17 = 27776 then some (.jredMin (bits w 16 10) (bits w 9 3))
  else if bits w 2 0 = 2 ∧ bits w 31 17 = 27776 then some (.jredMax (bits w 16 10) (bits w 9 3))
  else if bits w 2 0 = 3 ∧ bits w 31 17 = 27776 then some (.jredMinu (bits w 16 10) (bits w 9 3))
  else if bits w 2 0 = 4 ∧ bits w 31 17 = 27776 then some (.jredMaxu (bits w 16 10) (bits w 9 3))
  else if bits w 2 0 = 5 ∧ bits w 31 17 = 27776 then some (.jredFaddFp64 (bits w 16 10) (bits w 9 3))
  else if bits w 2 0 = 6 ∧ bits w 31 17 = 27776 then some (.jredFaddFp32 (bits w 16 10) (bits w 9 3))
  else none

/-- Major 0xDA. -/
def decodeDA (w : Nat) : Option Instr :=
  if bits w 31 10 = 3571712 then some (.bar (sext 10 (bits w 9 0)))
  else none

/-- Major 0xDB. -/
def decodeDB (w : Nat) : Option Instr :=
  if bits w 31 17 = 28032 then some (.barinit (bits w 16 10) (sext 10 (bits w 9 0)))
  else none

/-- Major 0xDC. -/
def decodeDC (w : Nat) : Option Instr :=
  if bits w 31 0 = 3690987520 then some (.yield)
  else none

/-- Major 0xDD. -/
def decodeDD (w : Nat) : Option Instr :=
  if bits w 2 0 = 0 then some (.waitGeu (bits w 23 17) (bits w 16 10) (bits w 9 3))
  else if bits w 2 0 = 1 then some (.waitEq (bits w 23 17) (bits w 16 10) (bits w 9 3))
  else if bits w 2 0 = 2 then some (.waitNe (bits w 23 17) (bits w 16 10) (bits w 9 3))
  else none

/-- Major 0xE0. -/
def decodeE0 (w : Nat) : Option Instr :=
  if bits w 2 0 = 0 then some (.poolset (bits w 23 17) (bits w 16 10) (bits w 9 3))
  else if bits w 2 0 = 1 then some (.poolsetT (bits w 23 17) (bits w 16 10) (bits w 9 3))
  else if bits w 9 0 = 2 then some (.poolack (bits w 23 17) (bits w 16 10))
  else if bits w 9 0 = 3 then some (.poolq (bits w 23 17) (bits w 16 10))
  else none

/-- Major 0xE8. -/
def decodeE8 (w : Nat) : Option Instr :=
  if bits w 2 0 = 0 then some (.cpy (bits w 23 17) (bits w 16 10) (bits w 9 3))
  else if bits w 2 0 = 1 then some (.cpy2d (bits w 23 17) (bits w 16 10) (bits w 9 3))
  else if bits w 16 0 = 2 then some (.cpwait (bits w 23 17))
  else none

/-- Major 0xE9. -/
def decodeE9 (w : Nat) : Option Instr :=
  if bits w 2 0 = 0 then some (.rld (bits w 23 17) (bits w 16 10) (bits w 9 3))
  else if bits w 2 0 = 1 then some (.rst (bits w 23 17) (bits w 16 10) (bits w 9 3))
  else none

/-- Major 0xF0. -/
def decodeF0 (w : Nat) : Option Instr :=
  if bits w 31 10 = 3932160 then some (.trap (bits w 9 0))
  else none

/-- Major 0xF1. -/
def decodeF1 (w : Nat) : Option Instr :=
  if bits w 31 0 = 4043309056 then some (.tret)
  else none

/-- Major 0xF2. -/
def decodeF2 (w : Nat) : Option Instr :=
  if bits w 16 10 = 0 then some (.csrr (bits w 23 17) (bits w 9 0))
  else none

/-- Major 0xF3. -/
def decodeF3 (w : Nat) : Option Instr :=
  if bits w 31 17 = 31104 then some (.csrw (bits w 16 10) (bits w 9 0))
  else none

/-- Major 0xF4. -/
def decodeF4 (w : Nat) : Option Instr :=
  if bits w 31 17 = 31232 then some (.csrs (bits w 16 10) (bits w 9 0))
  else none

/-- Major 0xF5. -/
def decodeF5 (w : Nat) : Option Instr :=
  if bits w 31 17 = 31360 then some (.csrc (bits w 16 10) (bits w 9 0))
  else none

/-- Major 0xF6. -/
def decodeF6 (w : Nat) : Option Instr :=
  if bits w 31 17 = 31488 then some (.ctxsv (bits w 16 10) (bits w 9 0))
  else none

/-- Major 0xF7. -/
def decodeF7 (w : Nat) : Option Instr :=
  if bits w 31 17 = 31616 then some (.ctxrs (bits w 16 10) (bits w 9 0))
  else none

/-- Major 0xF8. -/
def decodeF8 (w : Nat) : Option Instr :=
  if bits w 31 0 = 4160749568 then some (.fencei)
  else none

/-- Major 0xF9. -/
def decodeF9 (w : Nat) : Option Instr :=
  if bits w 31 0 = 4177526784 then some (.bkpt)
  else none

/-- Major 0xFA. -/
def decodeFA (w : Nat) : Option Instr :=
  if bits w 31 0 = 4194304000 then some (.halt)
  else none

/-- Major 0xFB. -/
def decodeFB (w : Nat) : Option Instr :=
  if bits w 2 0 = 0 ∧ bits w 31 17 = 32128 then some (.tlbinv (bits w 16 10) (bits w 9 3))
  else if bits w 9 0 = 1 then some (.probe (bits w 23 17) (bits w 16 10))
  else none

/-- Major 0xFC. -/
def decodeFC (w : Nat) : Option Instr :=
  some (.frame (bits w 23 20) (bits w 19 12) (bits w 11 8) (bits w 7 4) (bits w 3 0))

/-- Major 0xFE. -/
def decodeFE (w : Nat) : Option Instr :=
  some (.ximm (bits w 23 0))

/-- Majors 0xD0 to 0xDF. -/
def decodeMajorD (w : Nat) : Option Instr :=
  match bits w 27 24 with
  | 0x0 => decodeD0 w
  | 0x1 => decodeD1 w
  | 0x2 => decodeD2 w
  | 0x3 => decodeD3 w
  | 0x4 => decodeD4 w
  | 0x5 => decodeD5 w
  | 0x6 => decodeD6 w
  | 0x7 => decodeD7 w
  | 0x8 => decodeD8 w
  | 0x9 => decodeD9 w
  | 0xA => decodeDA w
  | 0xB => decodeDB w
  | 0xC => decodeDC w
  | 0xD => decodeDD w
  | _ => none

/-- Majors 0xE0 to 0xEF. -/
def decodeMajorE (w : Nat) : Option Instr :=
  match bits w 27 24 with
  | 0x0 => decodeE0 w
  | 0x8 => decodeE8 w
  | 0x9 => decodeE9 w
  | _ => none

/-- Majors 0xF0 to 0xFF. -/
def decodeMajorF (w : Nat) : Option Instr :=
  match bits w 27 24 with
  | 0x0 => decodeF0 w
  | 0x1 => decodeF1 w
  | 0x2 => decodeF2 w
  | 0x3 => decodeF3 w
  | 0x4 => decodeF4 w
  | 0x5 => decodeF5 w
  | 0x6 => decodeF6 w
  | 0x7 => decodeF7 w
  | 0x8 => decodeF8 w
  | 0x9 => decodeF9 w
  | 0xA => decodeFA w
  | 0xB => decodeFB w
  | 0xC => decodeFC w
  | 0xE => decodeFE w
  | _ => none

/-- The row of a word whose major is 0xD0 or above. -/
def decodeHigh (w : Nat) : Option Instr :=
  match bits w 31 28 with
  | 0xD => decodeMajorD w
  | 0xE => decodeMajorE w
  | 0xF => decodeMajorF w
  | _ => none

/-- The row of the opcode table a 32-bit word falls under, with its operands; where MGEND, CTREE and CBACK have two rows
with one encoding, the first of the two (the mode register tells them apart when the instruction runs). -/
def decodeRow (w : Nat) : Option Instr :=
  if bits w 31 28 < 13 then decodeLow w else decodeHigh w


/-- The instruction of a 32-bit word, or why it is none. -/
def decodeWord (w : Nat) : Except DecodeError Instr :=
  match decodeRow w with
  | none => .error (.unassigned w)
  | some i => if i.wellFormed then .ok i else .error (.reservedValue w)

end

/-- The little-endian value of bytes (R6). -/
def leNat : List Byte → Nat
  | [] => 0
  | b :: bs => b.toNat + 256 * leNat bs

/-- n little-endian bytes of a value (R6). -/
def leBytes : Nat → Nat → List Byte
  | 0, _ => []
  | n + 1, v => BitVec.ofNat 8 v :: leBytes n (v / 256)

noncomputable section

/-- The instruction at the front of a byte list (R25: one 32-bit word, little-endian), with the bytes after it. -/
def decode (bs : List Byte) : Except DecodeError (Instr × List Byte) :=
  match bs with
  | b0 :: b1 :: b2 :: b3 :: rest =>
    match decodeWord (leNat [b0, b1, b2, b3]) with
    | .ok i => .ok (i, rest)
    | .error e => .error e
  | _ => .error .tooShort

/-- What the decoder reads from an instruction laid out as the hardware stores it. -/
def decodeTableWord (nbits w : Nat) : Option Instr :=
  if nbits ≤ 32 then
    match decode (leBytes 4 (w % 2 ^ nbits)) with
    | .ok (i, _) => some i
    | .error _ => none
  else none

end

/-- A field placed at bit `lo` of a word that is zero there. -/
def put (lo v w : Nat) : Nat := v * 2 ^ lo + w

/-- The word of an instruction, from the same tables; an event of the part has none. -/
def encode (i : Instr) : Option Nat :=
  match i with
  | .add d a b => some (put 17 d (put 10 a (put 3 b 0x01000000)))
  | .sub d a b => some (put 17 d (put 10 a (put 3 b 0x01000001)))
  | .and d a b => some (put 17 d (put 10 a (put 3 b 0x01000002)))
  | .or d a b => some (put 17 d (put 10 a (put 3 b 0x01000003)))
  | .xor d a b => some (put 17 d (put 10 a (put 3 b 0x01000004)))
  | .andn d a b => some (put 17 d (put 10 a (put 3 b 0x01000005)))
  | .min d a b => some (put 17 d (put 10 a (put 3 b 0x01000006)))
  | .max d a b => some (put 17 d (put 10 a (put 3 b 0x01000007)))
  | .minu d a b => some (put 17 d (put 10 a (put 3 b 0x02000000)))
  | .maxu d a b => some (put 17 d (put 10 a (put 3 b 0x02000001)))
  | .shl d a b => some (put 17 d (put 10 a (put 3 b 0x02000002)))
  | .shr d a b => some (put 17 d (put 10 a (put 3 b 0x02000003)))
  | .sra d a b => some (put 17 d (put 10 a (put 3 b 0x02000004)))
  | .rotr d a b => some (put 17 d (put 10 a (put 3 b 0x02000005)))
  | .mul d a b => some (put 17 d (put 10 a (put 3 b 0x03000000)))
  | .mulh d a b => some (put 17 d (put 10 a (put 3 b 0x03000001)))
  | .mulhu d a b => some (put 17 d (put 10 a (put 3 b 0x03000002)))
  | .div d a b => some (put 17 d (put 10 a (put 3 b 0x03000003)))
  | .divu d a b => some (put 17 d (put 10 a (put 3 b 0x03000004)))
  | .rem d a b => some (put 17 d (put 10 a (put 3 b 0x03000005)))
  | .remu d a b => some (put 17 d (put 10 a (put 3 b 0x03000006)))
  | .clz d a => some (put 17 d (put 10 a 0x04000000))
  | .ctz d a => some (put 17 d (put 10 a 0x04000001))
  | .popc d a => some (put 17 d (put 10 a 0x04000002))
  | .sel d a b q => some (put 17 d (put 10 a (put 3 b (put 0 q 0x05000000))))
  | .padd d a b => some (put 17 d (put 10 a (put 3 b 0x06000000)))
  | .qopAnd d a b => some (put 21 d (put 14 a (put 7 b 0x07000000)))
  | .qopOr d a b => some (put 21 d (put 14 a (put 7 b 0x07000010)))
  | .qopXor d a b => some (put 21 d (put 14 a (put 7 b 0x07000020)))
  | .qopAndn d a b => some (put 21 d (put 14 a (put 7 b 0x07000030)))
  | .qopOrn d a b => some (put 21 d (put 14 a (put 7 b 0x07000040)))
  | .qopXnor d a b => some (put 21 d (put 14 a (put 7 b 0x07000050)))
  | .qopNot d a => some (put 21 d (put 14 a 0x07000060))
  | .cmpEq q a b => some (put 21 q (put 14 a (put 7 b 0x08000000)))
  | .cmpNe q a b => some (put 21 q (put 14 a (put 7 b 0x08000010)))
  | .cmpLt q a b => some (put 21 q (put 14 a (put 7 b 0x08000020)))
  | .cmpGe q a b => some (put 21 q (put 14 a (put 7 b 0x08000030)))
  | .cmpLtu q a b => some (put 21 q (put 14 a (put 7 b 0x08000040)))
  | .cmpGeu q a b => some (put 21 q (put 14 a (put 7 b 0x08000050)))
  | .cmpTst q a b => some (put 21 q (put 14 a (put 7 b 0x08000060)))
  | .cmpiEq q a i => some (put 21 q (put 14 a (put 7 (ofSigned 7 i) 0x09000000)))
  | .cmpiNe q a i => some (put 21 q (put 14 a (put 7 (ofSigned 7 i) 0x09000010)))
  | .cmpiLt q a i => some (put 21 q (put 14 a (put 7 (ofSigned 7 i) 0x09000020)))
  | .cmpiGe q a i => some (put 21 q (put 14 a (put 7 (ofSigned 7 i) 0x09000030)))
  | .cmpiLtu q a i => some (put 21 q (put 14 a (put 7 (ofSigned 7 i) 0x09000040)))
  | .cmpiGeu q a i => some (put 21 q (put 14 a (put 7 (ofSigned 7 i) 0x09000050)))
  | .cmpiTst q a i => some (put 21 q (put 14 a (put 7 (ofSigned 7 i) 0x09000060)))
  | .bfx d a b => some (put 17 d (put 10 a (put 3 b 0x0A000000)))
  | .bfi d a b => some (put 17 d (put 10 a (put 3 b 0x0A000001)))
  | .addi d a i => some (put 17 d (put 10 a (put 0 (ofSigned 10 i) 0x10000000)))
  | .andi d a i => some (put 17 d (put 10 a (put 0 (ofSigned 10 i) 0x11000000)))
  | .ori d a i => some (put 17 d (put 10 a (put 0 (ofSigned 10 i) 0x12000000)))
  | .xori d a i => some (put 17 d (put 10 a (put 0 (ofSigned 10 i) 0x13000000)))
  | .shli d a i => some (put 17 d (put 10 a (put 0 i 0x14000000)))
  | .shri d a i => some (put 17 d (put 10 a (put 0 i 0x15000000)))
  | .srai d a i => some (put 17 d (put 10 a (put 0 i 0x16000000)))
  | .lih d a i => some (put 17 d (put 10 a (put 0 (ofSigned 10 i) 0x17000000)))
  | .ptag d a t => some (put 17 d (put 10 a (put 0 t 0x18000000)))
  | .br q n o => some (put 21 q (put 20 n (put 0 (ofSigned 20 o) 0x20000000)))
  | .jal d o => some (put 17 d (put 0 (ofSigned 17 o) 0x21000000))
  | .jalr d a i => some (put 17 d (put 10 a (put 0 (ofSigned 10 i) 0x22000000)))
  | .rep a i => some (put 10 a (put 0 (ofSigned 10 i) 0x23000000))
  | .fadd t d a b => some (put 24 t (put 17 d (put 10 a (put 3 b 0x40000000))))
  | .fsub t d a b => some (put 24 t (put 17 d (put 10 a (put 3 b 0x40000001))))
  | .fmul t d a b => some (put 24 t (put 17 d (put 10 a (put 3 b 0x40000002))))
  | .fdiv t d a b => some (put 24 t (put 17 d (put 10 a (put 3 b 0x40000003))))
  | .fmin t d a b => some (put 24 t (put 17 d (put 10 a (put 3 b 0x40000004))))
  | .fmax t d a b => some (put 24 t (put 17 d (put 10 a (put 3 b 0x40000005))))
  | .fminn t d a b => some (put 24 t (put 17 d (put 10 a (put 3 b 0x40000006))))
  | .fmaxn t d a b => some (put 24 t (put 17 d (put 10 a (put 3 b 0x40000007))))
  | .fma t d a b => some (put 24 t (put 17 d (put 10 a (put 3 b 0x44000000))))
  | .fnma t d a b => some (put 24 t (put 17 d (put 10 a (put 3 b 0x44000001))))
  | .fsqrt t d a => some (put 24 t (put 17 d (put 10 a 0x44000002)))
  | .fclass t d a => some (put 24 t (put 17 d (put 10 a 0x44000003)))
  | .fcmpEq t q a b => some (put 24 t (put 21 q (put 14 a (put 7 b 0x48000000))))
  | .fcmpNe t q a b => some (put 24 t (put 21 q (put 14 a (put 7 b 0x48000010))))
  | .fcmpLt t q a b => some (put 24 t (put 21 q (put 14 a (put 7 b 0x48000020))))
  | .fcmpLe t q a b => some (put 24 t (put 21 q (put 14 a (put 7 b 0x48000030))))
  | .fcmpGt t q a b => some (put 24 t (put 21 q (put 14 a (put 7 b 0x48000040))))
  | .fcmpGe t q a b => some (put 24 t (put 21 q (put 14 a (put 7 b 0x48000050))))
  | .fcmpUn t q a b => some (put 24 t (put 21 q (put 14 a (put 7 b 0x48000060))))
  | .fcmpOr t q a b => some (put 24 t (put 21 q (put 14 a (put 7 b 0x48000070))))
  | .fcvt d a t f r => some (put 17 d (put 10 a (put 7 t (put 3 f (put 0 r 0x4C000000)))))
  | .sfnExp2 d a t => some (put 17 d (put 10 a (put 3 t 0x50000000)))
  | .sfnLog2 d a t => some (put 17 d (put 10 a (put 3 t 0x50000001)))
  | .sfnRcp d a t => some (put 17 d (put 10 a (put 3 t 0x50000002)))
  | .sfnRsq d a t => some (put 17 d (put 10 a (put 3 t 0x50000003)))
  | .sfnSin d a t => some (put 17 d (put 10 a (put 3 t 0x50000004)))
  | .sfnCos d a t => some (put 17 d (put 10 a (put 3 t 0x50000005)))
  | .sfnTanh d a t => some (put 17 d (put 10 a (put 3 t 0x50000006)))
  | .sfnErf d a t => some (put 17 d (put 10 a (put 3 t 0x50000007)))
  | .vsfnExp2 d a m l => some (put 18 d (put 12 a (put 3 m (put 0 l 0x58000000))))
  | .vsfnLog2 d a m l => some (put 18 d (put 12 a (put 3 m (put 0 l 0x59000000))))
  | .vsfnRcp d a m l => some (put 18 d (put 12 a (put 3 m (put 0 l 0x5A000000))))
  | .vsfnRsq d a m l => some (put 18 d (put 12 a (put 3 m (put 0 l 0x5B000000))))
  | .vsfnSin d a m l => some (put 18 d (put 12 a (put 3 m (put 0 l 0x5C000000))))
  | .vsfnCos d a m l => some (put 18 d (put 12 a (put 3 m (put 0 l 0x5D000000))))
  | .vsfnTanh d a m l => some (put 18 d (put 12 a (put 3 m (put 0 l 0x5E000000))))
  | .vsfnErf d a m l => some (put 18 d (put 12 a (put 3 m (put 0 l 0x5F000000))))
  | .vadd d a b m l => some (put 18 d (put 12 a (put 6 b (put 3 m (put 0 l 0x60000000)))))
  | .vsub d a b m l => some (put 18 d (put 12 a (put 6 b (put 3 m (put 0 l 0x61000000)))))
  | .vadds d a b m l => some (put 18 d (put 12 a (put 6 b (put 3 m (put 0 l 0x62000000)))))
  | .vsubs d a b m l => some (put 18 d (put 12 a (put 6 b (put 3 m (put 0 l 0x63000000)))))
  | .vmul d a b m l => some (put 18 d (put 12 a (put 6 b (put 3 m (put 0 l 0x64000000)))))
  | .vmulh d a b m l => some (put 18 d (put 12 a (put 6 b (put 3 m (put 0 l 0x65000000)))))
  | .vmad d a b m l => some (put 18 d (put 12 a (put 6 b (put 3 m (put 0 l 0x66000000)))))
  | .vmin d a b m l => some (put 18 d (put 12 a (put 6 b (put 3 m (put 0 l 0x67000000)))))
  | .vmax d a b m l => some (put 18 d (put 12 a (put 6 b (put 3 m (put 0 l 0x68000000)))))
  | .vand d a b m l => some (put 18 d (put 12 a (put 6 b (put 3 m (put 0 l 0x69000000)))))
  | .vor d a b m l => some (put 18 d (put 12 a (put 6 b (put 3 m (put 0 l 0x6A000000)))))
  | .vxor d a b m l => some (put 18 d (put 12 a (put 6 b (put 3 m (put 0 l 0x6B000000)))))
  | .vshl d a b m l => some (put 18 d (put 12 a (put 6 b (put 3 m (put 0 l 0x6C000000)))))
  | .vshr d a b m l => some (put 18 d (put 12 a (put 6 b (put 3 m (put 0 l 0x6D000000)))))
  | .vsra d a b m l => some (put 18 d (put 12 a (put 6 b (put 3 m (put 0 l 0x6E000000)))))
  | .vcmpEq d a b m l => some (put 18 d (put 12 a (put 6 b (put 3 m (put 0 l 0x6F000000)))))
  | .vcmpLt d a b m l => some (put 18 d (put 12 a (put 6 b (put 3 m (put 0 l 0x70000000)))))
  | .vcmpLtu d a b m l => some (put 18 d (put 12 a (put 6 b (put 3 m (put 0 l 0x71000000)))))
  | .vcmpTst d a b m l => some (put 18 d (put 12 a (put 6 b (put 3 m (put 0 l 0x72000000)))))
  | .vsel d a b m l => some (put 18 d (put 12 a (put 6 b (put 3 m (put 0 l 0x73000000)))))
  | .vshuf d a b m l => some (put 18 d (put 12 a (put 6 b (put 3 m (put 0 l 0x74000000)))))
  | .vsplat d a m l => some (put 18 d (put 12 a (put 3 m (put 0 l 0x75000000))))
  | .vext d a k m l => some (put 18 d (put 12 a (put 6 k (put 3 m (put 0 l 0x76000000)))))
  | .vins d a k m l => some (put 18 d (put 12 a (put 6 k (put 3 m (put 0 l 0x77000000)))))
  | .vnz d a m l => some (put 18 d (put 12 a (put 3 m (put 0 l 0x78000000))))
  | .vredAdd d a m l => some (put 18 d (put 12 a (put 3 m (put 0 l 0x79000000))))
  | .vredMin d a m l => some (put 18 d (put 12 a (put 3 m (put 0 l 0x79000040))))
  | .vredMax d a m l => some (put 18 d (put 12 a (put 3 m (put 0 l 0x79000080))))
  | .vredMinn d a m l => some (put 18 d (put 12 a (put 3 m (put 0 l 0x790000C0))))
  | .vredMaxn d a m l => some (put 18 d (put 12 a (put 3 m (put 0 l 0x79000100))))
  | .vredMinu d a m l => some (put 18 d (put 12 a (put 3 m (put 0 l 0x79000140))))
  | .vredMaxu d a m l => some (put 18 d (put 12 a (put 3 m (put 0 l 0x79000180))))
  | .vdot d a b m l => some (put 18 d (put 12 a (put 6 b (put 3 m (put 0 l 0x7A000000)))))
  | .vcvt d a f r m t => some (put 18 d (put 12 a (put 9 f (put 6 r (put 3 m (put 0 t 0x7B000000))))))
  | .vfadd d a b m l => some (put 18 d (put 12 a (put 6 b (put 3 m (put 0 l 0x80000000)))))
  | .vfsub d a b m l => some (put 18 d (put 12 a (put 6 b (put 3 m (put 0 l 0x81000000)))))
  | .vfmul d a b m l => some (put 18 d (put 12 a (put 6 b (put 3 m (put 0 l 0x82000000)))))
  | .vfma d a b m l => some (put 18 d (put 12 a (put 6 b (put 3 m (put 0 l 0x83000000)))))
  | .vfmin d a b m l => some (put 18 d (put 12 a (put 6 b (put 3 m (put 0 l 0x84000000)))))
  | .vfmax d a b m l => some (put 18 d (put 12 a (put 6 b (put 3 m (put 0 l 0x85000000)))))
  | .vfminn d a b m l => some (put 18 d (put 12 a (put 6 b (put 3 m (put 0 l 0x86000000)))))
  | .vfmaxn d a b m l => some (put 18 d (put 12 a (put 6 b (put 3 m (put 0 l 0x87000000)))))
  | .vfcmpEq d a b m l => some (put 18 d (put 12 a (put 6 b (put 3 m (put 0 l 0x88000000)))))
  | .vfcmpLt d a b m l => some (put 18 d (put 12 a (put 6 b (put 3 m (put 0 l 0x89000000)))))
  | .vfcmpLe d a b m l => some (put 18 d (put 12 a (put 6 b (put 3 m (put 0 l 0x8A000000)))))
  | .vfcmpUn d a b m l => some (put 18 d (put 12 a (put 6 b (put 3 m (put 0 l 0x8B000000)))))
  | .ldB d a i => some (put 17 d (put 10 a (put 0 (ofSigned 10 i) 0x90000000)))
  | .ldBu d a i => some (put 17 d (put 10 a (put 0 (ofSigned 10 i) 0x91000000)))
  | .ldH d a i => some (put 17 d (put 10 a (put 0 (ofSigned 10 i) 0x92000000)))
  | .ldHu d a i => some (put 17 d (put 10 a (put 0 (ofSigned 10 i) 0x93000000)))
  | .ldW d a i => some (put 17 d (put 10 a (put 0 (ofSigned 10 i) 0x94000000)))
  | .ldWu d a i => some (put 17 d (put 10 a (put 0 (ofSigned 10 i) 0x95000000)))
  | .ldD d a i => some (put 17 d (put 10 a (put 0 (ofSigned 10 i) 0x96000000)))
  | .stB d a i => some (put 17 d (put 10 a (put 0 (ofSigned 10 i) 0x98000000)))
  | .stH d a i => some (put 17 d (put 10 a (put 0 (ofSigned 10 i) 0x99000000)))
  | .stW d a i => some (put 17 d (put 10 a (put 0 (ofSigned 10 i) 0x9A000000)))
  | .stD d a i => some (put 17 d (put 10 a (put 0 (ofSigned 10 i) 0x9B000000)))
  | .ldv d a i => some (put 17 d (put 10 a (put 0 (ofSigned 10 i) 0x9C000000)))
  | .stv d a i => some (put 17 d (put 10 a (put 0 (ofSigned 10 i) 0x9D000000)))
  | .lda d a i => some (put 17 d (put 10 a (put 0 (ofSigned 10 i) 0x9E000000)))
  | .stl d a i => some (put 17 d (put 10 a (put 0 (ofSigned 10 i) 0x9F000000)))
  | .ldc d a i => some (put 17 d (put 10 a (put 0 (ofSigned 10 i) 0xA0000000)))
  | .ldt d a b t => some (put 17 d (put 10 a (put 3 b (put 0 t 0xA1000000))))
  | .stt d a b r => some (put 17 d (put 10 a (put 3 b (put 0 r 0xA2000000))))
  | .lds d a i => some (put 17 d (put 10 a (put 0 (ofSigned 10 i) 0xA3000000)))
  | .sts d a i => some (put 17 d (put 10 a (put 0 (ofSigned 10 i) 0xA4000000)))
  | .pref a i => some (put 10 a (put 0 (ofSigned 10 i) 0xA5000000))
  | .ldf d a i => some (put 17 d (put 10 a (put 0 (ofSigned 10 i) 0xA6000000)))
  | .ldfe d a i => some (put 17 d (put 10 a (put 0 (ofSigned 10 i) 0xA7000000)))
  | .stf d a i => some (put 17 d (put 10 a (put 0 (ofSigned 10 i) 0xA8000000)))
  | .sto d a i => some (put 17 d (put 10 a (put 0 (ofSigned 10 i) 0xA9000000)))
  | .fest d a i => some (put 17 d (put 10 a (put 0 (ofSigned 10 i) 0xAA000000)))
  | .amoSwapW d a b => some (put 17 d (put 10 a (put 3 b 0xAB000000)))
  | .amoAddW d a b => some (put 17 d (put 10 a (put 3 b 0xAB000001)))
  | .amoAndW d a b => some (put 17 d (put 10 a (put 3 b 0xAB000002)))
  | .amoOrW d a b => some (put 17 d (put 10 a (put 3 b 0xAB000003)))
  | .amoXorW d a b => some (put 17 d (put 10 a (put 3 b 0xAB000004)))
  | .amoMinW d a b => some (put 17 d (put 10 a (put 3 b 0xAB000005)))
  | .amoMaxW d a b => some (put 17 d (put 10 a (put 3 b 0xAB000006)))
  | .amoSwapD d a b => some (put 17 d (put 10 a (put 3 b 0xAC000000)))
  | .amoAddD d a b => some (put 17 d (put 10 a (put 3 b 0xAC000001)))
  | .amoAndD d a b => some (put 17 d (put 10 a (put 3 b 0xAC000002)))
  | .amoOrD d a b => some (put 17 d (put 10 a (put 3 b 0xAC000003)))
  | .amoXorD d a b => some (put 17 d (put 10 a (put 3 b 0xAC000004)))
  | .amoMinD d a b => some (put 17 d (put 10 a (put 3 b 0xAC000005)))
  | .amoMaxD d a b => some (put 17 d (put 10 a (put 3 b 0xAC000006)))
  | .amoMinuW d a b => some (put 17 d (put 10 a (put 3 b 0xAD000000)))
  | .amoMaxuW d a b => some (put 17 d (put 10 a (put 3 b 0xAD000001)))
  | .amoMinuD d a b => some (put 17 d (put 10 a (put 3 b 0xAD000002)))
  | .amoMaxuD d a b => some (put 17 d (put 10 a (put 3 b 0xAD000003)))
  | .amocasW d a b => some (put 17 d (put 10 a (put 3 b 0xAD000004)))
  | .amocasD d a b => some (put 17 d (put 10 a (put 3 b 0xAD000005)))
  | .redAdd a b w => some (put 10 a (put 3 b (put 0 w 0xAE000000)))
  | .redAnd a b w => some (put 10 a (put 3 b (put 0 w 0xAE020000)))
  | .redOr a b w => some (put 10 a (put 3 b (put 0 w 0xAE040000)))
  | .redXor a b w => some (put 10 a (put 3 b (put 0 w 0xAE060000)))
  | .redMin a b w => some (put 10 a (put 3 b (put 0 w 0xAE080000)))
  | .redMax a b w => some (put 10 a (put 3 b (put 0 w 0xAE0A0000)))
  | .redMinu a b w => some (put 10 a (put 3 b (put 0 w 0xAE0C0000)))
  | .redMaxu a b w => some (put 10 a (put 3 b (put 0 w 0xAE0E0000)))
  | .redFadd a b w => some (put 10 a (put 3 b (put 0 w 0xAE100000)))
  | .redFmin a b w => some (put 10 a (put 3 b (put 0 w 0xAE120000)))
  | .redFmax a b w => some (put 10 a (put 3 b (put 0 w 0xAE140000)))
  | .fenceT => some 0xAF000000
  | .fenceS => some 0xAF000001
  | .fenceD => some 0xAF000002
  | .fenceP => some 0xAF000003
  | .fenceX => some 0xAF000004
  | .redwait => some 0xAF000005
  | .kshape d s => some (put 21 d (put 0 s 0xB0000000))
  | .kld d s => some (put 21 d (put 0 s 0xB1000000))
  | .kldt d s => some (put 21 d (put 0 s 0xB2000000))
  | .kst a s => some (put 18 a (put 0 s 0xB3000000))
  | .kzero d => some (put 21 d 0xB4000000)
  | .kmov d a => some (put 21 d (put 18 a 0xB5000000))
  | .ktr d a => some (put 21 d (put 18 a 0xB6000000))
  | .gang => some 0xB7000000
  | .kmma c a b n z t s => some (put 21 c (put 18 a (put 15 b (put 10 n (put 9 z (put 7 t (put 0 s 0xB8000000)))))))
  | .kmmr c a b n z t s => some (put 21 c (put 18 a (put 15 b (put 10 n (put 9 z (put 7 t (put 0 s 0xB9000000)))))))
  | .azero c => some (put 21 c 0xBA000000)
  | .ald c t s => some (put 21 c (put 7 t (put 0 s 0xBB000000)))
  | .ast c t s => some (put 18 c (put 7 t (put 0 s 0xBC000000)))
  | .acvt d c t r s => some (put 21 d (put 18 c (put 10 t (put 7 r (put 0 s 0xBD000000)))))
  | .nzscan d a b => some (put 17 d (put 10 a (put 3 b 0xC0000000)))
  | .gath d a b => some (put 17 d (put 10 a (put 3 b 0xC0000001)))
  | .mgopen d a => some (put 17 d (put 10 a 0xC1000000))
  | .mgarea d a b => some (put 17 d (put 10 a (put 3 b 0xC1000001)))
  | .mgput d a b => some (put 17 d (put 10 a (put 3 b 0xC1000002)))
  | .mgendEnd d a b => some (put 17 d (put 10 a (put 3 b 0xC1000003)))
  | .mgendAbandon d a b => some (put 17 d (put 10 a (put 3 b 0xC1000003)))
  | .mgfin d a b => some (put 17 d (put 10 a (put 3 b 0xC1000004)))
  | .mgstat d a b => some (put 17 d (put 10 a (put 3 b 0xC1000005)))
  | .gtopk d a b => some (put 17 d (put 10 a (put 3 b 0xC2000000)))
  | .ghist d a b => some (put 17 d (put 10 a (put 3 b 0xC2000001)))
  | .gperm d a b => some (put 17 d (put 10 a (put 3 b 0xC2000002)))
  | .ctreeBind d a b => some (put 17 d (put 10 a (put 3 b 0xC8000000)))
  | .ctreeUnbind d a b => some (put 17 d (put 10 a (put 3 b 0xC8000000)))
  | .cdesc d a b => some (put 17 d (put 10 a (put 3 b 0xC8000001)))
  | .cexp d a b => some (put 17 d (put 10 a (put 3 b 0xC8000002)))
  | .cbackBackup d a b => some (put 17 d (put 10 a (put 3 b 0xC8000003)))
  | .cbackCancel d a b => some (put 17 d (put 10 a (put 3 b 0xC8000003)))
  | .cread d a b => some (put 17 d (put 10 a (put 3 b 0xC8000004)))
  | .creuse d a => some (put 17 d (put 10 a 0xC8000005))
  | .spawn d o => some (put 17 d (put 0 (ofSigned 17 o) 0xD0000000))
  | .spawnr d o => some (put 17 d (put 0 (ofSigned 17 o) 0xD1000000))
  | .join d => some (put 17 d 0xD2000000)
  | .tend => some 0xD3000000
  | .sspawn d a p => some (put 17 d (put 10 a (put 0 p 0xD4000000)))
  | .ps d n b => some (put 17 d (put 10 n (put 3 b 0xD5000000)))
  | .psm d n b => some (put 17 d (put 10 n (put 3 b 0xD6000000)))
  | .nrd d n => some (put 17 d (put 10 n 0xD7000000))
  | .nwr n b => some (put 10 n (put 3 b 0xD8000000))
  | .jredAdd n b => some (put 10 n (put 3 b 0xD9000000))
  | .jredMin n b => some (put 10 n (put 3 b 0xD9000001))
  | .jredMax n b => some (put 10 n (put 3 b 0xD9000002))
  | .jredMinu n b => some (put 10 n (put 3 b 0xD9000003))
  | .jredMaxu n b => some (put 10 n (put 3 b 0xD9000004))
  | .jredFaddFp64 n b => some (put 10 n (put 3 b 0xD9000005))
  | .jredFaddFp32 n b => some (put 10 n (put 3 b 0xD9000006))
  | .bar i => some (put 0 (ofSigned 10 i) 0xDA000000)
  | .barinit a i => some (put 10 a (put 0 (ofSigned 10 i) 0xDB000000))
  | .yield => some 0xDC000000
  | .waitGeu d a b => some (put 17 d (put 10 a (put 3 b 0xDD000000)))
  | .waitEq d a b => some (put 17 d (put 10 a (put 3 b 0xDD000001)))
  | .waitNe d a b => some (put 17 d (put 10 a (put 3 b 0xDD000002)))
  | .poolset d a b => some (put 17 d (put 10 a (put 3 b 0xE0000000)))
  | .poolsetT d a b => some (put 17 d (put 10 a (put 3 b 0xE0000001)))
  | .poolack d a => some (put 17 d (put 10 a 0xE0000002))
  | .poolq d a => some (put 17 d (put 10 a 0xE0000003))
  | .cpy d a b => some (put 17 d (put 10 a (put 3 b 0xE8000000)))
  | .cpy2d d a b => some (put 17 d (put 10 a (put 3 b 0xE8000001)))
  | .cpwait d => some (put 17 d 0xE8000002)
  | .rld d a b => some (put 17 d (put 10 a (put 3 b 0xE9000000)))
  | .rst d a b => some (put 17 d (put 10 a (put 3 b 0xE9000001)))
  | .trap i => some (put 0 i 0xF0000000)
  | .tret => some 0xF1000000
  | .csrr d c => some (put 17 d (put 0 c 0xF2000000))
  | .csrw a c => some (put 10 a (put 0 c 0xF3000000))
  | .csrs a c => some (put 10 a (put 0 c 0xF4000000))
  | .csrc a c => some (put 10 a (put 0 c 0xF5000000))
  | .ctxsv a n => some (put 10 a (put 0 n 0xF6000000))
  | .ctxrs a n => some (put 10 a (put 0 n 0xF7000000))
  | .fencei => some 0xF8000000
  | .bkpt => some 0xF9000000
  | .halt => some 0xFA000000
  | .tlbinv a b => some (put 10 a (put 3 b 0xFB000000))
  | .probe d a => some (put 17 d (put 10 a 0xFB000001))
  | .frame l i d a b => some (put 20 l (put 12 i (put 8 d (put 4 a (put 0 b 0xFC000000)))))
  | .ximm h => some (put 0 h 0xFE000000)
  | .numberGrant _ => none
  | .screeDraw _ => none
  | .rerunTake _ => none
  | .parkedThreadReturn _ => none
  | .residentPlacement _ _ => none
  | .inlineChildStart _ => none
  | .threadEnd _ => none
  | .joinComplete _ _ => none
  | .ridgeReply _ => none
  | .sfuResult _ _ => none
  | .loadReply _ => none
  | .storePerform _ _ => none
  | .redApply _ _ => none
  | .claimGrant _ => none
  | .claimRelease _ => none
  | .remoteAccessPerform _ _ _ => none
  | .matrixOpStart _ _ _ => none
  | .matrixOpComplete _ _ _ => none
  | .nzscanComplete _ => none
  | .copyCommandComplete _ _ _ => none
  | .gatherCommandComplete _ _ _ => none
  | .engineFaultStop _ _ _ _ => none
  | .aretePutReply _ => none
  | .areteMergeComplete _ => none
  | .cairnOperationComplete _ => none
  | .gateOperationComplete _ => none
  | .waitRecheck _ => none
  | .waitWlimExpiry _ => none
  | .feWaitExpiry _ => none
  | .barWlimExpiry _ => none
  | .remoteWaitExpiry _ => none
  | .gangParkExpiry _ => none
  | .gangRecordStallExpiry _ => none
  | .governorSample _ _ _ => none
  | .pageFaultService _ _ _ _ => none
  | .pageMoveAccept _ _ _ _ _ => none
  | .migrationInvalAck _ => none
  | .migrationDrainDone _ => none
  | .migrationCommit _ => none
  | .migrationAbort _ => none
  | .contextSaveComplete _ _ => none
  | .correctedError _ _ _ => none
  | .uncorrectableError _ _ _ _ => none
  | .dieResetComplete _ _ => none
  | .deviceReset _ => none
  | .qdoorWrite _ _ _ => none
  | .frheadWrite _ _ => none
  | .bar0RegisterWrite _ _ _ => none
  | .faultRingWrite _ => none
  | .launch _ _ => none
  | .copy _ _ => none
  | .copyPacketDone _ _ _ => none
  | .signalSet _ _ => none
  | .signalWait _ _ => none
  | .signalWaitSatisfied _ _ _ => none
  | .fence _ _ => none
  | .complete _ _ => none
  | .packetFetchFault _ _ => none
  | .qenable => none
  | .qdisable => none
  | .qreset => none
  | .qack => none
  | .fring => none
  | .fanswer => none
  | .extent => none
  | .kill => none
  | .ctxsave => none
  | .ctxrestore => none
  | .setbudget => none
  | .setnode => none
  | .rootset => none
  | .inval => none
  | .errcfg => none
  | .occup => none
  | .update => none
  | .attest => none
  | .cert => none
  | .extend => none
  | .sleep => none
  | .wake => none
  | .linkup => none
  | .unknownCommand => none
  | .heartbeat => none
  | .failover => none
  | .journalApply => none
  | .updateVerified _ => none
  | .stateTableImport _ _ => none
  | .journalSynced => none
  | .quiescenceTakeover => none
  | .quiesceTimeout => none
  | .dataFlit _ _ _ => none
  | .nakFlit _ _ => none
  | .idleFlit _ _ => none
  | .replayTimeout _ => none
  | .replayLimit _ => none
  | .linkTrainingDone _ _ => none
  | .linkRequest _ _ _ _ _ _ _ _ => none
  | .hostWrite _ _ => none
  | .hostRead _ _ _ => none
  | .powerOn _ => none
  | .idleTimeout => none
  | .d3hotEntry => none
  | .d0Return => none
  | .powerOff => none
  | .cairnAtomicStep _ => none
  | .areteCommandReply _ => none
  | .sfuRequestAccept _ _ => none
  | .firmwareComplexFailure _ => none
  | .saddleFirmwareRecovery _ => none

/-- The bytes of an instruction in memory (R6, R25). -/
def encodeBytes (i : Instr) : Option (List Byte) := (encode i).map (leBytes 4)

/-- The instruction the decoder gives for the word of `i`: itself, but for the second of two rows with one encoding. -/
def Instr.canon (i : Instr) : Instr :=
  match i with
  | .mgendAbandon d a b => .mgendEnd d a b
  | .ctreeUnbind d a b => .ctreeBind d a b
  | .cbackCancel d a b => .cbackBackup d a b
  | i => i

end Sys2Proof
end

