-- ==== Sys2Proof/Machine/Tab.lean ====
section
/-! DEFINITION. Tables: lists of (key, value) pairs, at most one pair a key when built by `Tab.set`. -/

namespace Sys2Proof.Machine

/-- A table from keys to values, as plain data. -/
abbrev Tab (κ α : Type) := List (κ × α)

/-- The entry of a key, if it has one. -/
def tabFind {κ α : Type} [DecidableEq κ] (t : Tab κ α) (k : κ) : Option α :=
  match t with
  | [] => none
  | (k', v) :: r => if k' = k then some v else tabFind r k

/-- The value of a key, `d` where the table has none. -/
def tabGet {κ α : Type} [DecidableEq κ] (t : Tab κ α) (k : κ) (d : α) : α :=
  match t with
  | [] => d
  | (k', v) :: r => if k' = k then v else tabGet r k d

/-- The table with a key's value replaced, or added at the end. -/
def tabSet {κ α : Type} [DecidableEq κ] (t : Tab κ α) (k : κ) (v : α) : Tab κ α :=
  match t with
  | [] => [(k, v)]
  | (k', v') :: r => if k' = k then (k, v) :: r else (k', v') :: tabSet r k v

/-- The table without a key. -/
def tabDel {κ α : Type} [DecidableEq κ] (t : Tab κ α) (k : κ) : Tab κ α := t.filter (fun p => decide (p.1 ≠ k))

/-- Replaces the entry at a position. -/
def listSet {α : Type} : List α → Nat → α → List α
  | [], _, _ => []
  | _ :: r, 0, v => v :: r
  | x :: r, n + 1, v => x :: listSet r n v

/-- Removes the entry at a position. -/
def listDel {α : Type} : List α → Nat → List α
  | [], _ => []
  | _ :: r, 0 => r
  | x :: r, n + 1 => x :: listDel r n

end Sys2Proof.Machine
end

