-- ==== Sys2Proof/Machine/State.lean ====
section
/-! DEFINITION. The state of the package: every register, memory, queue and status the spec names, as plain data, and
the state after reset. -/

namespace Sys2Proof.Machine

/-- Why a step stops the machine. -/
inductive Fault where
  /-- The agent whose turn it is is no agent of the package (a die number of 4 or more, and so on, R11, R13); raised by
  `step`; safe: no run of the hardware has such an agent. -/
  | noSuchAgent
  deriving DecidableEq, Repr

/-- Why an instruction has no meaning. -/
inductive Refusal where
  /-- The instruction is not modelled; raised by `exec`'s own arms; safe: nothing is claimed of it. -/
  | notModelled (mnemonic : String)
  deriving DecidableEq, Repr

/-- A trap to be taken: its cause code and its TVAL (R356). -/
structure Trap where
  cause : Nat
  tval : Word
  deriving DecidableEq, Repr

/-- How the instruction in execution stands in memory: one word; the second word of a pair under an extension prefix
(R38); the second word of a GANG pair (R149); a captured word of a repeat frame (R40). -/
inductive Mode where
  | plain
  | prefixed
  | ganged
  | captured (len iter : Nat)
  deriving DecidableEq, Repr

/-- What moves with a thread: the registers and CSRs of a thread record (R369), or of a master. -/
structure Ctx where
  pc : Word
  regs : Tab Nat Word
  preds : BitVec 8
  taint : List Nat
  poison : List Nat
  fcsr : Word
  srseed : Word
  wlim : Word
  tvec : Word
  tcause : Word
  tval : Word
  tpc : Word
  ksh : Tab Nat Word
  ring : Word
  gangid : Word
  frm : Word
  inFrame : Bool
  wake : Bool
  cpErr : Nat
  tid : Word
  tcount : Word
  spwid : Word
  parent : Word
  nlevel : Word
  instret : Word
  window : Nat
  side : Bool
  deriving DecidableEq, Repr

/-- A context with every register at its reset value. -/
def Ctx.blank : Ctx :=
  { pc := 0, regs := [], preds := 1, taint := [], poison := [], fcsr := 0, srseed := 0, wlim := 0, tvec := 0, tcause := 0,
    tval := 0, tpc := 0, ksh := [], ring := 0, gangid := 0, frm := 0, inFrame := false, wake := true, cpErr := 0,
    tid := 0, tcount := 0, spwid := 0, parent := 0, nlevel := 0, instret := 0, window := 96, side := false }

/-- A load of 08_memory_instr.md, as its request stands while the reply is outstanding (R221): width in bytes, signed or
not, the destination field, whether it sets taint, whether it loads a vector (R222 to R224). -/
structure LoadReq where
  ea : Word
  size : Nat
  signed : Bool
  d : Nat
  taint : Bool
  vector : Bool
  deriving DecidableEq, Repr

/-- Where a line is homed (R212, R237, R340): a die of the package; the host's memory, behind die 0; or beyond a Traverse link. -/
inductive Home where
  | die (d : Nat)
  | host
  | traverse (link : Nat)
  deriving DecidableEq, Repr

/-- The source of a request that crosses a Saddle or Traverse link and writes memory (R238): the request queue of the die's
link port, and its sequence number. -/
structure LinkSrc where
  die : Nat
  queue : Nat
  seq : Nat
  deriving DecidableEq, Repr

/-- A returning atomic (R232): function code (0 SWAP to 6 MAX, 7 MINU, 8 MAXU, 9 CAS), width in bits, destination field,
operand, expected value of a CAS, the address register's value; its bytes as translated at issue, the homes of their lines, its
source where it crosses a link (R238). -/
structure AmoReq where
  fn : Nat
  w : Nat
  d : Nat
  y : Word
  expect : Word
  ea : Word
  keys : List Nat
  homes : List Home
  src : Option LinkSrc
  deriving DecidableEq, Repr

/-- A granule (R229): a word of global memory by its physical key, or a word of a spur's SCR role. -/
inductive Granule where
  | mem (key : Nat)
  | scr (die spur off : Nat)
  deriving DecidableEq, Repr

/-- A full-empty operation (R230): 0 LDF, 1 LDFE, 2 STF, 3 STO, 4 FEST; `src` is its source where it writes and crosses a link
(R238). -/
structure FeReq where
  op : Nat
  g : Granule
  d : Nat
  y : Word
  tval : Word
  src : Option LinkSrc
  deriving DecidableEq, Repr

/-- A remote scratch access (R245). -/
structure RemoteReq where
  load : Bool
  fe : Bool
  keep : Bool
  size : Nat
  die : Nat
  spur : Nat
  off : Nat
  d : Nat
  data : Word
  tval : Word
  deriving DecidableEq, Repr

/-- A WAIT (R313). -/
structure WaitReq where
  cond : Nat
  ea : Word
  y : Word
  d : Nat
  deriving DecidableEq, Repr

/-- The operations of the scan, of Arete, of the gate unit and of Cairn that their issuer waits for (R168 to R191, R252 to
R261). -/
inductive UnitOp where
  | nzscan
  | mgopen
  | mgarea
  | mgput
  | mgend
  | mgfin
  | mgstat
  | gtopk
  | ghist
  | gperm
  | ctree
  | cdesc
  | cexp
  | cback
  | cread
  | creuse
  deriving DecidableEq, Repr

/-- Such an operation as issued: its number among engine commands (R208), the destination field, the operand values from
group a and then group b, the bytes read at issue (R173, R178, R257, R259), the page it waits for (R366), and, of a unit that has
stopped and still has its report to make, the cause and the address (R373). -/
structure UnitReq where
  op : UnitOp
  id : Nat
  d : Nat
  xs : List Word
  bytes : List Byte
  page : Option Nat
  dead : Option (Nat × Nat)
  deriving DecidableEq, Repr

/-- What an agent waits for (R308, R314); `again` waits for nothing: the instruction issues again, its limit still counted from its
first issue. -/
inductive Wait where
  | none
  | load (r : LoadReq)
  | claim (r : AmoReq)
  | granule (r : FeReq)
  | remote (r : RemoteReq)
  | page (va : Nat)
  | mem (r : WaitReq)
  | bar (id : Nat)
  | join (d : Nat)
  | room
  | ended
  | sfu
  | unit (r : UnitReq)
  | gang (id : Nat)
  | gangRoom (id : Nat) (spurs : List Nat)
  | halt
  | save (core : Nat)
  | ack (d seq : Nat)
  | again
  deriving DecidableEq, Repr

/-- What an outstanding store or reduction does at its home (R221, R235). -/
inductive PendKind where
  | store (data : List Byte)
  | red (fn w : Nat) (y : Word)
  deriving DecidableEq, Repr

/-- An access an agent has issued that is not yet performed: its bytes by physical key, its effective address, the homes of
its lines, whether a page of it has the attribute STREAM (R206), how many inline parents its issuer then had (R279), its source
where it crosses a link (R238), its place in the queue of a claimed word (R233). -/
structure Pend where
  id : Nat
  ea : Word
  keys : List Nat
  homes : List Home
  kind : PendKind
  stream : Bool
  depth : Nat
  src : Option LinkSrc
  queued : Bool
  deriving DecidableEq, Repr

/-- An item of a thread's reduction value (R290): a JRED operand, or the tree of a descriptor it spawned. -/
inductive JItem where
  | val (slot op : Nat) (v : Word)
  | nest (tag : Nat)
  deriving DecidableEq, Repr

/-- A nested descriptor (R276, R278): `tag` names its tree (R290), `vis` is its tag in SPWID.DESC (R268); `next` is the lowest
undrawn number; `ptag` and `ptid` name the spawning thread, `anc` its ancestor at level 0. -/
structure Desc where
  tag : Nat
  vis : Nat
  core : Nat
  entry : Nat
  window : Nat
  count : Nat
  next : Nat
  prio : Nat
  args : List Word
  fcsr : Word
  srseed : Word
  tvec : Word
  wlim : Word
  level : Nat
  ptag : Nat
  ptid : Nat
  anc : Nat
  deriving DecidableEq, Repr

/-- A thread's context set aside while its slot runs a child inline (R279), with the place of its record in the dynamic region
(R371), the Ridge results still on their way to its registers (R287), its deferred traps (R358), and the numbers still to run; `seen` is
the slot's shrink notice as the child found it: SEQ, whether its member had acknowledged, whether it had been woken (R324). -/
structure Frame where
  record : Nat
  ctx : Ctx
  items : List JItem
  ridge : List (Nat × Word)
  dtraps : List Trap
  desc : Desc
  tag : Nat
  anc : Nat
  rest : List Desc
  again : Bool
  seen : Nat × Bool × Bool
  deriving DecidableEq, Repr

/-- What the join detector keeps of a running thread for a re-run (R380). -/
structure Start where
  ctx : Ctx
  tag : Nat
  anc : Nat
  deriving DecidableEq, Repr

/-- An agent that executes instructions: a master core, a slot or a service core. `fenceT` is the number of accesses issued
before its last FENCE.T (R198), `since` the time on its own clock of its last issue (R312), `dtraps` are its deferred traps, the
oldest first (R358), `ahead` the instruction words it has fetched but not executed (R363), each with its physical key; `unitPage` is
the page that the unit of a withdrawn instruction waited for, and whether it has been refused since (R366). -/
structure Agent where
  live : Bool
  ctx : Ctx
  core : Nat
  resident : Bool
  tag : Nat
  anc : Nat
  frames : List Frame
  start : Option Start
  pend : List Pend
  nextPend : Nat
  fenceT : Nat
  ridge : List (Nat × Word)
  wait : Wait
  wmode : Mode
  since : Nat
  refused : Option Nat
  dtraps : List Trap
  items : List JItem
  ahead : List (Nat × Nat)
  unitPage : Option (Nat × Bool)
  deriving DecidableEq, Repr

/-- An agent that runs nothing. -/
def Agent.blank : Agent :=
  { live := false, ctx := Ctx.blank, core := 0, resident := false, tag := 0, anc := 0, frames := [], start := none,
    pend := [], nextPend := 0, fenceT := 0, ridge := [], wait := .none, wmode := .plain, since := 0, refused := none, dtraps := [],
    items := [], ahead := [], unitPage := none }

/-- A thread set aside in the run list (R310): the place of its record in the dynamic region (R371), the agent, the spur it parked
from, whether it can run. -/
structure Parked where
  record : Nat
  agent : Agent
  spur : Nat
  runnable : Bool
  asid : Nat
  page : Nat
  deriving DecidableEq, Repr

/-- What SPAWN or SPAWNR records (R271): the body, the count and next number, the snapshot, the quota list. -/
structure SpawnRec where
  entry : Nat
  window : Nat
  count : Nat
  next : Nat
  gsnap : List Word
  tvec : Word
  wlim : Word
  fcsr : Word
  srseed : Word
  quota : List Nat
  deriving DecidableEq, Repr

/-- A named barrier (R292): its count, the count set for the next phase, the arrivals of the phase. -/
structure Bar where
  c : Nat
  cNext : Option Nat
  arrived : List AgentId
  deriving DecidableEq, Repr

/-- What an ended thread leaves for JOIN (R83, R290). -/
structure Contrib where
  tag : Nat
  tid : Nat
  items : List JItem
  flags : Flags
  deriving DecidableEq, Repr

/-- An end of a program in progress (R364): what the exit record says, the page its record waits for, whether it is given up. -/
structure EndRec where
  reason : Nat
  cause : Nat
  tval : Word
  tpc : Word
  tid : Nat
  spur : Nat
  page : Option Nat
  skip : Bool
  deriving DecidableEq, Repr

/-- A pre-emption asked for and not yet complete (R365, R367): the context area, and who asked (R389). -/
structure SaveReq where
  area : Nat
  page : Option Nat
  deriving DecidableEq, Repr

/-- A program on a master core: its launch parameters (R299), quota (R302), spawn (R267 to R293), run lists, and what the
governor keeps of it (R306): the zones it is held in, its held intervals in the window, whether it has requested in the window, and
been held in the interval while it requested. -/
structure Prog where
  running : Bool
  asid : Nat
  prio : Nat
  eclass : Nat
  weight : Nat
  qmin : Nat
  qmax : Nat
  banks : List Nat
  ctx : Nat
  qdie : Nat
  queue : Nat
  ticket : Nat
  quota : List Nat
  sstate : Nat
  rcode : Nat
  jval : Nat
  lostix : Nat
  lostov : Bool
  lost : List Nat
  jres : Tab Nat Word
  spflags : Flags
  seq : Nat
  ridge : Tab Nat Word
  spawn : SpawnRec
  u : Nat
  d : Nat
  l : Nat
  e : Nat
  liveCount : Nat
  bars : Tab Nat Bar
  contribs : List Contrib
  nextTag : Nat
  lostNow : List Nat
  runList : List Parked
  rerun : List Start
  held : Option SpawnRec
  heldZones : List Nat
  winHeld : Nat
  winAsked : Bool
  heldNow : Bool
  ending : Option EndRec
  saving : Option SaveReq
  deriving DecidableEq, Repr

/-- No spawn. -/
def SpawnRec.blank : SpawnRec :=
  { entry := 0, window := 0, count := 0, next := 0, gsnap := [], tvec := 0, wlim := 0, fcsr := 0, srseed := 0, quota := [] }

/-- A master core that runs no program. -/
def Prog.blank : Prog :=
  { running := false, asid := 0, prio := 0, eclass := 0, weight := 0, qmin := 0, qmax := 0, banks := [], ctx := 0,
    qdie := 0, queue := 0, ticket := 0, quota := [], sstate := 0, rcode := 0, jval := 0, lostix := 0, lostov := false, lost := [],
    jres := [], spflags := 0, seq := 0, ridge := [], spawn := SpawnRec.blank, u := 0, d := 0, l := 0, e := 0,
    liveCount := 0, bars := [], contribs := [], nextTag := 0, lostNow := [], runList := [], rerun := [], held := none,
    heldZones := [], winHeld := 0, winAsked := false, heldNow := false, ending := none, saving := none }

/-- The entry of a claimed word's queue (R233): an agent's atomic, full-empty step, or outstanding store or reduction. -/
inductive ClaimEntry where
  | amo (who : AgentId)
  | fe (who : AgentId)
  | op (who : AgentId) (id : Nat)
  deriving DecidableEq, Repr

/-- A cached leaf (R343): whose TLB (the spur `some`, or the die), address space, page and page size, entry, level. -/
structure TlbEntry where
  die : Nat
  spur : Option Nat
  asid : Nat
  page : Nat
  size : Nat
  entry : Nat
  deriving DecidableEq, Repr

/-- The roles of a bank (R315). -/
inductive Role where
  | free
  | reg
  | scr
  | rdc
  | til
  | acc
  deriving DecidableEq, Repr

/-- A window of a thread in the REG role (R319): whose, its base and its length in units of 64 bytes. -/
structure Window where
  who : AgentId
  base : Nat
  len : Nat
  deriving DecidableEq, Repr

/-- A claim of pool bytes by an engine (R172): the role, first byte and length, and the command that holds it. -/
structure PoolClaim where
  role : Role
  first : Nat
  len : Nat
  unit : Nat
  deriving DecidableEq, Repr

/-- A command of a copy or gather engine (R170, R240, R241): its issuer and thread, the spaces (0 global, 1 SCR, 2 TIL),
its rows, its counter, and of a gather the index list. `fence` is how many accesses its issuer had issued before the last
FENCE.T before it (R209). `data` says that every destination byte is written, `failed` that the command stopped and only its
counter is left to mark (R172, R242), `wait` the page it waits for, `refused` a page refused to it (R366), `log` the cause and address
that are still to go to the fault log (R373), `dead` that its counter cannot be written (R434). -/
structure EngCmd where
  id : Nat
  gather : Bool
  who : AgentId
  core : Nat
  tag : Nat
  tid : Nat
  dsp : Nat
  ssp : Nat
  dst : Nat
  src : Nat
  len : Nat
  rows : Nat
  dstr : Int
  sstr : Int
  ctr : Nat
  lscr : Bool
  list : Nat
  iw : Nat
  nidx : Nat
  fence : Nat
  data : Bool
  failed : Bool
  wait : Option Nat
  refused : Option Nat
  log : Option (Nat × Nat)
  dead : Bool
  deriving DecidableEq, Repr

/-- A member of a scratch shrink notice (R325): the thread by its descriptor's tree and number. -/
structure Member where
  tag : Nat
  tid : Nat
  acked : Bool
  woken : Bool
  gone : Bool
  deriving DecidableEq, Repr

/-- A spur's scratch shrink notice (R324, R325), the current one or the last. -/
structure Notice where
  pending : Bool
  seq : Nat
  target : Nat
  members : List Member
  deriving DecidableEq, Repr

/-- No notice yet. -/
def Notice.blank : Notice := { pending := false, seq := 0, target := 0, members := [] }

/-- The states of a gang record that exists (R151); a started one has `begun` when its operation has left the queue of its spurs'
arrays (R150, R305). -/
inductive GangState where
  | opened
  | broken
  | started
  deriving DecidableEq, Repr

/-- A member parked at a gang record, with what R150 makes the members agree in. -/
structure GangMember where
  who : AgentId
  word : Nat
  win : Word
  ksa : Word
  ksb : Word
  ftz : Bool
  ring : Word
  deriving DecidableEq, Repr

/-- A gang record (R149 to R151): its identifier, the spurs it spans, its parked members, the accounted cores of a broken
one, and of a started one the flags and the poison its operation met. -/
structure Gang where
  id : Nat
  spurs : List Nat
  state : GangState
  members : List GangMember
  gone : List (Nat × Nat)
  begun : Bool
  claim : Nat
  fl : Flags
  bad : Option Word
  deriving DecidableEq, Repr

/-- A request before a spur's SFU (R311), or its return token (R318): whose, its destination field, whether that is a vector, its
result and flags, and which of the token's two 8-byte words is poisoned (R374). -/
structure SfuReq where
  who : AgentId
  d : Nat
  vector : Bool
  val : BitVec 128
  fl : Flags
  bad : List Nat
  deriving DecidableEq, Repr

/-- A page fault's waiter, for the order of held accesses (R215): a master, a thread by its program's core and its number, an
engine command, the command processor for a host queue, the end of a program or its save. -/
inductive Waiter where
  | master (die core : Nat)
  | thread (die core tag tid : Nat)
  | engine (id : Nat)
  | queue (die q : Nat)
  | ending (die core : Nat)
  | saving (die core : Nat)
  deriving DecidableEq, Repr

/-- A line of a spur's read-data cache: its line number, its bytes, and which of its eight words are poisoned (R374). -/
structure RdcLine where
  line : Nat
  bytes : List Byte
  bad : List Nat
  deriving DecidableEq, Repr

/-- A spur's shared state. `heldOut` are the HELD banks (R315, R334); `badBanks` are banks whose lasting fault waits for a
spawn boundary (R334), `worn` says the same of its control arrays (R378). The SFU's queue `sfu` and accepted requests `sfuRun`
stand in age order (R311); `tokens` are the token cells of R318 that hold a result. `ibuf` is the instruction buffer (R363):
words by their physical keys. -/
structure Spur where
  owner : Option Nat
  fenced : Bool
  badBanks : List Nat
  worn : Bool
  roles : Tab Nat Role
  places : Tab Nat Nat
  fencedBanks : List Nat
  heldOut : List Nat
  pool : List Host.Cell
  scrFull : List Nat
  poisonWords : List Nat
  written : List Nat
  hwm : Tab Nat Nat
  windows : List Window
  claims : List PoolClaim
  rdc : List RdcLine
  sfu : List SfuReq
  sfuRun : List SfuReq
  tokens : Tab Nat SfuReq
  copyQ : List EngCmd
  gathQ : List EngCmd
  notice : Notice
  ibuf : List (Nat × Nat)
  deriving DecidableEq, Repr

/-- A spur as reset leaves it: no program, every bank FREE. -/
def Spur.blank : Spur :=
  { owner := none, fenced := false, badBanks := [], worn := false, roles := [], places := [], fencedBanks := [],
    heldOut := [], pool := [], scrFull := [],
    poisonWords := [], written := [], hwm := [], windows := [], claims := [], rdc := [], sfu := [],
    sfuRun := [], tokens := [], copyQ := [], gathQ := [], notice := Notice.blank, ibuf := [] }

/-- A page fault before the fault service of a die (R366): its FAULTID, the page and log2 of its size (that of the moving page
for a held access), the first access (its kind as ACCESS of R390) and its program's core, whether it is a held access (R215)
and of whom, whether an engine's destination lies there (R208), whether the host has been asked. -/
structure FaultRec where
  id : Nat
  asid : Nat
  page : Nat
  va : Nat
  acc : Nat
  core : Nat
  size : Nat
  held : Bool
  dest : Bool
  waiters : List Waiter
  sent : Bool
  deriving DecidableEq, Repr

/-- A triple that a session holds, with its key (R177). -/
structure Entry where
  row : Nat
  col : Nat
  stream : Nat
  pos : Nat
  val : Word
  deriving DecidableEq, Repr

/-- The states of an Arete session that is open (R176). -/
inductive SessState where
  | opened
  | ended
  | merging
  deriving DecidableEq, Repr

/-- The merge of a session: its number among engine commands (R208), the thread that executes the MGFIN (none: the master), its
replacement descriptor's bytes. A pre-empted merge keeps it until the MGFIN is executed again (R187). -/
structure MergeRun where
  id : Nat
  thread : Option (Nat × Nat)
  bytes : List Byte
  deriving DecidableEq, Repr

/-- An open Arete session of a die (R173 to R185): the program's core and its number for it, the descriptor's fields, the
spill extents and how many runs and bytes are written there, and what it holds; `bad` says that software has stored to the spill
area (R179). -/
structure Session where
  core : Nat
  num : Nat
  rowptr : Nat
  colidx : Nat
  values : Nat
  capnnz : Nat
  extents : List (Nat × Nat)
  nrows : Nat
  ncols : Nat
  cap : Nat
  efmt : Nat
  op : Nat
  trapsf : Bool
  state : SessState
  pos : Tab Nat Nat
  onchip : Nat
  runs : Nat
  spilt : Nat
  bad : Bool
  accepted : Nat
  flags : Flags
  entries : List Entry
  merge : Option MergeRun
  deriving DecidableEq, Repr

/-- A Cairn binding of a die (R252): the program's core and its tree number, the region, and the cached header fields;
`epoch` the header's EPOCH, `bad` says that something else has written a byte that only Cairn may write (R250). -/
structure Tree where
  core : Nat
  num : Nat
  region : Nat
  cap : Nat
  cpuct : Nat
  fpu : Nat
  vlw : Nat
  alt : Bool
  tft : Bool
  epoch : Nat
  bad : Bool
  deriving DecidableEq, Repr

/-- A Cairn instruction between its atomic steps (R255 to R262): its issuer and tree, how far it is, the current node, the
nodes recorded, the parents of a compaction's nodes, the claim; then its code, VALUE, flags, the words read, and whether
its results are unspecified. -/
structure CairnOp where
  who : AgentId
  tree : Nat
  phase : Nat
  x : Nat
  path : List Nat
  par : List Nat
  epoch : Nat
  claim : Bool
  done : Bool
  code : Nat
  value : Nat
  fl : Flags
  out : List Word
  junk : Bool
  deriving DecidableEq, Repr

/-- A fault ring (R390): its binding, its counters, and the entries still to be written, each as its 256 bits. -/
structure Ring where
  bound : Bool
  base : Nat
  lsize : Nat
  head : Nat
  tail : Nat
  out : List Nat
  deriving DecidableEq, Repr

/-- A ring not bound. -/
def Ring.blank : Ring := { bound := false, base := 0, lsize := 0, head := 0, tail := 0, out := [] }

/-- A request for an extent of a program's dynamic region (R371), by its FAULTID, with the thread, spur and PC it comes from. -/
structure ExtentReq where
  id : Nat
  core : Nat
  tid : Nat
  spur : Nat
  pc : Word
  deriving DecidableEq, Repr

/-- Whether a die is in service (R376, R399). -/
inductive DieState where
  | up
  | lost
  | out
  deriving DecidableEq, Repr

/-- An error counted under R377: the unit's class and number, the time in governor samples of the die since power-on. -/
structure ErrorEvent where
  unit : Nat
  index : Nat
  time : Nat
  deriving DecidableEq, Repr

/-- A die's shared state. `walkLog` are the malformed page-table entries the fault service has logged for the driver (R341), each by an
address space and an address whose walk met it; `era` is how many governor samples the die took before its last reset (R304, R377),
`goneWeight` the WEIGHT of the programs that requested in the window and no longer run here (R306). -/
structure Die where
  state : DieState
  ring : Ring
  extents : List ExtentReq
  events : List ErrorEvent
  notices : List ErrorEvent
  walkLog : List (Nat × Nat)
  cycle : Nat
  mcycle : Nat
  level : Nat
  budget : Nat
  newBudget : Nat
  power : Nat
  hottest : Nat
  sample : Nat
  era : Nat
  goneWeight : Nat
  faults : List FaultRec
  nextFault : Nat
  errLimit : Nat
  errWindow : Nat
  scree : List Desc
  gangs : List Gang
  arete : List Session
  trees : List Tree
  cairn : List CairnOp
  gateQ : List AgentId
  deriving DecidableEq, Repr

/-- A die after reset (R304, R377). -/
def Die.blank : Die :=
  { state := .up, ring := Ring.blank, extents := [], events := [], notices := [], walkLog := [], cycle := 0, mcycle := 0,
    level := 15, budget := 1050, newBudget := 1050, power := 0, hottest := 0, sample := 0, era := 0, goneWeight := 0,
    faults := [], nextFault := 1, errLimit := 4, errWindow := 60000, scree := [], gangs := [],
    arete := [], trees := [], cairn := [], gateQ := [] }

/-- The states of a host queue (R296). -/
inductive QState where
  | disabled
  | ready
  | blocked
  | fetchFault
  | error
  deriving DecidableEq, Repr

/-- A packet of a host queue that is started and not complete (R297, R298): its number among the packets the queue has ever
started, its queue's address space, its header, `x`, `y` and `z` (DST, SRC, LEN of a COPY; ADDR, VALUE, COND of a SIGNAL_WAIT;
VECTOR of a COMPLETE), the bytes a COPY has moved, whether its work is done (its signal is not), whether it failed and so
never completes, the page it waits for, the page refused to it. -/
structure Packet where
  num : Nat
  asid : Nat
  kind : Nat
  scope : Nat
  add : Bool
  sigAddr : Nat
  sigVal : Nat
  x : Nat
  y : Nat
  z : Nat
  pos : Nat
  done : Bool
  failed : Bool
  page : Option Nat
  refused : Option Nat
  deriving DecidableEq, Repr

/-- A host queue (R295, R296): `next` numbers its packets, whatever HEAD is set to; `served` is its packets started in the round (R301);
the page its fetch waits for; the head packet
once it is fetched, as its 512 bits (R391). -/
structure Queue where
  state : QState
  estat : Nat
  base : Nat
  lsize : Nat
  loc : Nat
  prio : Nat
  weight : Nat
  asid : Nat
  head : Nat
  tail : Nat
  next : Nat
  served : Nat
  started : List Packet
  page : Option Nat
  refused : Option Nat
  held : Option Nat
  deriving DecidableEq, Repr

/-- A queue as reset leaves it (R295). -/
def Queue.blank : Queue :=
  { state := .disabled, estat := 0, base := 0, lsize := 0, loc := 0, prio := 0, weight := 1, asid := 0, head := 0, tail := 0
    next := 0, served := 0, started := [], page := none, refused := none, held := none }

/-- The mailbox (R387, R388): the request and response of 256 bytes, the request as submitted, the last tag submitted, MBDONE,
whether a request is outstanding, and whether firmware has accepted it and answers it later. -/
structure Mailbox where
  req : List Byte
  rsp : List Byte
  sub : List Byte
  tag : Nat
  done : Nat
  busy : Bool
  taken : Bool
  deriving DecidableEq, Repr

/-- The states of a link direction (R395). -/
inductive LinkState where
  | training
  | active
  | replay
  | retrain
  | down
  deriving DecidableEq, Repr

/-- A link (R393 to R398). Numbers 0 to 31 are the Traverse links; 32 to 43 the directions of the Saddle ports, from die f
to the t-th of its other dies at 32 + 3 f + t. `next` is the FSEQ of the next new flit, `buf` the replay buffer, the payloads of
the unacknowledged flits, oldest first, `expected` the receiver's E, `naks` the NAKs the receiver has sent. `lanes` bounds the
lanes that training has left (R396). On a Saddle direction `detour` holds what waits to be sent for a die before anything new, and
`via` the FSEQs of flits sent on it for a die beyond its end (R397). `naked` says that the receiver has sent the NAK for its E
(R394). -/
structure Link where
  state : LinkState
  width : Nat
  bad : List Nat
  lanes : Nat
  detour : List (Nat × List Byte)
  via : Tab Nat Nat
  next : Nat
  expected : Nat
  buf : List (List Byte)
  naks : List Nat
  naked : Bool
  resends : Nat
  retrains : List Nat
  trained : Bool
  deriving DecidableEq, Repr

/-- A link before training. -/
def Link.blank : Link :=
  { state := .down, width := 0, bad := [], lanes := 64, detour := [], via := [], next := 0, expected := 0, buf := [], naks := [], naked := false
    resends := 0, retrains := [], trained := false }

/-- The power states (R400), and a device stopped under the device row of R376. -/
inductive Power where
  | active
  | idle
  | sleep
  | off
  | stopped
  deriving DecidableEq, Repr

/-- A unit fenced for the life of the device (R24, R376, R378): class 1 a bank, 2 an HBM pseudo-channel, 3 a link lane, 4 a spur, 5 a
die. -/
structure Fence where
  unit : Nat
  die : Nat
  index : Nat
  deriving DecidableEq, Repr

/-- What is measured into a register (R350), and named in the measurement log: an image or table of the boot, the image of the n-th
update with its digest, a digest from the host, the fence list, a request of the driver's that firmware accepted as
configuration. -/
inductive Measure where
  | boot (n : Nat)
  | image (n : Nat) (d : BitVec 512)
  | given (d : BitVec 512)
  | fences (l : List Fence)
  | config (request : List Byte)
  deriving DecidableEq, Repr

/-- The states of a live update (R385); TAKEOVER is one step. -/
inductive UpdState where
  | idle
  | staged
  | imports
  | sync
  | quiesce
  deriving DecidableEq, Repr

/-- A firmware complex (R383): whether it works, its image (0 the boot image, else the number of an update's), the image before, the
journal entries it has applied, whether it failed its boot ROM's self-test and stays off (R399). -/
structure Complex where
  alive : Bool
  image : Nat
  prev : Nat
  applied : Nat
  off : Bool
  deriving DecidableEq, Repr

/-- A queue's descriptor and state in the firmware state table (R295, R296, R384). -/
structure QueueDesc where
  state : QState
  estat : Nat
  base : Nat
  lsize : Nat
  loc : Nat
  prio : Nat
  weight : Nat
  asid : Nat
  head : Nat
  tail : Nat
  deriving DecidableEq, Repr

/-- The body of the firmware state table (R384): queue descriptors, pending faults, the driver's pending request, the fault counters,
the fence list and the link states. -/
structure FwTable where
  queues : Tab (Nat × Nat) QueueDesc
  faults : Tab Nat (List FaultRec)
  request : Option (List Byte)
  counters : Tab Nat (List ErrorEvent)
  fences : List Fence
  links : Tab Nat LinkState
  deriving DecidableEq, Repr

/-- A journal entry (R383): an item of the table after its change. -/
inductive FwEntry where
  | queue (k : Nat × Nat) (q : QueueDesc)
  | faults (d : Nat) (l : List FaultRec)
  | request (r : Option (List Byte))
  | counters (d : Nat) (l : List ErrorEvent)
  | fences (l : List Fence)
  | link (l : Nat) (st : LinkState)
  deriving DecidableEq, Repr

/-- The firmware complexes (R383 to R386): which is active, missed heartbeats, the update with its image and that image's digest, the
header of the table last exported, the journal and the standby's table, the bring-up step, the measurement log (R350). -/
structure Firmware where
  aActive : Bool
  a : Complex
  b : Complex
  missed : Nat
  upd : UpdState
  image : Nat
  digest : BitVec 512
  header : Nat
  jseq : Nat
  journal : List FwEntry
  shadow : FwTable
  boot : Nat
  log : List (Nat × Measure)
  deriving DecidableEq, Repr

/-- The states of a page move (R214). -/
inductive MoveState where
  | fencing
  | draining
  | copying
  deriving DecidableEq, Repr

/-- A page move (R214): the die of the service, the page by its address space, address and size, its old frame, and the new
home and frame. -/
structure PageMove where
  die : Nat
  asid : Nat
  va : Nat
  size : Nat
  frame : Nat
  dest : Nat
  dframe : Nat
  state : MoveState
  deriving DecidableEq, Repr

/-- A saved program (R367 to R372): its context area by address space and address, its master and threads, its spurs in
ascending order, its descriptors, sessions and bindings; its image as written, by offsets in the area, its records in the dynamic
region by place and address (R371), and where the words of both are poisoned (R375); `win` is the die and the governor's window in
which it was saved (R306). -/
structure Saved where
  asid : Nat
  area : Nat
  win : Nat × Nat
  prog : Prog
  master : Agent
  spurs : List (Nat × Spur)
  threads : List (AgentId × Agent)
  scree : List Desc
  arete : List Session
  trees : List Tree
  image : List (Nat × List Byte)
  dyn : List (Nat × Nat × List Byte)
  bad : List Nat
  dynBad : List (Nat × Nat)
  deriving DecidableEq, Repr

/-- What the next step does, where the choice is not the agent's own (log 1): an agent issues (with its accesses left
outstanding when `defer`), an event of the part occurs, clocks advance, a TLB entry is dropped, a program's end concludes, a
held access is replayed (R215), an agent fetches the word after those it has fetched ahead, a word leaves a spur's instruction
buffer (R363), a queue's fetch from host memory ends in a PCIe completion error (R391), an entry of a home-lookup table is
invalidated (R212), writes leave the sliding window of a frame's counts (R213), firmware makes a bank HELD or not (R334) or
measures the inlet of the cold plate in °C (R401). -/
inductive Move where
  | issue (who : AgentId) (defer : Bool)
  | event (i : Instr)
  | tick (die n m : Nat)
  | dropTlb (k : Nat)
  | conclude (die core : Nat)
  | replay (w : Waiter)
  | fetchAhead (who : AgentId)
  | dropWord (die spur k : Nat)
  | pcieError (die queue : Nat)
  | dropLookup (k : Nat)
  | slide (frame die n : Nat)
  | holdBank (die spur bank : Nat) (on : Bool)
  | inlet (celsius : Nat)
  deriving DecidableEq, Repr

/-- The rotation of a thread core (R308): the slots of the set whose turn is still to come, ascending, and those that leave the next
set (R309). -/
structure Turn where
  left : List Nat
  skip : List Nat
  deriving DecidableEq, Repr

/-- The states of a line in a master L1 (R206). -/
inductive Mesi where
  | modified
  | exclusive
  | shared
  deriving DecidableEq, Repr

/-- A line a master L1 holds (R206). -/
structure L1Line where
  who : AgentId
  line : Nat
  mesi : Mesi
  deriving DecidableEq, Repr

/-- An entry of a die's home-lookup table (R212): a page by its address space, address and size, and the home it is sent to. -/
structure Lookup where
  die : Nat
  asid : Nat
  page : Nat
  size : Nat
  home : Nat
  deriving DecidableEq, Repr

/-- A line that an engine owns (R208): its number, the engine command, and the address space and virtual line through which the command
names it, translated when it took ownership. -/
structure OwnedLine where
  line : Nat
  id : Nat
  asid : Nat
  va : Nat
  deriving DecidableEq, Repr

/-- A forwarding pointer at a page's former home (R212). -/
structure Forward where
  asid : Nat
  page : Nat
  size : Nat
  old : Nat
  new : Nat
  deriving DecidableEq, Repr

/-- The state of the package. `homes` are the homes of pages (R14): a page by its first byte and size; `lookups` are the
home-lookup tables of the dies, `forwards` the forwarding pointers (R212); `applied` are the requests each home slice keeps for
each source (R238), `linkSeqs` the next sequence number of each request queue of a die; `retired` the frames retired (R378);
`ports` are the full-empty requests that met a full table at a spur's slot 31, in order of arrival (R246), `pcieErrors` the
uncorrectable errors reported on PCIe (R376). The last six
fields are the model's own (log 1, 2, 10). -/
structure State where
  agents : Tab AgentId Agent
  progs : Tab (Nat × Nat) Prog
  spurs : Tab (Nat × Nat) Spur
  turns : Tab (Nat × Nat × Nat) Turn
  dies : Tab Nat Die
  mem : List Host.Cell
  full : List Nat
  bad : List Nat
  roots : Tab Nat Nat
  tlb : List TlbEntry
  homes : List (Nat × Nat × Nat)
  lookups : List Lookup
  forwards : List Forward
  l1 : List L1Line
  owned : List OwnedLine
  claims : Tab Nat (List ClaimEntry)
  granted : List Nat
  feWait : List (Granule × AgentId)
  ports : List (Granule × AgentId)
  node : Nat
  writes : Tab (Nat × Nat) Nat
  moves : List PageMove
  saved : List Saved
  queues : Tab (Nat × Nat) Queue
  mailbox : Mailbox
  msix : List Nat
  hostData : List Byte
  fw : Firmware
  links : Tab Nat Link
  applied : Tab (Nat × Nat) (List (Nat × Nat))
  linkSeqs : Tab (Nat × Nat) Nat
  power : Power
  fences : List Fence
  retired : List Nat
  pcieErrors : Nat
  nextEng : Nat
  cur : AgentId
  mode : Mode
  defer : Bool
  iw : Nat
  agenda : List Move
  free : Nat
  deriving DecidableEq, Repr

/-- The mailbox after reset. -/
def Mailbox.blank : Mailbox :=
  { req := List.replicate 256 0, rsp := List.replicate 256 0, sub := [], tag := 0, done := 0, busy := false
    taken := false }

/-- A Saddle direction as bring-up trains it (R396, R399). -/
def Link.saddle : Link := { Link.blank with state := .active, width := 64, trained := true }

/-- The links at the end of bring-up: the Saddle ports trained, the Traverse links DOWN until the driver asks (R399). -/
def bootLinks : Tab Nat Link := (List.range 12).map fun i => (32 + i, Link.saddle)

/-- The state table of a package whose bring-up has ended without a fence (R384). -/
def FwTable.booted : FwTable :=
  { queues := [], faults := [], request := none, counters := [], fences := [], links := bootLinks.map fun x => (x.1, x.2.state) }

/-- The firmware at the end of bring-up: FC-A active (R383), step 7 reached (R399), the boot's images measured (R350). -/
def Firmware.booted : Firmware :=
  { aActive := true, a := ⟨true, 0, 0, 0, false⟩, b := ⟨true, 0, 0, 0, false⟩, missed := 0, upd := .idle, image := 0, digest := 0
    header := 0, jseq := 0, journal := [], shadow := FwTable.booted, boot := 7
    log := [(0, .boot 0), (1, .boot 1), (2, .boot 2), (3, .boot 3), (4, .fences [])] }

/-- The package after reset: at the end of bring-up, in IDLE (R399, R400). -/
def State.reset : State :=
  { agents := [], progs := [], spurs := [], turns := [], dies := [], mem := [], full := [], bad := [], roots := [], tlb := [],
    homes := [], lookups := [], forwards := [],
    l1 := [], owned := [], claims := [], granted := [], feWait := [], ports := [], node := 0x3FFFF, writes := [], moves := [], saved := []
    queues := [], mailbox := Mailbox.blank, msix := [], hostData := [], fw := Firmware.booted, links := bootLinks, applied := [], linkSeqs := []
    power := .idle, fences := [], retired := [], pcieErrors := 0, nextEng := 0,
    cur := .master 0 0, mode := .plain, defer := false, iw := 0,
    agenda := [], free := 0 }

end Sys2Proof.Machine
end

