-- ==== Sys2Proof/Machine/Pool.lean ====
section
/-! DEFINITION. The banks, roles and positions of a spur's pool (12_pool.md R315 to R317) and its occupancy (R332). -/

namespace Sys2Proof.Machine

/-- Bytes of a bank (R315). -/
def bankBytes : Nat := 32768

/-- The role of a bank. -/
def Spur.role (p : Spur) (b : Nat) : Role := tabGet p.roles b .free

/-- The banks of a role, in ascending bank number. -/
def Spur.banksOf (p : Spur) (r : Role) : List Nat := (List.range 32).filter fun b => p.role b = r

/-- The size of a role in bytes (R315). -/
def Spur.size (p : Spur) (r : Role) : Nat := (p.banksOf r).length * bankBytes

/-- Where a byte of a role lies in the pool (R315). -/
def Spur.key (p : Spur) (r : Role) (o : Nat) : Nat :=
  match (p.banksOf r).find? fun b => tabGet p.places b 0 = o / bankBytes with
  | some b => b * bankBytes + o % bankBytes
  | none => 32 * bankBytes + o

/-- The role code of R315 as POOLREF and POISON report it. -/
def Role.code : Role → Nat
  | .free => 0
  | .reg => 1
  | .scr => 2
  | .rdc => 3
  | .til => 4
  | .acc => 5

/-- Lines of 64 bytes of a role written since their zero-fill (R332). -/
def Spur.writtenLines (p : Spur) (r : Role) : Nat := (p.written.filter fun l => p.role (l * 64 / bankBytes) = r).length

/-- LIVE of a role in units of 64 bytes (R332). -/
def Spur.live (p : Spur) (r : Role) : Nat :=
  match r with
  | .free => 0
  | .reg => p.windows.foldl (fun t w => t + w.len) 0
  | .rdc => p.rdc.length
  | r => p.writtenLines r

/-- HWM rises with LIVE (R332): where LIVE is above what it was on the old spur. -/
def Spur.noteHwm (old p : Spur) : Spur :=
  let raise (t : Tab Nat Nat) (r : Role) : Tab Nat Nat :=
    if old.live r < p.live r ∧ tabGet t r.code 0 < p.live r then tabSet t r.code (p.live r) else t
  { p with hwm := [Role.reg, .scr, .rdc, .til, .acc].foldl raise p.hwm }

/-- A bank zero-filled: no byte, no poison, no line written (R317). -/
def Spur.zeroBank (p : Spur) (b : Nat) : Spur :=
  { p with
    pool := p.pool.filter fun c => c.1 / bankBytes ≠ b
    poisonWords := p.poisonWords.filter fun w => w * 8 / bankBytes ≠ b
    written := p.written.filter fun l => l * 64 / bankBytes ≠ b }

/-- A bank given to a role at a position, zero-filled, every granule of it EMPTY (R317). -/
def Spur.addBank (p : Spur) (r : Role) (b place : Nat) : Spur :=
  let q := p.zeroBank b
  { q with
    roles := tabSet q.roles b r
    places := tabSet q.places b place
    scrFull := if r = .scr then q.scrFull.filter fun w => w * 8 / bankBytes ≠ place else q.scrFull }

/-- A role cut to its positions below t: the other banks become FREE and lose their contents (R322). -/
def Spur.cutRole (p : Spur) (r : Role) (t : Nat) : Spur :=
  let bs := (p.banksOf r).filter fun b => decide (t ≤ tabGet p.places b 0)
  let q := bs.foldl (fun q b =>
    let q := q.zeroBank b
    { q with roles := tabDel q.roles b, places := tabDel q.places b }) p
  { q with
    scrFull := if r = .scr then q.scrFull.filter fun w => decide (w * 8 / bankBytes < t) else q.scrFull
    rdc := if r = .rdc then q.rdc.drop (q.rdc.length - t * bankBytes / 64) else q.rdc }

/-- An agent's window released (R320). -/
def Spur.unplace (p : Spur) (who : AgentId) : Spur := { p with windows := p.windows.filter fun w => w.who ≠ who }

end Sys2Proof.Machine
end

