-- ==== Sys2Proof/Machine/Access.lean ====
section
/-! DEFINITION. Named access to the parts of the state: agents, registers, bytes of memory and of pools, translation
(02_encoding.md R26 to R29, 07_ordering_rules.md R206 to R208, 13_translation.md R338 to R344). -/

namespace Sys2Proof.Machine

/-- Why an instruction does not complete in this step: a trap, a fault for the fault service (R366; its kind as ACCESS of
R390; `held` for an entry marked MIGRATING, R215), the wake trap of a shrink notice (R328), or a stall after which the
instruction issues again. -/
inductive Stop where
  | trap (t : Trap)
  | page (va acc : Nat) (held : Bool)
  | wake (tval : Word)
  | stall
  deriving DecidableEq, Repr

/-- A part of an instruction's effect: it changes the state and gives a value, or stops the instruction with none. -/
abbrev Act := StateT State (Except Stop)

/-- Cause codes of R356. -/
def cILLOP : Nat := 0x01
def cPRIV : Nat := 0x02
def cREGWIN : Nat := 0x03
def cALIGN : Nat := 0x04
def cPAGE : Nat := 0x05
def cPROT : Nat := 0x06
def cPOISON : Nat := 0x07
def cWLIMIT : Nat := 0x08
def cFPE : Nat := 0x09
def cSWTRAP : Nat := 0x0A
def cILLFMT : Nat := 0x0B
def cPOOLREF : Nat := 0x0C
def cTREEFULL : Nat := 0x0D
def cSPILLFULL : Nat := 0x0E
def cGANGBRK : Nat := 0x0F
def cNESTDEEP : Nat := 0x10
def cENGERR : Nat := 0x11
def cLINKERR : Nat := 0x12

/-- Stops with a trap. -/
def trap {α : Type} (cause : Nat) (tval : Word) : Act α := throw (.trap ⟨cause, tval⟩)

/-- Stops with a trap when `c`. -/
def trapIf (c : Bool) (cause : Nat) (tval : Word) : Act Unit := if c then trap cause tval else pure ()

/-- The die of an agent (R12). -/
def dieOf : AgentId → Nat
  | .master d _ => d
  | .slot d _ _ _ => d
  | .service d _ => d

/-- The spur of a thread slot; 0 for the others, as SPUR reads (R55). -/
def spurOf : AgentId → Nat
  | .slot _ p _ _ => p
  | _ => 0

/-- Whether an agent is a thread slot. -/
def isSlot : AgentId → Bool
  | .slot .. => true
  | _ => false

/-- Whether an agent is a master core. -/
def isMaster : AgentId → Bool
  | .master .. => true
  | _ => false

/-- Whether an agent is a service core. -/
def isService : AgentId → Bool
  | .service .. => true
  | _ => false

/-- Whether an agent exists on the package (R11, R13): slot 31 runs no thread. -/
def onPackage : AgentId → Bool
  | .master d c => decide (d < 4 ∧ c < 8)
  | .slot d p c k => decide (d < 4 ∧ p < 224 ∧ c < 4 ∧ k < 31)
  | .service d c => decide (d < 4 ∧ c < 2)

/-- The die-local physical slot number (R11). -/
def physSlot : AgentId → Nat
  | .slot _ p c k => p * 128 + c * 32 + k
  | _ => 0

/-- An agent's record. -/
def State.agent (s : State) (a : AgentId) : Agent := tabGet s.agents a Agent.blank

/-- The state with an agent's record replaced. -/
def State.setAgent (s : State) (a : AgentId) (r : Agent) : State := { s with agents := tabSet s.agents a r }

/-- The record of the agent whose turn it is. -/
def State.me (s : State) : Agent := s.agent s.cur

/-- Its context. -/
def State.ctx (s : State) : Ctx := s.me.ctx

/-- The state with the record of the agent whose turn it is replaced. -/
def State.setMe (s : State) (r : Agent) : State := s.setAgent s.cur r

/-- The state with its context replaced. -/
def State.setCtx (s : State) (c : Ctx) : State := s.setMe { s.me with ctx := c }

/-- A program by its die and master core. -/
def State.prog (s : State) (k : Nat × Nat) : Prog := tabGet s.progs k Prog.blank

/-- The state with a program replaced. -/
def State.setProg (s : State) (k : Nat × Nat) (p : Prog) : State := { s with progs := tabSet s.progs k p }

/-- The program an agent belongs to: a master's own, a thread's by the core its record names. -/
def State.progKey (s : State) (a : AgentId) : Nat × Nat :=
  match a with
  | .master d c => (d, c)
  | .slot d .. => (d, (s.agent a).core)
  | .service d _ => (d, 8)

/-- The program of the agent whose turn it is. -/
def State.myKey (s : State) : Nat × Nat := s.progKey s.cur

/-- Its record. -/
def State.myProg (s : State) : Prog := s.prog s.myKey

/-- The state with it replaced. -/
def State.setMyProg (s : State) (p : Prog) : State := s.setProg s.myKey p

/-- A spur by its die and number. -/
def State.spur (s : State) (k : Nat × Nat) : Spur := tabGet s.spurs k Spur.blank

/-- The state with a spur replaced, its high-water marks kept (R332). -/
def State.setSpur (s : State) (k : Nat × Nat) (p : Spur) : State := { s with spurs := tabSet s.spurs k ((s.spur k).noteHwm p) }

/-- The spur of the agent whose turn it is. -/
def State.mySpurKey (s : State) : Nat × Nat := (dieOf s.cur, spurOf s.cur)

/-- A die's record. -/
def State.die (s : State) (d : Nat) : Die := tabGet s.dies d Die.blank

/-- The state with a die's record replaced. -/
def State.setDie (s : State) (d : Nat) (r : Die) : State := { s with dies := tabSet s.dies d r }

/-- Reads the state. -/
def gets {α : Type} (f : State → α) : Act α := fun s => .ok (f s, s)

/-- Changes the state. -/
def mods (f : State → State) : Act Unit := fun s => .ok ((), f s)

/-! ### Registers -/

/-- The value of a scalar register field: s0 reads zero (R26). -/
def Ctx.rs (c : Ctx) (n : Nat) : Word := if n = 0 then 0 else tabGet c.regs n 0

/-- A scalar register written, with its taint; a write to s0 is discarded (R26, R95); a written register is no longer
poisoned (R375). -/
def Ctx.ws (c : Ctx) (n : Nat) (v : Word) (taint : Bool) : Ctx :=
  if n = 0 then c
  else
    { c with
      regs := tabSet c.regs n v
      taint := if taint then n :: c.taint.filter (· ≠ n) else c.taint.filter (· ≠ n)
      poison := c.poison.filter (· ≠ n) }

/-- Whether a register is tainted; s0 never is (R95). -/
def Ctx.tainted (c : Ctx) (n : Nat) : Bool := n ≠ 0 && c.taint.contains n

/-- The value of a vector register field: the pair s(2n):s(2n+1); v0 reads zero; field 48 + m names g(2m):g(2m+1), whose
register fields are again 2n and 2n + 1 (R28). -/
def Ctx.rv (c : Ctx) (n : Nat) : BitVec 128 := if n = 0 then 0 else c.rs (2 * n) ++ c.rs (2 * n + 1)

/-- A vector register written, untainted; a write to v0 is discarded (R28, R95). -/
def Ctx.wv (c : Ctx) (n : Nat) (v : BitVec 128) : Ctx :=
  if n = 0 then c
  else (c.ws (2 * n) (v.extractLsb' 64 64) false).ws (2 * n + 1) (v.extractLsb' 0 64) false

/-- A predicate; q0 reads true (R29). -/
def Ctx.q (c : Ctx) (n : Nat) : Bool := n = 0 || c.preds.getLsbD n

/-- A predicate written; a write to q0 is discarded (R29). -/
def Ctx.wq (c : Ctx) (n : Nat) (b : Bool) : Ctx :=
  if n = 0 then c
  else { c with preds := if b then c.preds ||| (1#8 <<< n) else c.preds &&& ~~~(1#8 <<< n) }

/-- Reads a scalar register of the executing agent. -/
def rdS (n : Nat) : Act Word := gets fun s => s.ctx.rs n
/-- Reads a vector register of the executing agent. -/
def rdV (n : Nat) : Act (BitVec 128) := gets fun s => s.ctx.rv n
/-- Reads a predicate of the executing agent. -/
def rdQ (n : Nat) : Act Bool := gets fun s => s.ctx.q n
/-- Writes a scalar register of the executing agent, untainted. -/
def wrS (n : Nat) (v : Word) : Act Unit := mods fun s => s.setCtx (s.ctx.ws n v false)
/-- Writes a scalar register of the executing agent with a taint. -/
def wrT (n : Nat) (v : Word) (t : Bool) : Act Unit := mods fun s => s.setCtx (s.ctx.ws n v t)
/-- Writes a vector register of the executing agent. -/
def wrV (n : Nat) (v : BitVec 128) : Act Unit := mods fun s => s.setCtx (s.ctx.wv n v)
/-- Writes a predicate of the executing agent. -/
def wrQ (n : Nat) (b : Bool) : Act Unit := mods fun s => s.setCtx (s.ctx.wq n b)

/-! ### Bytes of memory and of pools -/

/-- The byte of a canonical list of cells at a key; unlisted keys read 0 (log 3). -/
def memGet : List Host.Cell → Nat → Byte
  | [], _ => 0
  | (k, v) :: r, a => if a < k then 0 else if a = k then v else memGet r a

/-- The list with a byte written, canonical again: keys rising, no listed byte 0. -/
def memSet : List Host.Cell → Nat → Byte → List Host.Cell
  | [], a, v => if v = 0 then [] else [(a, v)]
  | (k, w) :: r, a, v =>
    if a < k then (if v = 0 then (k, w) :: r else (a, v) :: (k, w) :: r)
    else if a = k then (if v = 0 then r else (a, v) :: r)
    else (k, w) :: memSet r a v

/-- Keys rising from above `lo`, no listed byte 0. -/
def memWfFrom : Nat → List Host.Cell → Bool
  | _, [] => true
  | lo, (k, v) :: r => decide (lo ≤ k) && decide (v ≠ 0) && memWfFrom (k + 1) r

/-- The canonical form of memory. -/
def Memory.wf (m : List Host.Cell) : Bool := memWfFrom 0 m

/-- The bytes at a list of keys. -/
def memGets (m : List Host.Cell) (ks : List Nat) : List Byte := ks.map (memGet m)

/-- Bytes written at a list of keys. -/
def memSets : List Host.Cell → List Nat → List Byte → List Host.Cell
  | m, k :: ks, v :: vs => memSets (memSet m k v) ks vs
  | m, _, _ => m

/-- n consecutive numbers from a. -/
def span (a : Nat) : Nat → List Nat
  | 0 => []
  | n + 1 => a :: span (a + 1) n

/-- The little-endian value of n bytes of memory from a key. -/
def State.rdN (s : State) (key n : Nat) : Nat := leNat (memGets s.mem (span key n))

/-- Memory with n little-endian bytes written from a key. -/
def State.wrN (s : State) (key n v : Nat) : State := { s with mem := memSets s.mem (span key n) (leBytes n v) }

/-- Whether a byte of global memory is poisoned: its 64-byte line is marked (R374). -/
def State.poisoned (s : State) (key : Nat) : Bool := s.bad.contains (key / 64)

/-- Whether the line of a byte is owned by an engine command in progress (R208). -/
def State.ownedLine (s : State) (key : Nat) : Bool := s.owned.any (fun o => o.line == key / 64)

/-! ### Translation -/

/-- What an access needs of its page (R342). -/
inductive Need where
  | fetch
  | read
  | write
  | atomic
  | granule
  | red
  | wait
  | none
  deriving DecidableEq, Repr

/-- Bits of a page-table entry (R340). -/
def pteV (e : Nat) : Bool := e.testBit 0
def pteLeaf (e : Nat) : Bool := e.testBit 1
def pteR (e : Nat) : Bool := e.testBit 2
def pteW (e : Nat) : Bool := e.testBit 3
def pteX (e : Nat) : Bool := e.testBit 4
def pteRoSpawn (e : Nat) : Bool := e.testBit 5
def pteStream (e : Nat) : Bool := e.testBit 6
def pteMigrating (e : Nat) : Bool := e.testBit 7
def pteContig (e : Nat) : Bool := e.testBit 8
def ptePin (e : Nat) : Bool := e.testBit 9
def pteFrame (e : Nat) : Nat := bits e 51 12 * 4096
def pteHome (e : Nat) : Nat := bits e 53 52
def pteSpace (e : Nat) : Nat := bits e 55 54

/-- How a walk ends (R341). -/
inductive Walk where
  | leaf (entry size : Nat)
  | invalid
  | malformed
  | noRoot
  | poison
  deriving DecidableEq, Repr

/-- log2 of the page a leaf at a level maps (R339). -/
def leafSize (level e : Nat) : Nat :=
  match level with
  | 3 => 30
  | 2 => 21
  | _ => if pteContig e then 16 else 12

/-- The sixteen entries of a 64 KiB page agree: same attributes, consecutive frames (R339). -/
def contigOk (s : State) (table idx e : Nat) : Bool :=
  let base := idx / 16 * 16
  let e0 := e - (idx - base) * 4096
  (span 0 16).all fun i => s.rdN (table + (base + i) * 8) 8 == e0 + i * 4096

/-- The bytes of HBM of the package: eight stacks of 48 GiB (R13), from physical address 0 on (log 18). -/
def hbmBytes : Nat := 384 * 2 ^ 30

/-- A leaf entry that R341 calls malformed; one whose page lies beyond the package's HBM is treated so (log 18). -/
def leafMalformed (s : State) (level table idx e : Nat) : Bool :=
  decide (level = 4) ||
  (pteSpace e == 0 && decide (hbmBytes < pteFrame e / 2 ^ leafSize level e * 2 ^ leafSize level e + 2 ^ leafSize level e)) ||
  decide (bits e 63 56 ≠ 0) || decide (bits e 11 10 ≠ 0) || decide (pteSpace e = 3) ||
  (pteContig e && decide (level ≠ 1)) || (pteW e && !pteR e) ||
  (if pteContig e then
    decide ((pteFrame e - (idx % 16) * 4096) % 2 ^ 16 ≠ 0) || decide (pteFrame e < (idx % 16) * 4096) || !contigOk s table idx e
   else decide (pteFrame e % 2 ^ leafSize level e ≠ 0))

/-- A non-leaf entry that R340 and R341 call malformed, or whose table lies beyond the package's HBM (log 18). -/
def nonLeafMalformed (level e : Nat) : Bool :=
  decide (level = 1) || decide (hbmBytes < pteFrame e + 4096) || decide (bits e 63 52 ≠ 0) || decide (bits e 11 2 ≠ 0)

/-- The walk from a table of a level down (R339 to R341): `n` is the level. -/
def walkFrom (s : State) : Nat → Nat → Nat → Walk
  | 0, _, _ => .malformed
  | n + 1, table, va =>
    let idx := va / 2 ^ (12 + 9 * n) % 512
    let key := table + idx * 8
    let e := s.rdN key 8
    if s.poisoned key then .poison
    else if !pteV e then .invalid
    else if pteLeaf e then
      if leafMalformed s (n + 1) table idx e then .malformed else .leaf e (leafSize (n + 1) e)
    else if nonLeafMalformed (n + 1) e then .malformed
    else walkFrom s n (pteFrame e) va

/-- The first byte of the table that a root names. -/
def rootTable (root : Nat) : Nat := bits root 51 12 * 4096

/-- The walk of an address in an address space (R338, R341); a root whose table lies beyond the package's HBM is malformed (log 18). -/
def walk (s : State) (asid va : Nat) : Walk :=
  let root := tabGet s.roots asid 0
  if root % 2 = 0 then .noRoot
  else if hbmBytes < rootTable root + 4096 then .malformed
  else walkFrom s 4 (rootTable root) va

/-- The entry of a TLB that an agent's access may use: its spur's, or its die's (R343). -/
def tlbFind (s : State) (d : Nat) (p : Option Nat) (asid va : Nat) : Option TlbEntry :=
  s.tlb.find? fun t =>
    t.die == d && t.asid == asid && (t.spur == none || t.spur == p) && decide (t.page = va / 2 ^ t.size * 2 ^ t.size)

/-- The first physical byte of a leaf's page. -/
def leafBase (e size : Nat) : Nat := pteFrame e / 2 ^ size * 2 ^ size

/-- The entries of a table that hold a nonzero byte. -/
def tableEntries (s : State) (table : Nat) : List Nat :=
  ((s.mem.filter fun c => decide (table ≤ c.1 ∧ c.1 < table + 4096)).map fun c => (c.1 - table) / 8).eraseDups

/-- The leaves below a table of a level, with their first addresses and the sizes of their pages. -/
def leavesFrom (s : State) : Nat → Nat → Nat → List (Nat × Nat × Nat)
  | 0, _, _ => []
  | n + 1, table, va =>
    (tableEntries s table).flatMap fun i =>
      let e := s.rdN (table + i * 8) 8
      let at' := va + i * 2 ^ (12 + 9 * n)
      if !pteV e then []
      else if pteLeaf e then (if leafMalformed s (n + 1) table i e then [] else [(at', e, leafSize (n + 1) e)])
      else if nonLeafMalformed (n + 1) e then []
      else leavesFrom s n (pteFrame e) at'

/-- The leaves of an address space. -/
def leavesOf (s : State) (asid : Nat) : List (Nat × Nat × Nat) :=
  let root := tabGet s.roots asid 0
  if root % 2 = 0 ∨ hbmBytes < rootTable root + 4096 then [] else leavesFrom s 4 (rootTable root) 0

/-- The pages that accesses in an address space may reach: those of its TLB entries (R343) and the leaves of its tables, each by its
first address, its entry and its size. -/
def mappingsOf (s : State) (asid : Nat) : List (Nat × Nat × Nat) :=
  ((s.tlb.filter fun t => t.asid == asid).map fun t => (t.page, t.entry, t.size)) ++ leavesOf s asid

/-- The first physical key of a page, and whether it holds a key. -/
def pageKey (e size : Nat) : Nat := pteSpace e * 2 ^ 52 + leafBase e size
def pageHolds (e size key : Nat) : Bool := decide (pageKey e size ≤ key) && decide (key < pageKey e size + 2 ^ size)

/-- The addresses of a byte in an address space. -/
def addrsOf (s : State) (asid key : Nat) : List Nat :=
  (mappingsOf s asid).filterMap fun (va, e, size) => if pageHolds e size key then some (va + (key - pageKey e size)) else none

/-- The key of an address in an address space, by the first page that holds it. -/
def keyAt (s : State) (asid va : Nat) : Option Nat :=
  (mappingsOf s asid).findSome? fun (page, e, size) =>
    if va / 2 ^ size = page / 2 ^ size then some (pageKey e size + va % 2 ^ size) else none

/-- The home that the page tables give to a byte of device memory: that of the first leaf that maps it. -/
def tableHome (s : State) (key : Nat) : Option Nat :=
  s.roots.findSome? fun x => (leavesOf s x.1).findSome? fun (_, e, size) =>
    if pteSpace e = 0 ∧ leafBase e size ≤ key ∧ key < leafBase e size + 2 ^ size then some (pteHome e) else none

/-- The home die of a line of device memory (R14, R212): that of its page, as a walk last read it or as the tables give it; die
0 where no page maps it (log 6). -/
def State.homeDie (s : State) (key : Nat) : Nat :=
  match s.homes.find? fun h => decide (h.1 ≤ key ∧ key < h.1 + 2 ^ h.2.1) with
  | some h => h.2.2
  | none => (tableHome s key).getD 0

/-- Whether an entry of a home-lookup table, or a forwarding pointer, is for a page. -/
def Lookup.is (l : Lookup) (asid page size : Nat) : Bool := l.asid == asid && l.page == page && l.size == size
def Forward.is (l : Forward) (asid page size : Nat) : Bool := l.asid == asid && l.page == page && l.size == size

/-- Where a former home's forwarding pointers lead: after at most n of them. -/
def forwarded (s : State) (asid page size : Nat) : Nat → Nat → Nat
  | 0, h => h
  | n + 1, h =>
    match s.forwards.find? fun f => f.is asid page size && f.old == h with
    | some f => forwarded s asid page size n f.new
    | none => h

/-- Where a die's request for a page ends that its entry homes at `home` (R212): at the home its lookup table names, and from there
by forwarding pointers. -/
def State.routed (s : State) (d asid page size home : Nat) : Nat :=
  match s.lookups.find? fun l => l.die == d && l.is asid page size with
  | some l => forwarded s asid page size 4 l.home
  | none => home

/-- A page entered in a die's home-lookup table, where it has no entry for it (R212). -/
def lookupFill (s : State) (d asid page size home : Nat) : State :=
  if s.lookups.any fun l => l.die == d && l.is asid page size then s
  else { s with lookups := s.lookups ++ [⟨d, asid, page, size, home⟩] }

/-- An entry of a home-lookup table invalidated; a forwarding pointer goes once no die has an older entry for its page (R212). -/
def lookupDrop (s : State) (k : Nat) : State :=
  let ls := listDel s.lookups k
  { s with
    lookups := ls
    forwards := s.forwards.filter fun f => ls.any fun l => l.is f.asid f.page f.size && forwarded s f.asid f.page f.size 4 l.home != l.home }

/-- A walked leaf entered in the agent's TLBs, the oldest entries falling out (R343; log 7). -/
def tlbFill (s : State) (d : Nat) (p : Option Nat) (asid va e size : Nat) : State :=
  let page := va / 2 ^ size * 2 ^ size
  let mine : List TlbEntry := match p with
    | some k => [⟨d, some k, asid, page, size, e⟩, ⟨d, none, asid, page, size, e⟩]
    | none => [⟨d, none, asid, page, size, e⟩]
  let count (q : Option Nat) : Nat := (s.tlb.filter fun t => t.die == d && t.spur == q).length
  let cut (q : Option Nat) (cap : Nat) (l : List TlbEntry) : List TlbEntry :=
    if count q < cap then l
    else l.reverse.eraseP (fun t => t.die == d && t.spur == q) |>.reverse
  let base := leafBase e size
  let s := if pteSpace e = 0 then lookupFill s d asid page size (pteHome e) else s
  { s with
    homes := if pteSpace e = 0 then (base, size, pteHome e) :: s.homes.filter fun h => h.1 ≠ base ∨ h.2.1 ≠ size else s.homes
    tlb := mine ++ (match p with | some k => cut (some k) 256 (cut none 16384 s.tlb) | none => cut none 16384 s.tlb) }

/-- Whether an entry gives what an access needs (R342). -/
def permits (n : Need) (e : Nat) : Bool :=
  match n with
  | .fetch => pteX e
  | .read => pteR e
  | .write => pteR e && pteW e
  | .atomic => pteR e && pteW e
  | .granule => pteR e && pteW e
  | .red => pteR e && pteW e
  | .wait => pteR e
  | .none => true

/-- The physical key of an address through a leaf: the space above 52 bits of physical address (log 4). -/
def leafKey (e size va : Nat) : Nat := pteSpace e * 2 ^ 52 + (pteFrame e / 2 ^ size * 2 ^ size + va % 2 ^ size)

/-- The spaces of a physical key. -/
def keySpace (key : Nat) : Nat := key / 2 ^ 52

/-- Whether a program has an outstanding spawn (R267), while which RO_SPAWN pages are read-only (R207). -/
def Prog.spawning (p : Prog) : Bool := decide (p.sstate ≠ 0)

/-- A fault pending on a die for the page of an address, where an engine's destination lies: the engine takes ownership when the
fault is served, and until then every access to the page through this translation meets the same fault (R208). -/
def destPending (s : State) (d asid va : Nat) : Bool :=
  (s.die d).faults.any fun f => f.dest && f.asid == asid && decide (va / 2 ^ f.size = f.page * 4096 / 2 ^ f.size)

/-- The leaf of an address for an agent of a program: from its TLBs, or walked and entered there. `va` is VA[55:0]. A
service core addresses device memory directly (log 6). -/
def leafOf (d : Nat) (p : Option Nat) (asid va acc : Nat) : Act (Nat × Nat) := do
  let tv := BitVec.ofNat 64 va
  if 2 ^ 48 ≤ va then trap cPROT tv
  let s ← get
  match tlbFind s d p asid va with
  | some t => pure (t.entry, t.size)
  | none =>
    match walk s asid va with
    | .noRoot => trap cPROT tv
    | .malformed => trap cPROT tv
    | .poison => trap cPOISON tv
    | .invalid => throw (.page va acc false)
    | .leaf e size =>
      if pteMigrating e then throw (.page va acc true)
      else if destPending s d asid va then throw (.page va acc false)
      else
        set (tlbFill s d p asid va e size)
        pure (e, size)

/-- Whether an access changes what it touches; a full-empty operation that does is checked where it is known (R230). -/
def Need.writes : Need → Bool
  | .write => true
  | .atomic => true
  | .red => true
  | _ => false

/-- The kind of an access as ACCESS of R390: 1 read, 2 write, 4 fetch; an atomic reads and writes. -/
def Need.acc : Need → Nat
  | .fetch => 4
  | .write => 2
  | .atomic => 3
  | .granule => 3
  | .red => 3
  | _ => 1

/-- Whether the trap of an unreachable home comes when the request is performed: that of a store or a RED, deferred, and that of an
atomic or a full-empty operation, whose request may have been applied (R239). -/
def Need.deferred : Need → Bool
  | .write => true
  | .red => true
  | .none => true
  | .atomic => true
  | .granule => true
  | _ => false

/-- The home of a line by its page's entry: host lines are reached through die 0 (R340). -/
def homeOf (e key : Nat) : Home :=
  match keySpace key with
  | 0 => .die (pteHome e)
  | 1 => .host
  | _ => .traverse (Config.traverseLink (key / 2 ^ 40 % 2 ^ 12))

/-- Whether requests reach a home: its die has not left service, or its link is not DOWN or TRAINING (R239, R395, R397). The
memory of a die that is being reset is reached once more when it returns (R376); host memory is not while die 0 is lost (R397). -/
def State.reach (s : State) (h : Home) : Bool :=
  match h with
  | .die d => (s.die d).state != .out
  | .host => (s.die 0).state == .up
  | .traverse l => match (tabGet s.links l Link.blank).state with
    | .training => false
    | .down => false
    | _ => true

/-- Translates one address for an access of a program on a die (R341, R342), giving the leaf entry and the physical key; a
home that no request reaches traps LINKERR, but for a store or a RED (R239). -/
def transFor (d : Nat) (p : Option Nat) (asid : Nat) (spawning : Bool) (n : Need) (va : Nat) : Act (Nat × Nat) := do
  let (e, size) ← leafOf d p asid va n.acc
  let tv := BitVec.ofNat 64 va
  trapIf (!permits n e) cPROT tv
  trapIf (n.writes && pteRoSpawn e && spawning) cPROT tv
  let key := leafKey e size va
  let s ← get
  trapIf (!n.deferred && !s.reach (homeOf e key)) cLINKERR tv
  pure (e, key)

/-- Which TLB an agent's accesses use. -/
def tlbSpur (a : AgentId) : Option Nat := if isSlot a then some (spurOf a) else none

/-- What R239 puts in TVAL when a home does not answer: the effective address. -/
def linkEa {α : Type} (ea : Word) (x : Act α) : Act α := fun s =>
  match x.run s with
  | .error (.trap t) => .error (.trap (if t.cause = cLINKERR then ⟨cLINKERR, ea⟩ else t))
  | r => r

/-- Translates one address for the executing agent. What a service core addresses has no page, so no entry gives its home: it
is homed on die 0, as an entry of zero would say (log 6); beyond the package's HBM it traps PROT (log 18). -/
def transE (n : Need) (va : Nat) : Act (Nat × Nat) := do
  let s ← get
  if isService s.cur then
    trapIf (decide (hbmBytes ≤ va % 2 ^ 52)) cPROT (BitVec.ofNat 64 va)
    pure (0, va % 2 ^ 52)
  else
    let p := s.myProg
    transFor (dieOf s.cur) (tlbSpur s.cur) p.asid p.spawning n va

/-- Its physical key only. -/
def trans (n : Need) (va : Nat) : Act Nat := do
  let (_, k) ← transE n va
  pure k

/-- Translates n bytes from an address: every page before any byte (R221), each byte to its key. -/
def transBytes (nd : Need) (va n : Nat) : Act (List Nat) := (span va n).mapM fun a => trans nd (a % 2 ^ 56)

end Sys2Proof.Machine
end

