-- ==== Sys2Proof/Machine/Home.lean ====
section
/-! DEFINITION. Accesses at their homes: the L1s and write counters, outstanding stores and reductions, poison
(07_ordering_rules.md R193 to R213, 14_recovery.md R374), the part's own accesses for a program, the fault ring's entries
(15_firmware_links.md R390), the dynamic region of a context area (14_recovery.md R371), and parking (11_scheduling.md R310). -/

namespace Sys2Proof.Machine

/-! ### Numbers -/

/-- The signed value of the low w bits of a number. -/
def sextN (w n : Nat) : Int := if n % 2 ^ w < 2 ^ (w - 1) then ((n % 2 ^ w : Nat) : Int) else ((n % 2 ^ w : Nat) : Int) - 2 ^ w

/-- A 64-bit register value of an integer, wrapped. -/
def wordOf (z : Int) : Word := BitVec.ofInt 64 z

/-- A 64-bit register value of a natural number, wrapped. -/
def wordN (n : Nat) : Word := BitVec.ofNat 64 n

/-- The virtual address of an effective address: bits [55:0] (R219). -/
def vaOf (ea : Word) : Nat := ea.toNat % 2 ^ 56

/-! ### Caches -/

/-- The writes of a die to the pages of some bytes counted by their home slices (R213): by page frame and writing die. -/
def countWrites (s : State) (d : Nat) (keys : List Nat) : State :=
  { s with writes := ((keys.map (· / 4096)).eraseDups).foldl (fun t f => tabSet t (f, d) (tabGet t (f, d) 0 + 1)) s.writes }

/-- Whether an address lies in a range modulo 2^56. -/
def inRange (va n a : Nat) : Bool := decide ((a + 2 ^ 56 - va % 2 ^ 56) % 2 ^ 56 < n)

/-- The offsets within a node of the fields marked RO (R249). -/
def roOffset (o : Nat) : Bool := decide (12 ≤ o ∧ o < 20) || decide (24 ≤ o ∧ o < 28)

/-- How many nodes a compaction of a program's tree has copied (R261). -/
def copiedNodes (s : State) (d core n : Nat) : Nat :=
  match (s.die d).cairn.find? fun o => o.tree == n && decide ((s.progKey o.who).2 = core) && o.par != [] with
  | some o => o.phase - 1
  | none => 0

/-- The value of n bytes at an address of an address space, where each has a page. -/
def peekN (s : State) (asid va n : Nat) : Option Nat := do
  let ks ← (span va n).mapM fun a => keyAt s asid (a % 2 ^ 56)
  pure (leNat (memGets s.mem ks))

/-- Whether a byte at an address is one of a tree's that only Cairn may write (R250): of the header, or of an RO field of a node in use
or already copied by a compaction. A header without a page says nothing, so that every node counts. -/
def Tree.roByte (s : State) (asid : Nat) (copied : Nat) (t : Tree) (a : Nat) : Bool :=
  inRange t.region 64 a ||
  (inRange (t.region + 64) (64 * t.cap) a &&
    (let i := (a + 2 ^ 56 - (t.region + 64) % 2 ^ 56) % 2 ^ 56 / 32
     let half := i / t.cap
     roOffset ((a + 2 ^ 56 - (t.region + 64) % 2 ^ 56) % 2 ^ 56 % 32) &&
     (match peekN s asid (t.region + 4) 4, peekN s asid (t.region + 28) 4 with
      | some used, some fl => decide (i % t.cap < if half = fl % 2 then used else if fl.testBit 3 then copied else 0)
      | _, _ => true)))

/-- A tree after a store to some bytes: one to a byte that only Cairn may write makes its results unspecified (R250). -/
def Tree.stored (s : State) (asid copied : Nat) (keys : List Nat) (t : Tree) : Tree :=
  if keys.any fun k => (addrsOf s asid k).any (t.roByte s asid copied) then { t with bad := true } else t

/-- Whether an address lies in the spill area of a session (R179). -/
def Session.spills (x : Session) (a : Nat) : Bool := x.extents.any fun e => inRange e.1 e.2 a

/-- A session after a store to some bytes: one to its spill area makes its results unspecified (R179). -/
def Session.stored (s : State) (asid : Nat) (keys : List Nat) (x : Session) : Session :=
  if keys.any fun k => (addrsOf s asid k).any x.spills then { x with bad := true } else x

/-- The bound trees and the open sessions, those of saved programs among them, after a store to some bytes (R179, R250). -/
def noteStores (s : State) (keys : List Nat) : State :=
  { s with
    dies := s.dies.map fun (d, r) => (d, { r with
      trees := r.trees.map fun t => t.stored s (s.prog (d, t.core)).asid (copiedNodes s d t.core t.num) keys
      arete := r.arete.map fun x => x.stored s (s.prog (d, x.core)).asid keys })
    saved := s.saved.map fun v => { v with
      trees := v.trees.map (Tree.stored s v.asid 0 keys)
      arete := v.arete.map (Session.stored s v.asid keys) } }

/-- Whether a byte lies in the spill area of an open session (R179): a load of it gives an unspecified value. -/
def State.spillKey (s : State) (key : Nat) : Bool :=
  (s.dies.any fun (d, r) => r.arete.any fun x => (addrsOf s (s.prog (d, x.core)).asid key).any x.spills) ||
  s.saved.any fun v => v.arete.any fun x => (addrsOf s v.asid key).any x.spills

/-- n unspecified bytes of a run, and the state after them (R2). -/
def takeFree (s : State) (n : Nat) : List Byte × State := ((span s.free n).map Config.freeByte, { s with free := s.free + n })

/-- Loaded bytes, those of some keys unspecified. -/
def freeWhere (f : Nat → Bool) (s : State) (keys : List Nat) (bs : List Byte) : List Byte × State :=
  if keys.any f then
    let (fs, t) := takeFree s keys.length
    (((keys.zip bs).zip fs).map fun (x, y) => if f x.1 then y else x.2, t)
  else (bs, s)

/-- Loaded bytes, those of a spill area unspecified (R179). -/
def maskSpill (s : State) (keys : List Nat) (bs : List Byte) : List Byte × State := freeWhere s.spillKey s keys bs

/-- The lines a master's data L1 holds: 64 KiB (R13). -/
def l1Lines : Nat := 1024

/-- The L1 lines after a master got some: its oldest leave it for want of room (log 17). -/
def l1Fit (a : AgentId) (l : List L1Line) : List L1Line :=
  let n := (l.filter fun e => e.who == a).length
  ((l.filter fun e => e.who == a).take (n - l1Lines)).foldl (fun t e => t.erase e) l

/-- A master's line after its own load or store: a store's is Modified; a load's stays as it is, or is new: Shared where another L1
holds it or the fill asks so, else Exclusive (R206, R226). -/
def l1State (s : State) (a : AgentId) (write shared : Bool) (l : Nat) : Mesi :=
  if write then .modified
  else
    match s.l1.find? fun e => e.line == l && e.who == a with
    | some e => e.mesi
    | none => if shared || s.l1.any (fun x => x.line == l && x.who != a) then .shared else .exclusive

/-- A master's lines held after its load or store: a store leaves no other copy, a load makes the others Shared. -/
def l1Hold (s : State) (a : AgentId) (write shared : Bool) (ls : List Nat) : State :=
  let mine := ls.map fun l => (⟨a, l, l1State s a write shared l⟩ : L1Line)
  let others := s.l1.filterMap fun e =>
    if !(ls.contains e.line) then some e else if write || e.who == a then none else some { e with mesi := .shared }
  { s with l1 := l1Fit a (others ++ mine) }

/-- Every copy of some lines leaves the L1s (R206). -/
def l1Recall (s : State) (ls : List Nat) : State := { s with l1 := s.l1.filter fun e => !(ls.contains e.line) }

/-- The L1 copies of lines after an access of an agent to keys (R206): a thread's, engine's or host's access recalls every copy,
and so does a master's to a page with STREAM; a master's load leaves it a copy, its store the only one, Modified. A write is
counted (R213), and one of bytes that only Cairn or Arete may write is marked (R179, R250). -/
def touchL1 (s : State) (a : AgentId) (stream write : Bool) (keys : List Nat) : State :=
  let s := if write then noteStores (countWrites s (dieOf a) keys) keys else s
  let ls := (keys.map (· / 64)).eraseDups
  if isMaster a ∧ stream = false then l1Hold s a write false ls
  else if isMaster a ∧ write = false then s
  else l1Recall s ls

/-! ### Outstanding stores and reductions -/

/-- A reduction's new word (R235): FADD, FMIN and FMAX keep subnormals and record no flag. -/
def redApply (fn w old : Nat) (y : Word) : Nat :=
  let n := if w = 0 ∨ w = 2 then 32 else 64
  let g := if w = 2 then fp32 else fp64
  let z := y.toNat % 2 ^ n
  match fn with
  | 0 => (old + z) % 2 ^ n
  | 1 => old &&& z
  | 2 => old ||| z
  | 3 => old ^^^ z
  | 4 => if sextN n old < sextN n z then old else z
  | 5 => if sextN n old < sextN n z then z else old
  | 6 => min old z
  | 7 => max old z
  | 8 => (fAdd g ⟨0, false, false, 0, 0⟩ 0 old z).1
  | 9 => (fMinMax g false false false old z).1
  | _ => (fMinMax g false true false old z).1

/-- A trap of an agent's access that is taken later (R358), by the thread that issued the access: the one that runs, or the
inline parent that then had `depth` parents of its own (R279). -/
def deferTrap (s : State) (who : AgentId) (depth : Nat) (t : Trap) : State :=
  let a := s.agent who
  if a.frames.length ≤ depth then s.setAgent who { a with dtraps := a.dtraps ++ [t] }
  else
    let i := a.frames.length - 1 - depth
    s.setAgent who { a with frames := a.frames.zipIdx.map fun (f, j) => if j = i then { f with dtraps := f.dtraps ++ [t] } else f }

/-- The home of a line by the home-lookup table and the routing table (R212, R340). -/
def State.homeOfKey (s : State) (key : Nat) : Home :=
  match keySpace key with
  | 0 => .die (s.homeDie key)
  | 1 => .host
  | _ => .traverse (Config.traverseLink (key / 2 ^ 40 % 2 ^ 12))

/-! ### The ways between dies (R397) -/

/-- A link by its number. -/
def State.link (s : State) (l : Nat) : Link := tabGet s.links l Link.blank

/-- The Saddle direction from one die to another. -/
def saddleLink (f t : Nat) : Nat := 32 + 3 * f + (if t < f then t else t - 1)

/-- Whether a Saddle port between two dies works. -/
def portWorks (s : State) (a b : Nat) : Bool :=
  (s.link (saddleLink a b)).state != .down && (s.link (saddleLink b a)).state != .down

/-- The lowest third die whose ports to two others work (R397, log 46). -/
def thirdDie (s : State) (a b : Nat) : Option Nat :=
  (List.range 4).find? fun c => c != a && c != b && portWorks s a c && portWorks s c b

/-- The Saddle direction by which a die sends to another: their own port, or else that to the third die of the
detour (R397). -/
def saddleRoute (s : State) (a b : Nat) : Option Nat :=
  if portWorks s a b then some (saddleLink a b)
  else (thirdDie s a b).map (saddleLink a)

/-- Whether a die has a Saddle path to another (R397): their port, or the detour. -/
def hasWay (s : State) (a b : Nat) : Bool := (saddleRoute s a b).isSome

/-- Whether a die has no working Saddle path to any other (R397). -/
def cutOff (s : State) (d : Nat) : Bool := ((List.range 4).filter (· ≠ d)).all fun e => !hasWay s d e

/-- The links that an access of a die to a home crosses (R397): the Saddle directions on its way, and the Traverse link at its end. -/
def linkWay (s : State) (d : Nat) (h : Home) : List Nat :=
  let (e, out) := match h with
    | .die e => (e, [])
    | .host => (0, [])
    | .traverse l => (l / 8, [l])
  if e = d then out
  else if portWorks s d e then saddleLink d e :: out
  else match thirdDie s d e with
    | some c => saddleLink d c :: saddleLink c e :: out
    | none => out

/-! ### Requests over links (R238) -/

/-- The request queue of an agent's requests. -/
def linkQueue (who : AgentId) : Nat :=
  (match who with
    | .slot .. => Config.requestQueue (physSlot who)
    | .master _ c => Config.requestQueue (124 * 896 + c)
    | .service _ c => Config.requestQueue (124 * 896 + 8 + c)) % 16

/-- Whether a home lies on a die, or behind it over PCIe. -/
def Home.onDie (h : Home) (d : Nat) : Bool := h == .die d || (h == .host && d == 0)

/-- Whether a request of an agent to some homes crosses a Saddle or a Traverse link. -/
def crosses (who : AgentId) (homes : List Home) : Bool := homes.any fun h => !h.onDie (dieOf who)

/-- The home slices of some bytes. -/
def slicesOf (keys : List Nat) : List Nat := (keys.map fun k => Config.homeSlice (k / 64) % 64).eraseDups

/-- The bytes of a granule of memory. -/
def Granule.keys : Granule → List Nat
  | .mem k => span k 8
  | .scr .. => []

/-- The requests of an agent that carry a source, each with its homes and its bytes: outstanding stores and reductions, and an atomic or
a full-empty step in the queue of its word. -/
def sentRequests (s : State) (a : Agent) : List (LinkSrc × List Home × List Nat) :=
  (a.pend.filterMap fun p => p.src.map fun r => (r, p.homes, p.keys)) ++
  (match a.wait with
    | .claim r => r.src.toList.map fun x => (x, r.homes, r.keys)
    | .granule r => r.src.toList.map fun x => (x, (r.g.keys.map s.homeOfKey).eraseDups, r.g.keys)
    | _ => [])

/-- The requests of a source that are not yet acknowledged by some home slice of its destination. -/
def unacked (s : State) (die queue : Nat) (homes : List Home) (keys : List Nat) : Nat :=
  (s.agents.flatMap fun x => (sentRequests s x.2).filter fun (r, h, ks) =>
    r.die == die && r.queue == queue && h.any homes.contains && (slicesOf ks).any (slicesOf keys).contains).length

/-- A fresh sequence number for a request of an agent that crosses a link. -/
def takeSrc (s : State) (who : AgentId) (homes : List Home) : Option LinkSrc × State :=
  if crosses who homes then
    let k := (dieOf who, linkQueue who)
    let n := tabGet s.linkSeqs k 0
    (some ⟨k.1, k.2, n⟩, { s with linkSeqs := tabSet s.linkSeqs k ((n + 1) % 2 ^ 16) })
  else (none, s)

/-- The number of a source: DEV, DIE and QUEUE (R238). -/
def srcCode (s : State) (r : LinkSrc) : Nat := s.node * 64 + r.die * 16 + r.queue

/-- The slices of this package that have applied a request keep it with its reply, among the 64 last of its source. -/
def noteApplied (s : State) (r : LinkSrc) (homes : List Home) (keys : List Nat) (reply : Nat) : State :=
  let homes := homes.filterMap fun h => match h with
    | .die d => some d
    | .host => some 0
    | .traverse _ => none
  let slots := homes.flatMap fun d => (slicesOf keys).map fun x => (d * 64 + x, srcCode s r)
  { s with applied := slots.foldl (fun t k => tabSet t k (((r.seq, reply) :: tabGet t k []).take 64)) s.applied }

/-- A request of an agent is applied at its homes, with its reply. -/
def noteRequest (s : State) (who : AgentId) (homes : List Home) (keys : List Nat) (reply : Nat) : State :=
  match takeSrc s who homes with
  | (some r, t) => noteApplied t r homes keys reply
  | (none, t) => t

/-- Whose access reaches the L1s: a store its issuer's, a reduction, which the home slice applies, none of a master (R206, R235). -/
def Pend.toucher (p : Pend) (who : AgentId) : AgentId :=
  match p.kind with
  | .store _ => who
  | .red .. => .slot (dieOf who) 0 0 0

/-- An outstanding access performed at its home (R221, R235): a reduction of a poisoned word is not applied and its
issuer's POISON is deferred (R358); a store is performed, and a poisoned line stays poisoned (R375). -/
def performAt (s : State) (who : AgentId) (p : Pend) : State :=
  let s := touchL1 s (p.toucher who) p.stream true p.keys
  let s := match p.src with
    | some r => noteApplied s r p.homes p.keys 0
    | none => s
  match p.kind with
  | .store bs => { s with mem := memSets s.mem p.keys bs }
  | .red fn w y =>
    if p.keys.any s.poisoned then deferTrap s who p.depth ⟨cPOISON, wordN (vaOf p.ea)⟩
    else
      let (bs, s) := maskSpill s p.keys (memGets s.mem p.keys)
      { s with mem := memSets s.mem p.keys (leBytes p.keys.length (redApply fn w (leNat bs) y)) }

/-- An outstanding access performed: where its home cannot be reached, LINKERR is deferred, and whether it was applied is
unspecified (R239). -/
def performPend (s : State) (who : AgentId) (p : Pend) : State :=
  if p.homes.all s.reach then performAt s who p
  else
    let n := s.free
    let s := deferTrap { s with free := n + 1 } who p.depth ⟨cLINKERR, p.ea⟩
    if Config.freeBit n then performAt s who p else s

/-- Removes an access from the list of an agent. -/
def dropPend (s : State) (who : AgentId) (id : Nat) : State :=
  let a := s.agent who
  s.setAgent who { a with pend := a.pend.filter fun p => p.id ≠ id }

/-- Whether two accesses have a byte in common. -/
def overlaps (p : Pend) (keys : List Nat) : Bool := p.keys.any keys.contains

/-- The accesses of a list that satisfy a test and, with each, the earlier ones to the same bytes: accesses of one agent to a
byte appear in program order (R195). -/
def drainList (f : Pend → Bool) : List Pend → List Pend
  | [] => []
  | p :: rest =>
    let later := drainList f rest
    if f p || later.any (fun q => overlaps p q.keys) then p :: later else later

/-- Whether one of the bytes' words has a claim granted or queued (R233). -/
def claimedWord (s : State) (keys : List Nat) : Bool :=
  keys.any fun k => !(tabGet s.claims (k / 8) []).isEmpty

/-- Whether an outstanding access can be performed at its home now: none of its words is claimed (R233), no engine owns a line of
it (R208). -/
def pendFree (s : State) (p : Pend) : Bool := !p.queued && !claimedWord s p.keys && !p.keys.any s.ownedLine

/-- Performs accesses of an agent in their order, each unless it must wait at its home or follows one to the same bytes that
does. -/
def drainFrom (s : State) (who : AgentId) : List Pend → List Nat → State
  | [], _ => s
  | p :: ps, held =>
    if pendFree s p && !overlaps p held then drainFrom (dropPend (performPend s who p) who p.id) who ps held
    else drainFrom s who ps (held ++ p.keys)

/-- Performs the outstanding accesses of an agent that satisfy a test, oldest first, each after the earlier ones to the same
bytes. One that must wait at its home stays outstanding. -/
def drainWhere (s : State) (who : AgentId) (f : Pend → Bool) : State := drainFrom s who (drainList f (s.agent who).pend) []

/-- Performs every outstanding access of an agent that need not wait (R203, R281). -/
def drainAll (s : State) (who : AgentId) : State := drainWhere s who fun _ => true

/-- The outstanding accesses of the executing agent that satisfy a test are performed first: where one must wait, the
instruction stalls. -/
def drainFor (f : Pend → Bool) : Act Unit := do
  mods fun s => drainWhere s s.cur f
  let s ← get
  if s.me.pend.any f then throw .stall

/-- A word of these bytes has a claim granted or queued: what joins no queue waits for its end (R233). -/
def awaitClaims (keys : List Nat) : Act Unit := do
  let s ← get
  if claimedWord s keys then throw .stall

/-- An engine owns a line of these bytes: the access waits for its write (R208). -/
def awaitOwner (keys : List Nat) : Act Unit := do
  let s ← get
  if keys.any s.ownedLine then throw .stall

/-- Traps POISON at the first poisoned byte of an access (R221, R375). -/
def poisonTrap (va : Nat) (keys : List Nat) : Act Unit := do
  let s ← get
  match (keys.zipIdx).find? fun p => s.poisoned p.1 with
  | some p => trap cPOISON (wordN ((va + p.2) % 2 ^ 56))
  | none => pure ()

/-! ### The fault ring -/

/-- The 256 bits of a fault-ring entry (R390). -/
def ringEntry (kind cause queue die acc id addr asid core reason : Nat) : Nat :=
  kind + cause * 2 ^ 8 + queue * 2 ^ 16 + die * 2 ^ 22 + acc * 2 ^ 24 + id * 2 ^ 32 + addr * 2 ^ 64 + asid * 2 ^ 128 +
    core * 2 ^ 144 + reason * 2 ^ 152

/-- An entry given to a die's fault ring: it waits until it can be written (R390). -/
def pushRing (s : State) (d e : Nat) : State :=
  let r := s.die d
  s.setDie d { r with ring := { r.ring with out := r.ring.out ++ [e] } }

/-! ### Memory as the part itself reaches it for a program -/

/-- Translates bytes for a die's own access for a program (R341, R342, R348): through the die's TLB. -/
def partTrans (k : Nat × Nat) (n : Need) (va len : Nat) : Act (List Nat) := do
  let p ← gets fun s => s.prog k
  (span va len).mapM fun a => do
    let (_, key) ← transFor k.1 none p.asid p.spawning n (a % 2 ^ 56)
    pure key

/-- Reads bytes for a program as the part. -/
def partRead (k : Nat × Nat) (va len : Nat) : Act (List Byte) := do
  let keys ← partTrans k .read va len
  awaitOwner keys
  poisonTrap va keys
  let s ← get
  let (bs, s) := maskSpill s keys (memGets s.mem keys)
  set (touchL1 s (.slot k.1 0 0 0) false false keys)
  pure bs

/-- Writes bytes for a program as the part. -/
def partWrite (k : Nat × Nat) (va : Nat) (bs : List Byte) : Act Unit := do
  let keys ← partTrans k .write va bs.length
  awaitOwner keys
  awaitClaims keys
  mods fun s =>
    let s := touchL1 s (.slot k.1 0 0 0) false true keys
    { s with mem := memSets s.mem keys bs }

/-- The fault service's log for the driver: an access ended in PROT at an address whose walk meets a malformed entry (R341). -/
def State.logWalk (s : State) (d asid cause addr : Nat) : State :=
  let va := addr % 2 ^ 56
  if cause = cPROT ∧ va < 2 ^ 48 ∧ walk s asid va = .malformed ∧ !(s.die d).walkLog.contains (asid, va) then
    s.setDie d { s.die d with walkLog := (s.die d).walkLog ++ [(asid, va)] }
  else s

/-! ### The dynamic region (R371) -/

/-- The physical key of an address of the driver's: host memory where bit 63 is 1 (R389). -/
def physKey (a : Nat) : Nat := (if a.testBit 63 then 2 ^ 52 else 0) + a % 2 ^ 52

/-- Whether there is a byte of memory at a physical key: HBM ends at 384 GiB (R10, R13); what lies behind the host's and the other
devices' addresses is theirs. -/
def keyExists (k : Nat) : Bool := keySpace k != 0 || decide (k < hbmBytes)

/-- Whether all bytes of a run at a driver's address exist (R389). -/
def runExists (a n : Nat) : Bool := keyExists (physKey a) && keyExists (physKey a + (n - 1))

/-- Records of 1 KiB in an extent of 2 MiB that ends in its link. -/
def recordsPerExtent : Nat := 2047

/-- Where an extent's link lies. -/
def extentLink (va : Nat) : Nat := va + (2 ^ 21 - 8)

/-- The extent after one, 0 for none. DYNEXT and the links hold addresses as EXTENT gives one: physical, of host memory where bit 63
is 1 (R389; DEDUCED, log 28). -/
def nextExtent (s : State) (at' : Nat) : Nat := leNat (memGets s.mem (span (physKey (extentLink at')) 8))

/-- Whether a chain of extents holds n records; `fuel` bounds the extents looked at. -/
def chainHolds (s : State) : Nat → Nat → Nat → Bool
  | 0, _, n => n == 0
  | fuel + 1, at', n =>
    if n = 0 then true
    else if at' = 0 then false
    else if n ≤ recordsPerExtent then true
    else chainHolds s fuel (nextExtent s at') (n - recordsPerExtent)

/-- DYNEXT of a program's context area (R370); 0 where it cannot be read. -/
def dynExt (s : State) (k : Nat × Nat) : Nat :=
  match (partRead k ((s.prog k).ctx + 32) 8).run s with
  | .ok (bs, _) => leNat bs
  | .error _ => 0

/-- The places of a program's records in its dynamic region: of parked threads and of inline frames. -/
def recordsUsed (s : State) (k : Nat × Nat) : List Nat :=
  ((s.prog k).runList.flatMap fun x => x.record :: x.agent.frames.map Frame.record) ++
  (s.agents.filter fun (a, r) => isSlot a && dieOf a == k.1 && r.core == k.2 && r.live).flatMap fun x => x.2.frames.map Frame.record

/-- Whether n more records find room. -/
def dynRoom (s : State) (k : Nat × Nat) (n : Nat) : Bool :=
  let m := (recordsUsed s k).length + n
  chainHolds s (m / recordsPerExtent + 1) (dynExt s k) m

/-- The fault service asks the driver for another extent, once, for an agent of the program (R371, R390). -/
def requestExtent (s : State) (k : Nat × Nat) (who : AgentId) : State :=
  let r := s.die k.1
  if r.extents.any fun x => x.core == k.2 then s
  else
    let p := s.prog k
    pushRing (s.setDie k.1 { r with
      extents := r.extents ++ [⟨r.nextFault, k.2, if isSlot who then (s.agent who).ctx.tid.toNat else 2 ^ 32 - 1, spurOf who,
        (s.agent who).ctx.pc⟩]
      nextFault := r.nextFault % (2 ^ 32 - 1) + 1 }) k.1 (ringEntry 0x02 0 0 k.1 0 r.nextFault p.ctx p.asid k.2 0)

end Sys2Proof.Machine
end

