-- ==== Sys2Proof/Machine/Record.lean ====
section
/-! DEFINITION. The record of a thread's context and its place in the dynamic region of a context area (14_recovery.md R368, R369,
R371, R375; 11_scheduling.md R310, 10_spawn.md R279). -/

namespace Sys2Proof.Machine

/-- A field: a value at its lowest bit. -/
def fieldAt (v lo : Nat) : Nat := v * 2 ^ lo

/-- The outermost thread of an agent: of a slot that runs inline children, the parent of them all (R325). -/
def Agent.outer (a : Agent) : Nat × Nat :=
  match a.frames.getLast? with
  | some f => (f.tag, f.ctx.tid.toNat)
  | none => (a.tag, a.ctx.tid.toNat)

/-- The member of a notice that a thread is (R325): one that has ended is a member no more, so that a later thread of its number
is none. -/
def Notice.member (n : Notice) (who : Nat × Nat) : Option Member :=
  n.members.find? fun m => decide ((m.tag, m.tid) = who) && !m.gone

/-! ### The record (R369) -/

/-- The window code of R62. -/
def windowCode (w : Nat) : Nat :=
  match w with
  | 8 => 0
  | 16 => 1
  | 32 => 2
  | 48 => 3
  | 64 => 4
  | _ => 5

/-- A spur's notice as a thread that starts now finds it. -/
def Notice.sight (n : Notice) (who : Nat × Nat) : Nat × Bool × Bool :=
  (n.seq, (n.member who).any Member.acked, (n.member who).any Member.woken)

/-- ACKED and WOKEN of a thread (R324): those of its slot's member; to an inline child, a thread that starts with neither, only what
has been set since it started. -/
def Notice.shown (n : Notice) (who : Nat × Nat) (fs : List Frame) : Bool × Bool :=
  let x := (n.sight who).2
  match fs with
  | [] => x
  | f :: _ => if f.seen.1 = n.seq then (x.1 && !f.seen.2.1, x.2 && !f.seen.2.2) else x

/-- WOKEN, WAKE and ACKED of a thread at their places in POOLST (R324). -/
def poolstBits (p : Spur) (who : Nat × Nat) (fs : List Frame) (wake : Bool) : Nat :=
  let x := p.notice.shown who fs
  let b (x : Bool) : Nat := if x then 1 else 0
  fieldAt (b x.2) 18 + fieldAt (b wake) 17 + fieldAt (b x.1) 16

/-- The window of a code of R62; the codes it leaves out give the largest. -/
def codeWindow (n : Nat) : Nat := [8, 16, 32, 48, 64].getD n 96

/-- A thread record (R369); `poolst` its POOLST bits, `inl` the address of its enclosing inline frame's record. -/
def threadRecord (c : Ctx) (poolst inl : Nat) : List Byte :=
  let preds := (c.preds.toNat / 2 * 2) % 2 ^ 8 + (if c.side then 2 ^ 8 else 0) + windowCode c.window * 2 ^ 9
  let taint := (c.taint.filter (· < 96)).eraseDups.foldl (fun t n => t + 2 ^ n) 0
  (List.range 96).flatMap (fun n => leBytes 8 (if n < c.window then (c.rs n).toNat else 0)) ++
  leBytes 8 c.pc.toNat ++ leBytes 8 preds ++ leBytes 16 taint ++
  ([c.fcsr, c.srseed, c.wlim, c.tvec, c.tcause, c.tval, c.tpc] ++ (List.range 8).map (fun n => tabGet c.ksh n 0) ++
    [c.ring, c.gangid, c.frm, wordN poolst, c.tid, c.tcount, c.spwid, c.parent, c.nlevel, c.instret]).flatMap
    (fun w => leBytes 8 w.toNat) ++
  leBytes 8 inl ++ List.replicate 16 0

/-- Where the poison of a context's registers stands in its record (R369, R375). -/
def recordPoison (c : Ctx) : List Nat := (c.poison.filter fun n => decide (n < c.window)).map fun n => 8 * n

/-- A context with the registers of a record of its own (R369), by the 8-byte words of the record: FCSR, KSH, RING and the other registers
with reserved fields hold values that they can. A thread's g registers are no part of its record. -/
def Ctx.ofWords (c : Ctx) (f : Nat → Word) : Ctx :=
  let bit (w i : Nat) : Bool := (f w).getLsbD i
  let frm := f 117 &&& 0x1FFF#64
  { c with
    pc := f 96 &&& ~~~3#64
    regs := (List.range 95).map (fun i => (i + 1, f (i + 1))) ++ c.regs.filter (fun x => decide (96 ≤ x.1))
    preds := BitVec.ofNat 8 ((f 97).toNat / 2 * 2 + 1)
    side := bit 97 8, window := codeWindow ((f 97).toNat / 2 ^ 9 % 8)
    taint := (List.range 96).filter fun i => i ≠ 0 && bit (98 + i / 64) (i % 64)
    fcsr := (f 100 &&& 0x7F01F#64) ||| wordN ((f 100).toNat / 32 % 8 % 6 * 32)
    srseed := f 101, wlim := f 102 &&& 0xFFFFFFFFFFFF#64, tvec := f 103 &&& ~~~3#64, tcause := f 104 &&& 0x1FF#64
    tval := f 105, tpc := f 106
    ksh := (List.range 8).map fun i => (i, f (107 + i) &&& 0xFFFFFFFFFF#64)
    ring := f 115 &&& 0x1FFFF#64, gangid := f 116 &&& 0xFF#64, frm := frm, inFrame := frm.getLsbD 12 && c.inFrame
    wake := bit 118 17, tid := f 119 &&& 0xFFFFFFFF#64, tcount := f 120 &&& 0xFFFFFFFF#64, spwid := f 121
    parent := f 122 &&& 0xFFFFFFFF#64, nlevel := f 123 &&& 0x3F#64, instret := f 124 }

/-- The n-th 8-byte word of some bytes. -/
def wordAt (bs : List Byte) (n : Nat) : Word := wordN (leNat ((bs.drop (8 * n)).take 8))

/-- A context as its record's bytes have it now (R369, R372). -/
def Ctx.ofRecord (c : Ctx) (bs : List Byte) : Ctx := c.ofWords (wordAt bs)

/-- A context with every register of its record unspecified (R368): its image was changed by a store. -/
def Ctx.scramble (c : Ctx) (n : Nat) : Ctx :=
  { c with inFrame := Config.freeBit n }.ofWords fun i => Config.freeWord (n + i)

/-- How many free values it uses. -/
def scrambled : Nat := 256

/-- A master's context with every register of its record unspecified (R368): its window is the whole file. -/
def Ctx.scrambleMaster (c : Ctx) (n : Nat) : Ctx :=
  let x := c.scramble n
  { x with
    regs := x.regs.filter (fun r => decide (r.1 < 96)) ++ (List.range 32).map fun i => (96 + i, Config.freeWord (n + 160 + i))
    tid := c.tid, tcount := c.tcount, parent := c.parent, nlevel := c.nlevel, window := c.window }

/-! ### The dynamic region (R371) -/

/-- The least free place for a record. -/
def freeRecord (s : State) (k : Nat × Nat) : Nat :=
  let used := recordsUsed s k
  ((List.range (used.length + 1)).find? fun n => !used.contains n).getD used.length

/-- The n-th extent of a chain, 0 where it has none. -/
def extentAt (s : State) : Nat → Nat → Nat
  | 0, at' => at'
  | n + 1, at' => if at' = 0 then 0 else extentAt s n (nextExtent s at')

/-- The address of a record's place in the dynamic region, 0 where the chain does not reach it. -/
def recordAt (s : State) (k : Nat × Nat) (n : Nat) : Nat :=
  match extentAt s (n / recordsPerExtent) (dynExt s k) with
  | 0 => 0
  | at' + 1 => at' + 1 + n % recordsPerExtent * 1024

/-- The keys of n bytes at an address of the dynamic region. -/
def dynKeys (at' n : Nat) : List Nat := span (physKey at') n

/-- The address of the record of an agent's innermost frame, 0 where it has none. -/
def frameAt (s : State) (k : Nat × Nat) (fs : List Frame) : Nat :=
  match fs with
  | [] => 0
  | f :: _ => recordAt s k f.record

/-- A thread's record as its agent stands, with the frames that enclose it. -/
def agentRecord (s : State) (k : Nat × Nat) (sp : Spur) (who : Nat × Nat) (c : Ctx) (fs : List Frame) : List Byte :=
  threadRecord c (poolstBits sp who fs c.wake) (frameAt s k fs)

/-- Lines of memory poisoned. -/
def poisonLines (keys : List Nat) (s : State) : State := { s with bad := (s.bad ++ keys.map (· / 64)).eraseDups }

/-- Whether an access to bytes of the dynamic region must wait at its home: for an engine that owns a line of them (R208), or for the
queue of a claimed word (R233). -/
def dynBusy (s : State) (at' n : Nat) : Bool :=
  at' != 0 && ((dynKeys at' n).any s.ownedLine || claimedWord s (dynKeys at' n))

/-- Whether the place of a record is. -/
def recordBusy (s : State) (k : Nat × Nat) (n : Nat) : Bool := dynBusy s (recordAt s k n) 1024

/-- Bytes written in the dynamic region, by a die, with poisoned words at some offsets. -/
def dynWrite (d at' : Nat) (bs : List Byte) (bad : List Nat) (s : State) : State :=
  if at' = 0 then s
  else
    let keys := dynKeys at' bs.length
    let s := touchL1 s (.slot d 0 0 0) false true keys
    poisonLines (bad.map fun o => physKey (at' + o)) { s with mem := memSets s.mem keys bs }

/-- A record written at its place, with the poison of its registers (R369, R375). -/
def putRecord (k : Nat × Nat) (n : Nat) (who : AgentId) (a : Agent) (s : State) : State :=
  dynWrite k.1 (recordAt s k n) (agentRecord s k (s.spur (k.1, spurOf who)) a.outer a.ctx a.frames) (recordPoison a.ctx) s

/-- Whether a record at its place reads as a context has it. POOLST's ACKED and WOKEN are not compared: a notice may have changed
them. -/
def recordKept (s : State) (k : Nat × Nat) (n : Nat) (c : Ctx) (fs : List Frame) : Bool :=
  match recordAt s k n with
  | 0 => true
  | at' + 1 =>
    let old := memGets s.mem (dynKeys (at' + 1) 1024)
    let new := threadRecord c 0 (frameAt s k fs)
    old.take 944 == new.take 944 && old.drop 952 == new.drop 952

/-- The registers of a record whose lines have become poisoned since it was written (R374, R375); `at'` its key. -/
def recordHurt (s : State) (at' : Nat) (c : Ctx) : List Nat :=
  (List.range c.window).filter fun n => n ≠ 0 && s.poisoned (at' + 8 * n) && !c.poison.any fun m => m / 8 == n / 8

/-- A context with more poisoned registers. -/
def Ctx.hurt (c : Ctx) (ns : List Nat) : Ctx := { c with poison := c.poison ++ ns }

/-- A context read back from its record (R279, R310): unspecified where a store has changed the record (R368), a register poisoned
where its word is (R375). -/
def recordBack (k : Nat × Nat) (n : Nat) (c : Ctx) (fs : List Frame) (s : State) : Ctx × State :=
  match recordAt s k n with
  | 0 => (c, s)
  | at' + 1 =>
    let c' := c.hurt (recordHurt s (physKey (at' + 1)) c)
    if recordKept s k n c fs then (c', s)
    else (c'.scramble s.free, { s with free := s.free + scrambled })

end Sys2Proof.Machine
end

