-- ==== Sys2Proof/Machine/Ops.lean ====
section
/-! DEFINITION. The operations every instruction shares: the checks made before it (R44, R54), taking a trap (R352) and
returning from one (R361), completing, waiting, and memory accesses (07_ordering_rules.md, 08_memory_instr.md). -/

namespace Sys2Proof.Machine

/-- The outcomes of a step of this machine. -/
abbrev Out := Host.Outcome State Fault Refusal

/-- How an instruction's effect ends: it completes and the PC moves on; it completes and the PC goes elsewhere; or it
does not complete in this step and the agent stays at it. -/
inductive Fin where
  | adv
  | jump (pc : Word)
  | hold
  deriving DecidableEq, Repr

/-! ### Taking a trap and returning -/

/-- Starts the end of a program (R364): its agents issue nothing more. The first reason stands. -/
def startEnd (s : State) (k : Nat × Nat) (r : EndRec) : State :=
  let p := s.prog k
  match p.ending with
  | some _ => s
  | none => s.setProg k { p with ending := some r }

/-- The end that HALT asks for (R364). -/
def haltEnd : EndRec := ⟨0, 0, 0, 0, 2 ^ 32 - 1, 0, none, false⟩

/-- The TID and SPUR an exit record names: the thread's, or 0xFFFF_FFFF for a master (R370). -/
def endWho (s : State) : Nat × Nat :=
  if isSlot s.cur then (s.ctx.tid.toNat, spurOf s.cur) else (2 ^ 32 - 1, 0)

/-- TCAUSE.INH (R354). -/
def inhibited (c : Ctx) : Bool := c.tcause.getLsbD 8

/-- The handler's address: TVEC.ADDR * 4 (R352, R353). -/
def handler (c : Ctx) : Word := c.tvec &&& ~~~3#64

/-- The context at the entry of its handler for a trap (R352). -/
def Ctx.trapped (c : Ctx) (t : Trap) (tpc : Word) : Ctx :=
  { c with
    tpc := tpc
    tcause := 0x100#64 ||| BitVec.ofNat 64 t.cause
    tval := t.tval
    pc := handler c
    inFrame := false }

/-- Taking a trap with a given TPC, in one step (R352): a trap with INH set or without a handler ends the program
(R357). -/
def takeTrapAt (s : State) (t : Trap) (tpc : Word) : State :=
  let c := s.ctx
  let r (reason : Nat) : EndRec := ⟨reason, t.cause, t.tval, tpc, (endWho s).1, (endWho s).2, none, false⟩
  if inhibited c then startEnd s s.myKey (r 2)
  else if handler c = 0 then startEnd s s.myKey (r 1)
  else s.setMe { s.me with ctx := c.trapped t tpc, wait := .none }

/-- Taking a trap at the instruction: TPC holds its address, or that of its prefix, GANG or frame, which is where the PC
stands (R356). -/
def takeTrap (s : State) (t : Trap) : State := takeTrapAt s t s.ctx.pc

/-- Returning from a handler: the PC at TPC, INH clear (R361); with FRM.ACT set the frame at TPC goes on where FRM says
(R42). -/
def returnFromTrap (c : Ctx) : Ctx :=
  { c with pc := c.tpc, tcause := c.tcause &&& ~~~0x100#64, inFrame := c.frm.getLsbD 12 }

/-! ### Completing -/

/-- FRM's fields (R43). -/
def frmPass (f : Word) : Nat := f.toNat / 16 % 256
def frmIdx (f : Word) : Nat := f.toNat % 16
def frmAct (f : Word) : Bool := f.getLsbD 12
def frmOf (pass idx : Nat) : Word := BitVec.ofNat 64 (2 ^ 12 + pass * 16 + idx)

/-- The context after an instruction completed and the PC moves on: past one word, past a pair, or inside a frame as R40
advances FRM. -/
def Ctx.advance (c : Ctx) (m : Mode) : Ctx :=
  match m with
  | .plain => { c with pc := c.pc + 4, inFrame := false }
  | .prefixed => { c with pc := c.pc + 8, inFrame := false }
  | .ganged => { c with pc := c.pc + 8, inFrame := false }
  | .captured len iter =>
    let pass := frmPass c.frm
    let i := frmIdx c.frm
    if i + 1 < len then { c with frm := frmOf pass (i + 1), inFrame := true }
    else if pass + 1 < iter then { c with frm := frmOf (pass + 1) 0, inFrame := true }
    else { c with frm := 0, pc := c.pc + 4 + 4 * BitVec.ofNat 64 len, inFrame := false }

/-- An instruction completed (R359): the PC moves on and INSTRET counts it. -/
def retire (s : State) : State :=
  let c := s.ctx.advance s.mode
  s.setMe { s.me with ctx := { c with instret := c.instret + 1 }, wait := .none }

/-- A control transfer completed: the PC at its target. -/
def retireTo (s : State) (pc : Word) : State :=
  let c := s.ctx
  s.setMe { s.me with ctx := { c with pc := pc, inFrame := false, instret := c.instret + 1 }, wait := .none }

/-! ### Page faults -/

/-- The page number a fault is merged on: 4 KiB of the untagged address (R366). -/
def faultPage (va : Nat) : Nat := va % 2 ^ 56 / 4096

/-- Whether an address lies in a fault's page: the 4 KiB page, or the page that moves for a held access. -/
def FaultRec.holds (f : FaultRec) (va : Nat) : Bool := va % 2 ^ 56 / 2 ^ f.size == f.page * 4096 / 2 ^ f.size

/-- log2 of the page a fault is about: a held access waits for the whole page that moves, so that the service keeps the order in
which its accesses arrive (R215). -/
def faultSize (s : State) (asid va : Nat) (held : Bool) : Nat :=
  if held then
    match s.moves.find? fun m => m.asid == asid && va % 2 ^ 56 / 2 ^ m.size == m.va / 2 ^ m.size with
    | some m => m.size
    | none => 12
  else 12

/-- A fault before the die's fault service, merged with one on the same page of the same address space (R366); a held
access stands in the order of its arrival (R215); `dest` says that an engine's destination lies there (R208). -/
def addFaultFor (s : State) (k : Nat × Nat) (asid va acc : Nat) (held dest : Bool) (w : List Waiter) : State :=
  let r := s.die k.1
  if r.faults.any (fun f => f.asid == asid && f.holds va) then
    s.setDie k.1 { r with faults := r.faults.map fun f =>
      if f.asid = asid ∧ f.holds va then
        { f with held := f.held || held, dest := f.dest || dest, waiters := f.waiters ++ w.filter fun x => !f.waiters.contains x } else f }
  else
    s.setDie k.1 { r with
      faults := r.faults ++ [⟨r.nextFault, asid, faultPage va, va % 2 ^ 56, acc, k.2, faultSize s asid va held, held, dest, w, false⟩]
      nextFault := r.nextFault % (2 ^ 32 - 1) + 1 }

/-- A fault of an access. -/
def addFault (s : State) (k : Nat × Nat) (asid va acc : Nat) (held : Bool) (w : List Waiter) : State :=
  addFaultFor s k asid va acc held false w

/-- The executing agent as a fault's waiter. -/
def State.waiter (s : State) : Waiter :=
  match s.cur with
  | .slot d .. => .thread d s.me.core s.me.tag s.ctx.tid.toNat
  | a => .master (dieOf a) s.myKey.2

/-- Whether a thread waits for a page in a slot it gives up for it: no resident member does (R310). -/
def parks (who : AgentId) (a : Agent) : Bool :=
  isSlot who && a.live && !a.resident && (match a.wait with
    | .page _ => true
    | _ => false)

/-- A thread that waits for a page parks (R310): its accesses performed, its record written in the run list, its window and its
slot free. Without room in the dynamic region it waits for an extent in its slot (R371), and while an access of it, its record's among them,
must wait at its home, for that. -/
def parkThread (s : State) (who : AgentId) : State :=
  let k := s.progKey who
  if !parks who (s.agent who) then s
  else if !dynRoom s k 1 then requestExtent s k who
  else if recordBusy s k (freeRecord s k) then s
  else
    let s := drainAll s who
    let a := { s.agent who with ahead := [] }
    if !a.pend.isEmpty then s else
    let page := match a.wait with
      | .page va => faultPage va
      | _ => 0
    let p := s.prog k
    let n := freeRecord s k
    let s := putRecord k n who a s
    let s := s.setProg k { p with runList := p.runList ++ [⟨n, a, spurOf who, false, p.asid, page⟩] }
    let sk := (dieOf who, spurOf who)
    (s.setSpur sk ((s.spur sk).unplace who)).setAgent who Agent.blank

/-- The threads of a program that could not park try again. -/
def parkWaiting (s : State) (k : Nat × Nat) : State :=
  ((s.agents.filter fun x => parks x.1 x.2 && s.progKey x.1 == k).map (·.1)).foldl parkThread s

/-- The executing agent's fault before the fault service (R215, R366). -/
def faulted (s : State) (va acc : Nat) (held : Bool) : State :=
  addFault (s.setMe { s.me with wait := .page va, wmode := s.mode }) s.myKey s.myProg.asid va acc held [s.waiter]

/-- The executing agent waits for the fault service (R215, R366). -/
def waitPage (s : State) (va acc : Nat) (held : Bool) : State := parkThread (faulted s va acc held) s.cur

/-! ### The frame around every instruction -/

/-- Where an instruction may execute (R44): TM, T, M, P. -/
inductive Where where
  | tm
  | t
  | m
  | p
  deriving DecidableEq, Repr

/-- How an instruction uses a register field: reads, writes or both, a scalar or a vector; a group of scalars it reads
or writes (R36). -/
inductive Opd where
  | r (n : Nat)
  | w (n : Nat)
  | rw (n : Nat)
  | vr (n : Nat)
  | vw (n : Nat)
  | vrw (n : Nat)
  | grp (n k : Nat)
  | wgrp (n k : Nat)
  deriving DecidableEq, Repr

/-- A group that runs from s95 into g0, or past g31, lies in no class (R36). -/
def Opd.badGroup : Opd → Bool
  | .grp n k => (decide (n < 96) && decide (96 < n + k)) || decide (128 < n + k)
  | .wgrp n k => (decide (n < 96) && decide (96 < n + k)) || decide (128 < n + k)
  | _ => false

/-- A destination that names a g or vg register (R27, R28). -/
def Opd.writesG : Opd → Bool
  | .w n => decide (96 ≤ n)
  | .rw n => decide (96 ≤ n)
  | .vw n => decide (48 ≤ n)
  | .vrw n => decide (48 ≤ n)
  | _ => false

/-- A group of destinations in the g registers (R260). -/
def Opd.groupG : Opd → Bool
  | .wgrp n _ => decide (96 ≤ n)
  | _ => false

/-- The scalar register fields an operand names (R28: a vector names two). -/
def Opd.regs : Opd → List Nat
  | .r n => [n]
  | .w n => [n]
  | .rw n => [n]
  | .vr n => [2 * n, 2 * n + 1]
  | .vw n => [2 * n, 2 * n + 1]
  | .vrw n => [2 * n, 2 * n + 1]
  | .grp n k => span n k
  | .wgrp n k => span n k

/-- The scalar register fields an operand reads; v0 reads zero whatever s1 holds. -/
def Opd.reads : Opd → List Nat
  | .w _ => []
  | .vw _ => []
  | .wgrp .. => []
  | .vr n => if n = 0 then [] else [2 * n, 2 * n + 1]
  | .vrw n => if n = 0 then [] else [2 * n, 2 * n + 1]
  | o => o.regs

/-- The first register beyond the window (R27, R28). R356 calls TVAL the register number: for a vector operand the model gives that
of the scalar register beyond the window, 2n or 2n + 1 (DESIGN CHOICE, log 22). -/
def beyondWindow (w : Nat) (os : List Opd) : Option Nat :=
  (os.flatMap Opd.regs).find? fun n => decide (n < 96) && decide (w ≤ n)

/-- The trap of an instruction's place (R44): thread-only on a master, master-only in a thread, privileged in program
code. A service core runs P and TM instructions (log 6). -/
def whereTrap (w : Where) (a : AgentId) (iw : Nat) : Option Trap :=
  let t (c : Nat) : Option Trap := some ⟨c, BitVec.ofNat 64 iw⟩
  match w with
  | .tm => none
  | .t => if isSlot a then none else t cILLOP
  | .m => if isSlot a then t cPRIV else if isMaster a then none else t cILLOP
  | .p => if isService a then none else t cPRIV

/-- The checks of R54 before an instruction's own: ILLOP, PRIV, REGWIN. -/
def placeCheck (w : Where) (os : List Opd) (s : State) : Option Trap :=
  let iw := BitVec.ofNat 64 s.iw
  if whereTrap w s.cur s.iw = some ⟨cILLOP, iw⟩ ∨ os.any Opd.badGroup then some ⟨cILLOP, iw⟩
  else if (whereTrap w s.cur s.iw).isSome ∨ (isSlot s.cur ∧ os.any Opd.writesG) then some ⟨cPRIV, iw⟩
  else if isSlot s.cur then (beyondWindow s.ctx.window os).map fun n => ⟨cREGWIN, BitVec.ofNat 64 n⟩
  else none

/-- The checks that come after them: a thread's group of destinations in the g registers traps PRIV (R266); then poisoned registers
(R375). That the POISON of a source comes before all traps that are the instruction's own is the model's choice, since R54 does not
place it (DESIGN CHOICE, log 22). -/
def sourceCheck (os : List Opd) (s : State) : Option Trap :=
  if isSlot s.cur ∧ os.any Opd.groupG then some ⟨cPRIV, BitVec.ofNat 64 s.iw⟩
  else ((os.flatMap Opd.reads).find? fun n => s.ctx.poison.contains n).map fun n => ⟨cPOISON, BitVec.ofNat 64 (2 ^ 60 + n)⟩

/-- All the checks before an instruction's effect. -/
def precheck (w : Where) (os : List Opd) (s : State) : Option Trap :=
  match placeCheck w os s with
  | some t => some t
  | none => sourceCheck os s

/-- The checks of a vector instruction whose mask is false: ILLOP and PRIV only (R123). -/
def precheckMasked (w : Where) (os : List Opd) (s : State) : Option Trap :=
  let iw := BitVec.ofNat 64 s.iw
  if whereTrap w s.cur s.iw = some ⟨cILLOP, iw⟩ then some ⟨cILLOP, iw⟩
  else if isSlot s.cur ∧ os.any Opd.writesG then some ⟨cPRIV, iw⟩
  else none

/-- Ridge results still on their way to a register (R287) that an operand names. -/
def ridgeBusy (s : State) (os : List Opd) : Bool :=
  s.me.ridge.any fun p => (os.flatMap Opd.regs).contains p.1

/-- The oldest Ridge result written to its register (R287). -/
def deliverRidge (s : State) : State :=
  match s.me.ridge with
  | [] => s
  | (d, v) :: r => s.setMe { s.me with ctx := s.ctx.ws d v false, ridge := r }

/-- A member of a notice changed, unless it has ended. -/
def Notice.update (n : Notice) (who : Nat × Nat) (f : Member → Member) : Notice :=
  { n with members := n.members.map fun m => if (m.tag, m.tid) = who ∧ m.gone = false then f m else m }

/-- WOKEN set for the executing thread's member (R328). -/
def markWoken (s : State) : State :=
  let p := s.spur s.mySpurKey
  s.setSpur s.mySpurKey { p with notice := p.notice.update s.me.outer fun m => { m with woken := true } }

/-- The wake trap of a shrink notice (R328): the value of TVAL names the notice. -/
def wakeTval (n : Notice) : Word := BitVec.ofNat 64 (0x22 * 2 ^ 56 + n.seq)

/-- What an instruction's effect makes of the state (R53): complete, moved, waiting, or a trap with no other effect. -/
def settle (s : State) (r : Except Stop (Fin × State)) : State :=
  match r with
  | .ok (.adv, t) => retire t
  | .ok (.jump pc, t) => retireTo t pc
  | .ok (.hold, t) => t
  | .error (.trap t) => takeTrap s t
  | .error (.page va w h) => waitPage s va w h
  | .error (.wake v) => takeTrap (markWoken s) ⟨cPOOLREF, v⟩
  | .error .stall => s

/-- Whether an instruction that may execute here waits for a Ridge result that an operand names (R287): its registers are read when
the result is there. -/
def ridgeWaits (w : Where) (os : List Opd) (s : State) : Bool := (placeCheck w os s).isNone && ridgeBusy s os

/-- One instruction of the executing agent: the checks, then its effect. An operand that a Ridge result is still to be
written to waits for it (R287). -/
def runInstr (w : Where) (os : List Opd) (body : Act Fin) (s : State) : Out :=
  if ridgeWaits w os s then .next (deliverRidge s)
  else
    match precheck w os s with
    | some t => .next (takeTrap s t)
    | none => .next (settle s (body.run s))

/-- A vector instruction under its mask (R35, R123). -/
def runMasked (m : Nat) (os : List Opd) (body : Act Fin) (s : State) : Out :=
  if s.ctx.q m then runInstr .tm os body s
  else
    match precheckMasked .tm os s with
    | some t => .next (takeTrap s t)
    | none => .next (retire s)

/-! ### Floating-point environment of an instruction -/

/-- The environment of an instruction whose rounding code is `code` (R73, R76): the master's TID reads zero. -/
def fenvOf (s : State) (code : Nat) : FEnv :=
  let c := s.ctx
  { rm := effRm c.fcsr code, ftz := fcsrFtz c.fcsr, sat8 := fcsrSat8 c.fcsr, seed := c.srseed,
    tid := if isSlot s.cur then c.tid else 0 }

/-- Raises flags: an enabled one traps FPE with every flag in TVAL, else they are ORed into FCSR (R79, R80). -/
def raiseFlags (fl : Flags) : Act Unit := do
  let s ← get
  let c := s.ctx
  trapIf (decide (fl &&& fcsrEnables c.fcsr ≠ 0)) cFPE (fl.zeroExtend 64)
  set (s.setCtx { c with fcsr := fcsrRaise c.fcsr fl })

/-- ORs flags into FCSR without a trap, as the matrix instructions do (R80). -/
def orFlags (fl : Flags) : Act Unit :=
  mods fun s => s.setCtx { s.ctx with fcsr := fcsrRaise s.ctx.fcsr fl }

/-- SRSEED advances once when the effective mode is RS (R76). -/
def bumpSeed (v : FEnv) : Act Unit :=
  if v.rm = 5 then mods fun s => s.setCtx { s.ctx with srseed := advanceSeed s.ctx.srseed } else pure ()

/-- The wake trap of a member of a pending notice that has neither acknowledged nor been woken, before it waits (R328). -/
def wakeCheck : Act Unit := do
  let s ← get
  if isSlot s.cur then
    let n := (s.spur s.mySpurKey).notice
    let due := (n.member s.me.outer).any fun m => !m.acked && !m.woken
    if n.pending && due && s.ctx.wake then throw (.wake (wakeTval n))

/-- A fresh free value's number (log 10). -/
def freshFree : Act Nat := do
  let s ← get
  set { s with free := s.free + 1 }
  pure s.free

end Sys2Proof.Machine
end

