-- ==== Sys2Proof/Machine/Operands.lean ====
section
/-! DEFINITION. Operand forms: sign extension, immediates, lanes of vectors, scalar floating-point operands
(02_encoding.md R28, R31, R35, 04_scalar_vector.md R94). -/

namespace Sys2Proof.Machine

/-- ea of format I: s[a] plus the scaled immediate (R219). -/
def eaImm (x : Word) (i : Int) (size : Nat) : Word := x + wordOf (i * size)

/-- Width in bits of a lane type (R123). -/
def laneWidth (l : Nat) : Nat := 128 / laneCount l

/-- Lane i of w bits of a vector (R123). -/
def laneAt (w : Nat) (v : BitVec 128) (i : Nat) : Nat := v.toNat / 2 ^ (i * w) % 2 ^ w

/-- The lanes of a vector, lowest first. -/
def lanes (w n : Nat) (v : BitVec 128) : List Nat := (List.range n).map (laneAt w v)

/-- The number whose w-bit digits are the lanes, lowest first. -/
def packNat (w : Nat) : List Nat → Nat
  | [] => 0
  | x :: xs => x % 2 ^ w + 2 ^ w * packNat w xs

/-- A vector of lanes, zero above them. -/
def packLanes (w : Nat) (xs : List Nat) : BitVec 128 := BitVec.ofNat 128 (packNat w xs)

/-- The low w bits of an integer. -/
def truncN (w : Nat) (z : Int) : Nat := (z % (2 ^ w : Int)).toNat

/-- The format of a floating-point lane type 4 to 7 (R35). -/
def laneFmt (l : Nat) : Fmt :=
  match l with
  | 4 => fp16
  | 5 => bf16
  | 6 => fp32
  | _ => fp64

/-- The format a scalar floating-point type field names: FP64, FP32, FP16, BF16 (R46). -/
def typeFmt (t : Nat) : Fmt :=
  match t with
  | 0 => fp64
  | 1 => fp32
  | 2 => fp16
  | _ => bf16

/-- A scalar floating-point operand: the low bits of its register (R94). -/
def fpBits (f : Fmt) (x : Word) : Nat := x.toNat % 2 ^ f.width

end Sys2Proof.Machine
end

