-- ==== Sys2Proof/Machine/Alu.lean ====
section
/-! DEFINITION. Integer, address and predicate instructions, majors 0x01 to 0x18 (04_scalar_vector.md R95 to R108). -/

namespace Sys2Proof.Machine

/-! ### Arithmetic -/

/-- SHL, SHR, SRA by a count (R97). -/
def shl64 (x : Word) (c : Nat) : Word := x <<< c
def shr64 (x : Word) (c : Nat) : Word := x >>> c
def sra64 (x : Word) (c : Nat) : Word := x.sshiftRight c

/-- A shift count: the low six bits (R97). -/
def cnt6 (y : Word) : Nat := y.toNat % 64

/-- The quotients and remainders of R72. -/
def div64 (x y : Word) : Word := if y = 0 then BitVec.allOnes 64 else wordOf (x.toInt.tdiv y.toInt)
def divu64 (x y : Word) : Word := if y = 0 then BitVec.allOnes 64 else wordN (x.toNat / y.toNat)
def rem64 (x y : Word) : Word := if y = 0 then x else wordOf (x.toInt.tmod y.toInt)
def remu64 (x y : Word) : Word := if y = 0 then x else wordN (x.toNat % y.toNat)

/-- Zero bits above the highest set bit (R99). -/
def clz64 (x : Word) : Word := if x = 0 then 64 else wordN (63 - Nat.log2 x.toNat)

/-- Zero bits below the lowest set bit (R99). -/
def ctzFrom : Nat → Nat → Nat
  | 0, _ => 0
  | n + 1, x => if x % 2 = 1 then 0 else 1 + ctzFrom n (x / 2)

/-- Set bits (R99). -/
def popFrom : Nat → Nat → Nat
  | 0, _ => 0
  | n + 1, x => x % 2 + popFrom n (x / 2)

/-- PADD: the sum within bits [55:0], the tag of the first operand kept (R105). -/
def padd64 (x y : Word) : Word := wordN (x.toNat / 2 ^ 56 * 2 ^ 56 + (x.toNat % 2 ^ 56 + y.toNat) % 2 ^ 56)

/-- PTAG: a tag over an address (R106). -/
def ptag64 (x : Word) (t : Nat) : Word := wordN (t % 256 * 2 ^ 56 + x.toNat % 2 ^ 56)

/-- The field of a descriptor (R104): position, length, sign extension. -/
def bfPos (y : Word) : Nat := y.toNat % 64
def bfLen (y : Word) : Nat := min (y.toNat / 64 % 128) (64 - bfPos y)
def bfSx (y : Word) : Bool := y.getLsbD 13

/-- BFX (R104). -/
def bfx64 (x y : Word) : Word :=
  let f := x.toNat / 2 ^ bfPos y % 2 ^ bfLen y
  if bfSx y ∧ 0 < bfLen y then wordOf (sextN (bfLen y) f) else wordN f

/-- BFI (R104). -/
def bfi64 (d x y : Word) : Word :=
  let m : Word := wordN ((2 ^ bfLen y - 1) * 2 ^ bfPos y)
  (d &&& ~~~m) ||| ((x <<< bfPos y) &&& m)

/-- The conditions of CMP (R34). -/
def cmpCond (cond : Nat) (x y : Word) : Bool :=
  match cond with
  | 0 => x == y
  | 1 => x != y
  | 2 => x.slt y
  | 3 => !(x.slt y)
  | 4 => x.ult y
  | 5 => !(x.ult y)
  | _ => (x &&& y) != 0

/-! ### The shapes of these instructions -/

/-- Two registers to one, with the taint of R95. -/
def alu2 (f : Word → Word → Word) (d a b : Nat) (s : State) : Out :=
  runInstr .tm [.w d, .r a, .r b] (do
    let t ← gets fun s => s.ctx.tainted a || s.ctx.tainted b
    wrT d (f (← rdS a) (← rdS b)) t
    pure .adv) s

/-- One register to one. -/
def alu1 (f : Word → Word) (d a : Nat) (s : State) : Out :=
  runInstr .tm [.w d, .r a] (do
    let t ← gets fun s => s.ctx.tainted a
    wrT d (f (← rdS a)) t
    pure .adv) s

/-- A comparison to a predicate (R107). -/
def cmpTo (cond : Nat) (q a : Nat) (y : Act Word) (os : List Opd) (s : State) : Out :=
  runInstr .tm (.r a :: os) (do
    wrQ q (cmpCond cond (← rdS a) (← y))
    pure .adv) s

/-- A predicate operation (R108). -/
def qop (f : Bool → Bool → Bool) (d a b : Nat) (s : State) : Out :=
  runInstr .tm [] (do
    wrQ d (f (← rdQ a) (← rdQ b))
    pure .adv) s

/-! ### One meaning an instruction -/

def execAdd (d a b : Nat) (s : State) : Out := alu2 (· + ·) d a b s
def execSub (d a b : Nat) (s : State) : Out := alu2 (· - ·) d a b s
def execAnd (d a b : Nat) (s : State) : Out := alu2 (· &&& ·) d a b s
def execOr (d a b : Nat) (s : State) : Out := alu2 (· ||| ·) d a b s
def execXor (d a b : Nat) (s : State) : Out := alu2 (· ^^^ ·) d a b s
def execAndn (d a b : Nat) (s : State) : Out := alu2 (fun x y => x &&& ~~~y) d a b s
def execMin (d a b : Nat) (s : State) : Out := alu2 (fun x y => if x.slt y then x else y) d a b s
def execMax (d a b : Nat) (s : State) : Out := alu2 (fun x y => if x.slt y then y else x) d a b s
def execMinu (d a b : Nat) (s : State) : Out := alu2 (fun x y => if x.ult y then x else y) d a b s
def execMaxu (d a b : Nat) (s : State) : Out := alu2 (fun x y => if x.ult y then y else x) d a b s
def execShl (d a b : Nat) (s : State) : Out := alu2 (fun x y => shl64 x (cnt6 y)) d a b s
def execShr (d a b : Nat) (s : State) : Out := alu2 (fun x y => shr64 x (cnt6 y)) d a b s
def execSra (d a b : Nat) (s : State) : Out := alu2 (fun x y => sra64 x (cnt6 y)) d a b s
def execRotr (d a b : Nat) (s : State) : Out :=
  alu2 (fun x y => shr64 x (cnt6 y) ||| shl64 x (64 - cnt6 y)) d a b s
def execMul (d a b : Nat) (s : State) : Out := alu2 (· * ·) d a b s
def execMulh (d a b : Nat) (s : State) : Out := alu2 (fun x y => wordOf (x.toInt * y.toInt / 2 ^ 64)) d a b s
def execMulhu (d a b : Nat) (s : State) : Out := alu2 (fun x y => wordN (x.toNat * y.toNat / 2 ^ 64)) d a b s
def execDiv (d a b : Nat) (s : State) : Out := alu2 div64 d a b s
def execDivu (d a b : Nat) (s : State) : Out := alu2 divu64 d a b s
def execRem (d a b : Nat) (s : State) : Out := alu2 rem64 d a b s
def execRemu (d a b : Nat) (s : State) : Out := alu2 remu64 d a b s
def execClz (d a : Nat) (s : State) : Out := alu1 clz64 d a s
def execCtz (d a : Nat) (s : State) : Out := alu1 (fun x => wordN (ctzFrom 64 x.toNat)) d a s
def execPopc (d a : Nat) (s : State) : Out := alu1 (fun x => wordN (popFrom 64 x.toNat)) d a s

/-- SEL (R103): the taint is that of both sources. -/
def execSel (d a b q : Nat) (s : State) : Out :=
  runInstr .tm [.w d, .r a, .r b] (do
    let t ← gets fun s => s.ctx.tainted a || s.ctx.tainted b
    let x ← rdS a
    let y ← rdS b
    wrT d (if ← rdQ q then x else y) t
    pure .adv) s

def execPadd (d a b : Nat) (s : State) : Out := alu2 padd64 d a b s

def execQopAnd (d a b : Nat) (s : State) : Out := qop (· && ·) d a b s
def execQopOr (d a b : Nat) (s : State) : Out := qop (· || ·) d a b s
def execQopXor (d a b : Nat) (s : State) : Out := qop (· != ·) d a b s
def execQopAndn (d a b : Nat) (s : State) : Out := qop (fun x y => x && !y) d a b s
def execQopOrn (d a b : Nat) (s : State) : Out := qop (fun x y => x || !y) d a b s
def execQopXnor (d a b : Nat) (s : State) : Out := qop (· == ·) d a b s
def execQopNot (d a : Nat) (s : State) : Out := qop (fun x _ => !x) d a a s

def execCmpEq (q a b : Nat) (s : State) : Out := cmpTo 0 q a (rdS b) [.r b] s
def execCmpNe (q a b : Nat) (s : State) : Out := cmpTo 1 q a (rdS b) [.r b] s
def execCmpLt (q a b : Nat) (s : State) : Out := cmpTo 2 q a (rdS b) [.r b] s
def execCmpGe (q a b : Nat) (s : State) : Out := cmpTo 3 q a (rdS b) [.r b] s
def execCmpLtu (q a b : Nat) (s : State) : Out := cmpTo 4 q a (rdS b) [.r b] s
def execCmpGeu (q a b : Nat) (s : State) : Out := cmpTo 5 q a (rdS b) [.r b] s
def execCmpTst (q a b : Nat) (s : State) : Out := cmpTo 6 q a (rdS b) [.r b] s
def execCmpiEq (q a : Nat) (i : Int) (s : State) : Out := cmpTo 0 q a (pure (wordOf i)) [] s
def execCmpiNe (q a : Nat) (i : Int) (s : State) : Out := cmpTo 1 q a (pure (wordOf i)) [] s
def execCmpiLt (q a : Nat) (i : Int) (s : State) : Out := cmpTo 2 q a (pure (wordOf i)) [] s
def execCmpiGe (q a : Nat) (i : Int) (s : State) : Out := cmpTo 3 q a (pure (wordOf i)) [] s
def execCmpiLtu (q a : Nat) (i : Int) (s : State) : Out := cmpTo 4 q a (pure (wordOf i)) [] s
def execCmpiGeu (q a : Nat) (i : Int) (s : State) : Out := cmpTo 5 q a (pure (wordOf i)) [] s
def execCmpiTst (q a : Nat) (i : Int) (s : State) : Out := cmpTo 6 q a (pure (wordOf i)) [] s

def execBfx (d a b : Nat) (s : State) : Out := alu2 bfx64 d a b s

/-- BFI (R104) reads s[d] too, and its taint passes (R95). -/
def execBfi (d a b : Nat) (s : State) : Out :=
  runInstr .tm [.rw d, .r a, .r b] (do
    let t ← gets fun s => s.ctx.tainted a || s.ctx.tainted b || s.ctx.tainted d
    wrT d (bfi64 (← rdS d) (← rdS a) (← rdS b)) t
    pure .adv) s

def execAddi (d a : Nat) (i : Int) (s : State) : Out := alu1 (· + wordOf i) d a s
def execAndi (d a : Nat) (i : Int) (s : State) : Out := alu1 (· &&& wordOf i) d a s
def execOri (d a : Nat) (i : Int) (s : State) : Out := alu1 (· ||| wordOf i) d a s
def execXori (d a : Nat) (i : Int) (s : State) : Out := alu1 (· ^^^ wordOf i) d a s
def execShli (d a i : Nat) (s : State) : Out := alu1 (fun x => shl64 x i) d a s
def execShri (d a i : Nat) (s : State) : Out := alu1 (fun x => shr64 x i) d a s
def execSrai (d a i : Nat) (s : State) : Out := alu1 (fun x => sra64 x i) d a s
def execLih (d a : Nat) (i : Int) (s : State) : Out := alu1 (· + wordOf (i * 2 ^ 34)) d a s
def execPtag (d a t : Nat) (s : State) : Out := alu1 (fun x => ptag64 x t) d a s

end Sys2Proof.Machine
end

