-- ==== Sys2Proof/Machine/Blocks.lean ====
section
/-! DEFINITION. Element formats of typed pointers, blocked formats, and their decoding and encoding
(03_numbers.md R67 to R70, R86, R87, R89 to R93, 08_memory_instr.md R228). -/

namespace Sys2Proof.Machine

/-- A typed pointer's fields (R89). -/
def ptrFmt (p : Word) : Nat := p.toNat / 2 ^ 60
def ptrBlg (p : Word) : Nat := p.toNat / 2 ^ 56 % 16

/-- Element bits of a format code (R90). -/
def elemBits (f : Nat) : Nat :=
  match f with
  | 1 => 32
  | 2 => 16
  | 3 => 16
  | 8 => 4
  | 11 => 4
  | 12 => 64
  | _ => 8

/-- Formats with a scale byte a block (R90). -/
def blocked (f : Nat) : Bool := decide (6 ≤ f ∧ f ≤ 9)

/-- Whether R90 accepts a format code with a block length exponent. -/
def fmtOk (f blg : Nat) : Bool :=
  if f = 0 ∨ 13 ≤ f then false
  else if f = 9 then decide (3 ≤ blg ∧ blg ≤ 12)
  else if blocked f then blg == 5
  else blg == 0

/-- The floating-point format of the elements, where they have one (R90). -/
def elemFmt (f : Nat) : Option Fmt :=
  match f with
  | 1 => some fp32
  | 2 => some bf16
  | 3 => some fp16
  | 4 => some e4m3
  | 5 => some e5m2
  | 6 => some e4m3
  | 7 => some e5m2
  | 8 => some e2m1
  | 12 => some fp64
  | _ => none

/-- An integer as an exact value. -/
def intVal (z : Int) (e : Int) : FVal := .fin (decide (z < 0)) z.natAbs e

/-- One half of a PS2 code in units of 2^-7 (R70). -/
def ps2Term (h : Nat) : Int :=
  let e := h % 8
  if h / 8 % 2 = 1 then (if e = 0 then 0 else -((2 ^ e : Nat) : Int)) else ((2 ^ e : Nat) : Int)

/-- A PS2 code's value in units of 2^-7 (R70). -/
def ps2Units (c : Nat) : Int := ps2Term (c / 16) + ps2Term (c % 16)

/-- The exact value of an element's bits, without its scale (R65 to R71). -/
def elemVal (f : Nat) (x : Nat) : FVal :=
  match elemFmt f with
  | some g => g.read x
  | none => if f = 9 then intVal (ps2Units (x % 256)) (-7) else intVal (sextN (elemBits f) x) 0

/-- A value times 2^k. -/
def scaleVal (k : Int) : FVal → FVal
  | .fin n m e => .fin n m (e + k)
  | v => v

/-- The value of an element under its block's scale byte; a NaN scale makes every element NaN (R69, R70, R91). -/
def scaledVal (f : Nat) (x sc : Nat) : FVal :=
  if blocked f then (if sc = 255 then .nan true else scaleVal ((sc : Int) - 127) (elemVal f x)) else elemVal f x

/-- floor(log2 |x|) of a finite nonzero value. -/
def log2Val : FVal → Int
  | .fin _ m e => e + (Nat.log2 m : Int)
  | _ => 0

/-- The exponent X of R86 and whether it was lowered to 127, for the largest finite nonzero magnitude. -/
def blockExp (emax : Int) (xs : List FVal) : Int × Bool :=
  let nz := xs.filter fun x => !x.isZero
  let top := nz.foldl (fun (a : Int) x => max a (log2Val x)) (log2Val (nz.headD (.fin false 1 0)))
  let x := top - emax
  if x < -127 then (-127, false) else if 127 < x then (127, true) else (x, false)

/-- Whether |x| exceeds 2. -/
def beyondTwo (x : FVal) : Bool :=
  match x with
  | .fin _ m e => decide (0 < cmpVal (.fin false m e) (.fin false 2 0))
  | .inf _ => true
  | .nan _ => false

/-- The distance of a value from a PS2 code, in a common unit 2^e0 of values in units of 2^-7. -/
def ps2Dist (n : Bool) (m : Nat) (e : Int) (c : Nat) : Nat :=
  let e0 := min e (-7)
  (scaledInt n m e e0 - ps2Units c * ((2 ^ ((-7) - e0).toNat : Nat) : Int)).natAbs

/-- The nearest PS2 code of a finite value: the smaller magnitude of two equally near, the least code of a value (R87). -/
def ps2Near (n : Bool) (m : Nat) (e : Int) : Nat :=
  (List.range 256).foldl (fun best c =>
    let a := ps2Dist n m e c
    let b := ps2Dist n m e best
    if a < b ∨ (a = b ∧ (ps2Units c).natAbs < (ps2Units best).natAbs) then c else best) 0

/-- One element encoded against a scale 2^k (R86, R87): a magnitude beyond the format saturates, with NX, and with OF
too when `lowered`. -/
def encodeElem (f : Nat) (v : FEnv) (u : Nat) (lowered : Bool) (k : Int) (x : FVal) : Nat × Flags :=
  match x with
  | .nan _ => (if f = 9 then 0x88 else 0, flagNV)
  | .inf n =>
    if f = 9 then (if n then 0xFF else 0x77, flagNX)
    else
      match elemFmt f with
      | some g => (g.signBit n + g.maxEnc, flagNX)
      | none => (0, flagNX)
  | .fin n m e =>
    let y : FVal := .fin n m (e - k)
    if f = 9 then
      if beyondTwo y then (if n then 0xFF else 0x77, if lowered then flagOFNX else flagNX)
      else
        let c := ps2Near n m (e - k)
        (c, flagIf (decide (ps2Dist n m (e - k) c ≠ 0)) flagNX)
    else
      match elemFmt f with
      | none => (0, 0)
      | some g =>
        let (r, fl) := roundTo g { v with sat8 := true, ftz := false } u ⟨n, m, e - k, false⟩
        if fl &&& flagOF = 0 then (r, fl) else (g.signBit n + g.maxEnc, if lowered then flagOFNX else flagNX)

/-- A block encoded into a blocked format (R86, R87): its scale byte, its elements, the flags. `u` gives the draw of an
element's index. -/
def encodeBlock (f : Nat) (v : FEnv) (u : Nat → Nat) (xs : List FVal) : Nat × List Nat × Flags :=
  let zero (x : FVal) : Nat := if f = 9 then 0x88 else ((elemFmt f).map fun g => g.signBit x.neg).getD 0
  if xs.any (fun x => x.isNan || x.isInf) then
    (255, xs.map fun _ => if f = 9 then 0x88 else 0, flagNV)
  else if xs.all FVal.isZero then (127, xs.map zero, 0)
  else
    let emax : Int := match f with
      | 6 => 8
      | 7 => 15
      | 8 => 2
      | _ => 0
    let (k, low) := blockExp emax xs
    let rs := xs.zipIdx.map fun (x, i) => encodeElem f v (u i) low k x
    ((k + 127).toNat, rs.map Prod.fst, rs.foldl (fun a r => a ||| r.2) 0)

end Sys2Proof.Machine
end

