-- ==== Sys2Proof/Machine/Memory.lean ====
section
/-! DEFINITION. Accesses to global memory and to a spur's pool, and the loads and stores of 08_memory_instr.md R219 to
R228 with the ordering of 07_ordering_rules.md R193 to R208. -/

namespace Sys2Proof.Machine

/-! ### The pool of a spur -/

/-- TVAL of a pool reference: the role code and an offset (R356). -/
def poolTval (r : Role) (o : Nat) : Word := wordN (r.code * 2 ^ 60 + min o (2 ^ 20 - 1))

/-- n bytes of a role. -/
def Spur.rd (p : Spur) (r : Role) (o n : Nat) : List Byte := (span o n).map fun x => memGet p.pool (p.key r x)

/-- The pool with bytes of a role written; whole words written lose their poison (R375); the lines count as written
(R332). -/
def Spur.wr (p : Spur) (r : Role) (o : Nat) (bs : List Byte) : Spur :=
  let ks := (span o bs.length).map (p.key r)
  let whole := (ks.map (· / 8)).eraseDups.filter fun w => (span (w * 8) 8).all fun k => ks.contains k
  let lines := ((ks.map (· / 64)).eraseDups).filter fun l => !p.written.contains l
  { p with
    pool := memSets p.pool ks bs
    poisonWords := p.poisonWords.filter fun w => !whole.contains w
    written := p.written ++ lines }

/-- A poisoned byte of a role in a range (R374). -/
def Spur.poisonAt (p : Spur) (r : Role) (o n : Nat) : Option Nat :=
  (span o n).find? fun x => p.poisonWords.contains (p.key r x / 8)

/-- Whether an engine's claim covers a byte of a range (R172). -/
def Spur.claimed (p : Spur) (r : Role) (o n : Nat) : Bool :=
  p.claims.any fun c => decide (c.role = r) && decide (c.first < o + n) && decide (o < c.first + c.len) && decide (0 < n) && decide (0 < c.len)

/-- Reads bytes of a role of a spur as one pool step: stalls behind a claim (R172), traps POISON (R375). -/
def poolRead (k : Nat × Nat) (r : Role) (o n : Nat) : Act (List Byte) := do
  let p ← gets fun s => s.spur k
  if p.claimed r o n then throw .stall
  match p.poisonAt r o n with
  | some x => trap cPOISON (poolTval r x)
  | none => pure (p.rd r o n)

/-- Writes bytes of a role of a spur as one pool step. -/
def poolWrite (k : Nat × Nat) (r : Role) (o : Nat) (bs : List Byte) : Act Unit := do
  let p ← gets fun s => s.spur k
  if p.claimed r o bs.length then throw .stall
  mods fun s => s.setSpur k ((s.spur k).wr r o bs)

/-- The earlier outstanding accesses of the executing agent to some of these bytes, performed first (R195, R201). -/
def orderAfter (keys : List Nat) : Act Unit := drainFor fun p => overlaps p keys

/-- n unspecified bytes (R2, R210). -/
def freeBytes (n : Nat) : Act (List Byte) := fun s => .ok (takeFree s n)

/-- Loaded bytes, those of some keys unspecified. -/
def freeFor (f : Nat → Bool) (keys : List Nat) (bs : List Byte) : Act (List Byte) := fun s => .ok (freeWhere f s keys bs)

/-- A byte's value for a load of the executing agent: its own latest outstanding store to it (R193), else memory. -/
def loadByte (s : State) (key : Nat) : Byte :=
  let mine := s.me.pend.reverse.find? fun p =>
    match p.kind with
    | .store _ => p.keys.contains key
    | _ => false
  match mine with
  | some p =>
    match p.kind with
    | .store bs => ((p.keys.zip bs).find? fun kb => kb.1 == key).map (·.2) |>.getD 0
    | _ => 0
  | none => memGet s.mem key

/-- Whether an agent has an outstanding reduction to some of these bytes. -/
def redPending (a : Agent) (keys : List Nat) : Bool :=
  a.pend.any fun p =>
    match p.kind with
    | .red .. => overlaps p keys
    | _ => false

/-- A master that still holds a line of a page that has gained STREAM (R206). -/
def staleL1 (s : State) (keys : List Nat) : Bool :=
  isMaster s.cur && s.l1.any fun e => e.who == s.cur && keys.any fun k => k / 64 == e.line

/-- What a load of the executing agent leaves of the L1s (R206): the bytes of a page with STREAM leave its own no copy. -/
def touchLoads (s : State) (es : List (Nat × Nat)) : State :=
  if es.any fun e => pteStream e.1 then
    touchL1 (touchL1 s s.cur false false ((es.filter fun e => !pteStream e.1).map (·.2))) s.cur true false
      ((es.filter fun e => pteStream e.1).map (·.2))
  else touchL1 s s.cur false false (es.map (·.2))

/-- Whether a byte of a load is unspecified: of a page with STREAM in a line that the master still holds from before (R206), or of a
spill area (R179). -/
def loadFree (s : State) (es : List (Nat × Nat)) (k : Nat) : Bool :=
  (es.any fun e => e.2 == k && pteStream e.1 && staleL1 s [k]) || s.spillKey k

/-- Reads n bytes of global memory for the executing agent (R193 to R195, R221): translation first, then poison, the
agent's own earlier reductions, its L1 or the spur's RDC. -/
def readMem (nd : Need) (va n : Nat) : Act (List Byte) := do
  let es ← (span va n).mapM fun a => transE nd (a % 2 ^ 56)
  let keys := es.map (·.2)
  awaitOwner keys
  poisonTrap va keys
  let s ← get
  if redPending s.me keys then orderAfter keys
  let ro := es.all fun e => pteRoSpawn e.1
  let s ← get
  let sk := s.mySpurKey
  let p := s.spur sk
  if isSlot s.cur ∧ ro ∧ s.myProg.spawning ∧ 0 < p.size .rdc then
    let lines := (keys.map (· / 64)).eraseDups.filter fun l => !(p.rdc.any fun x => x.line == l)
    let all := p.rdc ++ lines.map fun l => (⟨l, memGets s.mem (span (l * 64) 64), []⟩ : RdcLine)
    let lineOf (k : Nat) : RdcLine := (all.find? fun x => x.line == k / 64).getD ⟨0, [], []⟩
    match keys.zipIdx.find? fun x => (lineOf x.1).bad.contains (x.1 % 64 / 8) with
    | some x => trap cPOISON (wordN ((va + x.2) % 2 ^ 56))
    | none =>
      set (s.setSpur sk { p with rdc := all.drop (all.length - p.size .rdc / 64) })
      freeFor s.spillKey keys (keys.map fun k => (lineOf k).bytes.getD (k % 64) 0)
  else
    set (touchLoads s es)
    freeFor (loadFree s es) keys (keys.map (loadByte s))

/-- Sets the side-effect bit of a thread (R221, R380). -/
def markSide : Act Unit := mods fun s => if isSlot s.cur then s.setCtx { s.ctx with side := true } else s

/-- How many outstanding accesses of a kind an agent has. -/
def pendStores (a : Agent) : Nat := (a.pend.filter fun p => match p.kind with | .store _ => true | _ => false).length
def pendReds (a : Agent) : Nat := (a.pend.filter fun p => match p.kind with | .red .. => true | _ => false).length

/-- Translates n bytes for a store or a RED: their keys, the homes of their lines, and whether a page has STREAM (R206). -/
def transHomes (nd : Need) (va n : Nat) : Act (List Nat × List Home × Bool) := do
  let es ← (span va n).mapM fun a => transE nd (a % 2 ^ 56)
  pure (es.map (·.2), (es.map fun e => homeOf e.1 e.2).eraseDups, es.any fun e => pteStream e.1)

/-- The source of a request of the executing agent, where it crosses a link: with 32 requests unacknowledged towards a home slice it
waits (R238). -/
def newSrc (homes : List Home) (keys : List Nat) : Act (Option LinkSrc) := do
  let s ← get
  if crosses s.cur homes && decide (32 ≤ unacked s (dieOf s.cur) (linkQueue s.cur) homes keys) then throw .stall
  let (src, s) := takeSrc s s.cur homes
  set s
  pure src

/-- Sends an access to its home: it stays outstanding when the move says so or a word of it is claimed (R233), else it is
performed now, after the agent's earlier accesses to the same bytes (R195). -/
def sendPend (ea : Word) (keys : List Nat) (homes : List Home) (stream : Bool) (k : PendKind) : Act Unit := do
  let src ← newSrc homes keys
  let s ← get
  let a := s.me
  let queued := claimedWord s keys
  let p : Pend := ⟨a.nextPend, ea, keys, homes, k, stream, a.frames.length, src, queued⟩
  if s.defer ∨ queued then
    let s := s.setMe { a with pend := a.pend ++ [p], nextPend := a.nextPend + 1 }
    if queued then
      let w := (keys.map (· / 8)).eraseDups.filter fun w => !(tabGet s.claims w []).isEmpty
      set { s with claims := w.foldl (fun t w => tabSet t w (tabGet t w [] ++ [ClaimEntry.op s.cur p.id])) s.claims }
    else set s
  else
    set s
    orderAfter keys
    mods fun s => performPend s s.cur p

/-- Stores bytes at an effective address for the executing agent: translation of every page first (R221); a thread with 32 stores
outstanding stalls. -/
def storeEa (ea : Word) (bs : List Byte) : Act Unit := do
  let (keys, homes, stream) ← transHomes .write (vaOf ea) bs.length
  awaitOwner keys
  let s ← get
  if 32 ≤ pendStores s.me then throw .stall
  markSide
  sendPend ea keys homes stream (.store bs)

/-- Stores bytes at an untagged address. -/
def storeMem (va : Nat) (bs : List Byte) : Act Unit := storeEa (wordN va) bs

/-! ### LD and ST (R222 to R224) -/

/-- The register value of loaded bytes. -/
def loadVal (r : LoadReq) (bs : List Byte) : Word :=
  if r.signed then wordOf (sextN (8 * r.size) (leNat bs)) else wordN (leNat bs)

/-- The load of a request performed and its register written. -/
def performLoad (r : LoadReq) : Act Unit := do
  let bs ← linkEa r.ea (readMem .read (vaOf r.ea) r.size)
  if r.vector then wrV r.d (BitVec.ofNat 128 (leNat bs))
  else wrT r.d (loadVal r bs) r.taint

/-- A load: its faults come at issue (R221); it may stay outstanding until its reply. -/
def issueLoad (r : LoadReq) : Act Fin := do
  let s ← get
  if s.defer then
    let keys ← linkEa r.ea (transBytes .read (vaOf r.ea) r.size)
    poisonTrap (vaOf r.ea) keys
    mods fun s => s.setMe { s.me with wait := .load r, wmode := s.mode }
    pure .hold
  else
    performLoad r
    pure .adv

/-- A scalar load (R222). -/
def ldScalar (size : Nat) (signed taint align : Bool) (d a : Nat) (i : Int) (s : State) : Out :=
  runInstr .tm [.w d, .r a] (do
    let ea := eaImm (← rdS a) i size
    trapIf (align && decide (vaOf ea % size ≠ 0)) cALIGN ea
    issueLoad ⟨ea, size, signed, d, taint, false⟩) s

/-- A scalar store (R222). -/
def stScalar (size : Nat) (align : Bool) (d a : Nat) (i : Int) (s : State) : Out :=
  runInstr .tm [.r d, .r a] (do
    let ea := eaImm (← rdS a) i size
    trapIf (align && decide (vaOf ea % size ≠ 0)) cALIGN ea
    storeEa ea (leBytes size (← rdS d).toNat)
    pure .adv) s

def execLdB (d a : Nat) (i : Int) (s : State) : Out := ldScalar 1 true false false d a i s
def execLdBu (d a : Nat) (i : Int) (s : State) : Out := ldScalar 1 false false false d a i s
def execLdH (d a : Nat) (i : Int) (s : State) : Out := ldScalar 2 true false false d a i s
def execLdHu (d a : Nat) (i : Int) (s : State) : Out := ldScalar 2 false false false d a i s
def execLdW (d a : Nat) (i : Int) (s : State) : Out := ldScalar 4 true false false d a i s
def execLdWu (d a : Nat) (i : Int) (s : State) : Out := ldScalar 4 false false false d a i s
def execLdD (d a : Nat) (i : Int) (s : State) : Out := ldScalar 8 false false false d a i s
def execStB (d a : Nat) (i : Int) (s : State) : Out := stScalar 1 false d a i s
def execStH (d a : Nat) (i : Int) (s : State) : Out := stScalar 2 false d a i s
def execStW (d a : Nat) (i : Int) (s : State) : Out := stScalar 4 false d a i s
def execStD (d a : Nat) (i : Int) (s : State) : Out := stScalar 8 false d a i s

/-- LDV (R223): bytes va to va + 7 to s(2n+1), the next eight to s(2n). -/
def execLdv (d a : Nat) (i : Int) (s : State) : Out :=
  runInstr .tm [.vw d, .r a] (do
    let ea := eaImm (← rdS a) i 16
    trapIf (decide (vaOf ea % 8 ≠ 0)) cALIGN ea
    issueLoad ⟨ea, 16, false, d, false, true⟩) s

/-- STV (R223). -/
def execStv (d a : Nat) (i : Int) (s : State) : Out :=
  runInstr .tm [.vr d, .r a] (do
    let ea := eaImm (← rdS a) i 16
    trapIf (decide (vaOf ea % 8 ≠ 0)) cALIGN ea
    storeEa ea (leBytes 16 (← rdV d).toNat)
    pure .adv) s

/-- LDA (R224): an acquire; the global order is the order of the steps (log 1). -/
def execLda (d a : Nat) (i : Int) (s : State) : Out := ldScalar 8 false false true d a i s

/-- Whether an access lies in the domain of a scope of an agent (R198): 2 .D to 4 .X. An outstanding access is never to a pool, so
.T and .S hold none. -/
def inDomain (die scope : Nat) (p : Pend) : Bool :=
  match scope with
  | 0 => false
  | 1 => false
  | 2 => p.homes.contains (.die die) && p.keys.any fun k => keySpace k == 0
  | 3 => p.keys.any fun k => keySpace k == 0
  | _ => true

/-- STL (R224): a release at .P follows every earlier access of its domain, so the outstanding ones are performed first. -/
def execStl (d a : Nat) (i : Int) (s : State) : Out :=
  runInstr .tm [.r d, .r a] (do
    let ea := eaImm (← rdS a) i 8
    trapIf (decide (vaOf ea % 8 ≠ 0)) cALIGN ea
    let _ ← transBytes .write (vaOf ea) 8
    let die ← gets fun s => dieOf s.cur
    drainFor (inDomain die 3)
    storeEa ea (leBytes 8 (← rdS d).toNat)
    pure .adv) s

/-- LDC (R224): sets the taint of s[d]. -/
def execLdc (d a : Nat) (i : Int) (s : State) : Out := ldScalar 8 false true true d a i s

/-! ### Scratch (R225) -/

/-- The SCR offset of LDS and STS: the base without its tag, as an unsigned 64-bit sum. -/
def scrOffset (x : Word) (i : Int) : Nat := (wordN (x.toNat % 2 ^ 56) + wordOf (i * 8)).toNat

/-- The checks of R225: POOLREF before ALIGN. -/
def scrCheck (k : Nat × Nat) (o n : Nat) (alignTo : Nat) : Act Unit := do
  let p ← gets fun s => s.spur k
  trapIf (decide (p.size .scr < o + n)) cPOOLREF (poolTval .scr o)
  trapIf (decide (o % alignTo ≠ 0)) cALIGN (wordN o)

def execLds (d a : Nat) (i : Int) (s : State) : Out :=
  runInstr .t [.w d, .r a] (do
    let k ← gets State.mySpurKey
    let o := scrOffset (← rdS a) i
    scrCheck k o 8 8
    wrS d (wordN (leNat (← poolRead k .scr o 8)))
    pure .adv) s

def execSts (d a : Nat) (i : Int) (s : State) : Out :=
  runInstr .t [.r d, .r a] (do
    let k ← gets State.mySpurKey
    let o := scrOffset (← rdS a) i
    scrCheck k o 8 8
    poolWrite k .scr o (leBytes 8 (← rdS d).toNat)
    pure .adv) s

/-- What a prefetch of a line leaves of a state: on the master the line in its L1, Shared where it was not there, unless the page
has STREAM; in a thread what a load of it leaves in the RDC (R226). -/
def prefetched (va : Nat) (s t : State) : State :=
  match (transE .read va).run s with
  | .ok ((e, key), _) =>
    if isMaster s.cur then
      if pteStream e || s.l1.any (fun x => x.who == s.cur && x.line == key / 64) then { s with tlb := t.tlb }
      else { l1Hold s s.cur false true [key / 64] with tlb := t.tlb }
    else { s with spurs := t.spurs, tlb := t.tlb }
  | .error _ => s

/-- PREF (R226): fills the spur's RDC on an RO_SPAWN page during a spawn, or the master's L1; nothing on any fault. -/
def execPref (a : Nat) (i : Int) (s : State) : Out :=
  runInstr .tm [.r a] (do
    let ea := eaImm (← rdS a) i 64
    let va := vaOf ea / 64 * 64
    let s ← get
    match (readMem .read va 64).run s with
    | .ok (_, t) => set (prefetched va s t)
    | .error _ => pure ()
    pure .adv) s

/-! ### Typed accesses (R227, R228) -/

/-- The checks of a typed pointer (R90, R227). -/
def typedCheck (p : Word) : Act Unit := do
  trapIf (!fmtOk (ptrFmt p) (ptrBlg p)) cILLFMT p
  trapIf (decide (p.toNat % 2 ^ 56 % max 1 (elemBits (ptrFmt p) / 8) ≠ 0)) cALIGN p

/-- The byte address, the bits within it and the scale address of element j from a typed pointer (R91). -/
def typedIndex (p : Word) (j : Nat) : Nat := p.toNat % 2 ^ 56 * 8 / elemBits (ptrFmt p) + j
def typedAddr (p : Word) (j : Nat) : Nat := typedIndex p j * elemBits (ptrFmt p) / 8
def typedScale (p q : Word) (j : Nat) : Nat :=
  (q.toNat % 2 ^ 56 + typedIndex p j / 2 ^ ptrBlg p - typedIndex p 0 / 2 ^ ptrBlg p) % 2 ^ 56

/-- The bits of element j: a nibble of its byte for the 4-bit formats. -/
def nibble (p : Word) (j : Nat) (byteVal : Nat) : Nat :=
  if elemBits (ptrFmt p) = 4 then byteVal / 16 ^ (typedIndex p j % 2) % 16 else byteVal

/-- Bytes an element occupies. -/
def elemBytes (f : Nat) : Nat := max 1 (elemBits f / 8)

/-- Every page that n elements and their scales touch is translated before a byte is read (R221). -/
def typedPages (p q : Word) (nd : Need) (js : List Nat) : Act Unit := do
  for j in js do
    let _ ← linkEa p (transBytes nd (typedAddr p j % 2 ^ 56) (elemBytes (ptrFmt p)))
  if blocked (ptrFmt p) then
    for j in js do
      let _ ← linkEa q (transBytes .read (typedScale p q j) 1)

/-- The exact value of element j, its scale read where its format has one (R91). -/
def typedRead (p q : Word) (j : Nat) : Act FVal := do
  let bs ← readMem .read (typedAddr p j % 2 ^ 56) (elemBytes (ptrFmt p))
  let x := nibble p j (leNat bs)
  if blocked (ptrFmt p) then
    let sc ← readMem .read (typedScale p q j) 1
    pure (scaledVal (ptrFmt p) x (leNat sc))
  else pure (elemVal (ptrFmt p) x)

/-- The lane format of LDT's type code (R227). -/
def ldtFmt (t : Nat) : Fmt :=
  match t with
  | 0 => fp32
  | 1 => bf16
  | _ => fp16

/-- LDT (R227): the decoded values converted to the lane type, RNE. -/
def execLdt (d a b t : Nat) (s : State) : Out :=
  runInstr .tm [.vw d, .r a, .r b] (do
    let p ← rdS a
    let q ← rdS b
    typedCheck p
    let g := ldtFmt t
    typedPages p q .read (List.range (128 / g.width))
    let xs ← (List.range (128 / g.width)).mapM (typedRead p q)
    let v ← gets fun s => { fenvOf s 7 with rm := 0 }
    let rs := xs.map (convVal g v 0)
    raiseFlags (rs.foldl (fun a r => a ||| r.2) 0)
    wrV d (packLanes g.width (rs.map Prod.fst))
    pure .adv) s

/-- The element STT writes for a lane, against the block's scale where there is one (R228). -/
def sttElem (f : Nat) (v : FEnv) (u sc : Nat) (x : FVal) : Nat × Flags :=
  if blocked f then
    if sc = 255 then (if f = 9 then 0x88 else 0, flagNV) else encodeElem f v u false ((sc : Int) - 127) x
  else
    match elemFmt f with
    | some g => convVal g v u x
    | none =>
      let w := elemBits f
      let (z, fl) := toInt v u (intLo' w) (intHi' w) x
      (truncN w z, fl)
where
  intLo' (w : Nat) : Int := -(2 ^ (w - 1) : Int)
  intHi' (w : Nat) : Int := 2 ^ (w - 1) - 1

/-- STT (R228): four FP32 lanes to elements; a 4-bit element keeps its neighbour's nibble. -/
def execStt (d a b r : Nat) (s : State) : Out :=
  runInstr .tm [.vr d, .r a, .r b] (do
    let p ← rdS a
    let q ← rdS b
    typedCheck p
    let f := ptrFmt p
    let vd ← rdV d
    let v ← gets fun s => fenvOf s r
    let js := List.range 4
    typedPages p q .write js
    let scs ← js.mapM fun j => if blocked f then do pure (leNat (← readMem .read (typedScale p q j) 1)) else pure 0
    let olds ← linkEa p (js.mapM fun j => if elemBits f = 4 then do pure (leNat (← readMem .read (typedAddr p j % 2 ^ 56) 1)) else pure 0)
    let rs := js.map fun j => sttElem f v (v.draw 0 j) (scs.getD j 0) (fp32.readFtz v.ftz (laneAt 32 vd j))
    raiseFlags (rs.foldl (fun a r => a ||| r.2) 0)
    for (j, y) in js.zip (rs.map Prod.fst) do
      let ea := wordN (typedAddr p j % 2 ^ 56) ||| (p &&& ~~~(wordN (2 ^ 56 - 1)))
      if elemBits f = 4 then
        -- the neighbour's nibble as it was read, or as this store has just written it
        let old := if typedIndex p j % 2 = 1 ∧ 0 < j then (olds.getD j 0) / 16 * 16 + (rs.getD (j - 1) (0, 0)).1 else olds.getD j 0
        let sh := 16 ^ (typedIndex p j % 2)
        storeEa ea (leBytes 1 (old - old / sh % 16 * sh + y * sh))
      else storeEa ea (leBytes (elemBytes f) y)
    if !(f == 9) then bumpSeed v
    pure .adv) s

end Sys2Proof.Machine
end

