-- ==== Sys2Proof/Machine/Layout.lean ====
section
/-! DEFINITION. How a spur's pool is laid out when it passes to a program, and the windows of the REG role (12_pool.md
R315 to R320); quotas (11_scheduling.md R302). -/

namespace Sys2Proof.Machine

/-- The banks that are FENCED or HELD, which every instruction treats alike (R315). -/
def Spur.outBanks (p : Spur) : List Nat := p.fencedBanks ++ p.heldOut.filter fun b => !p.fencedBanks.contains b

/-- The other banks in ascending number. -/
def Spur.unfencedBanks (p : Spur) : List Nat := (List.range 32).filter fun b => !p.outBanks.contains b

/-- The five counts (REG, SCR, RDC, TIL, ACC) lowered until they fit n banks: ACC by twos, then TIL, then RDC (R316). -/
def fitCounts : Nat → Nat → List Nat → List Nat
  | 0, _, c => c
  | fuel + 1, n, c =>
    if c.sum ≤ n then c
    else
      match c with
      | [r, s, d, t, a] =>
        if 2 ≤ a then fitCounts fuel n [r, s, d, t, a - 2]
        else if 0 < t then fitCounts fuel n [r, s, d, t - 1, a]
        else if 0 < d then fitCounts fuel n [r, s, d - 1, t, a]
        else c
      | c => c

/-- The (bank, role, position) triples of a layout: banks taken in order by each role (R316). -/
def dealBanks : List Nat → List (Role × Nat) → List (Nat × Role × Nat)
  | _, [] => []
  | bs, (r, n) :: rest => ((bs.take n).zipIdx.map fun (b, i) => (b, r, i)) ++ dealBanks (bs.drop n) rest

/-- A spur as it passes to a program: zero-filled, every granule EMPTY, laid out by the launch's counts (R316). -/
def Spur.give (p : Spur) (core : Nat) (counts : List Nat) : Spur :=
  let bs := p.unfencedBanks
  let c := fitCounts 64 bs.length counts
  let l := dealBanks bs ([Role.reg, .scr, .rdc, .til, .acc].zip c)
  { Spur.blank with
    owner := some core
    fenced := p.fenced
    fencedBanks := p.fencedBanks
    heldOut := p.heldOut
    roles := l.map fun (b, r, _) => (b, r)
    places := l.map fun (b, _, i) => (b, i) }

/-- A spur whose program gives it up (R302, R364): its banks FREE. -/
def Spur.release (p : Spur) : Spur := { Spur.blank with fenced := p.fenced, fencedBanks := p.fencedBanks, heldOut := p.heldOut }

/-- Units of 64 bytes of a window of w registers (R319). -/
def windowUnits (w : Nat) : Nat := w / 8

/-- Whether n units from a base are free and inside REG. -/
def Spur.unitsFree (p : Spur) (base n : Nat) : Bool :=
  decide ((base + n) * 64 ≤ p.size .reg) && p.windows.all fun w => decide (base + n ≤ w.base ∨ w.base + w.len ≤ base)

/-- The lowest base at which a window fits (R319): zero, or the end of a placed window. -/
def Spur.fit (p : Spur) (w : Nat) : Option Nat :=
  ((0 :: p.windows.map fun x => x.base + x.len).filter fun b => p.unitsFree b (windowUnits w)).min?

/-- A window placed first fit (R319). -/
def Spur.place (p : Spur) (who : AgentId) (w : Nat) : Option Spur :=
  (p.fit w).map fun b => { p with windows := p.windows ++ [⟨who, b, windowUnits w⟩] }

/-- Whether a spur counts for a launch (R300): unfenced, with banks for REG and SCR together. -/
def Spur.fits (p : Spur) (counts : List Nat) : Bool :=
  !p.fenced && decide (counts.getD 0 0 + counts.getD 1 0 ≤ p.unfencedBanks.length)

/-- Whether it can be given to a program now: it is free too. -/
def Spur.countable (p : Spur) (counts : List Nat) : Bool := p.owner.isNone && p.fits counts

/-- The free spurs of a die that count for a launch, lowest first (R300). -/
def freeSpurs (s : State) (d : Nat) (counts : List Nat) : List Nat :=
  (List.range 224).filter fun n => (s.spur (d, n)).countable counts

/-- Spurs given to a program. -/
def giveSpurs (s : State) (k : Nat × Nat) (ns : List Nat) : State :=
  let p := s.prog k
  let s := ns.foldl (fun t n => t.setSpur (k.1, n) ((t.spur (k.1, n)).give k.2 p.banks)) s
  s.setProg k { s.prog k with quota := ((s.prog k).quota ++ ns).mergeSort (· ≤ ·) }

/-- Spurs taken from a program. -/
def takeSpurs (s : State) (k : Nat × Nat) (ns : List Nat) : State :=
  let s := ns.foldl (fun t n => t.setSpur (k.1, n) (t.spur (k.1, n)).release) s
  s.setProg k { s.prog k with quota := (s.prog k).quota.filter fun n => !ns.contains n }

/-- A die's running programs. -/
def runningCores (s : State) (d : Nat) : List Nat := (List.range 8).filter fun c => (s.prog (d, c)).running

/-- The program's target number of spurs (R302). -/
def quotaTarget (s : State) (k : Nat × Nat) : Nat :=
  let p := s.prog k
  let a := ((List.range 224).filter fun n => !(s.spur (k.1, n)).fenced).length
  let w := (runningCores s k.1).foldl (fun t c => t + (s.prog (k.1, c)).weight) 0
  min (max (a * p.weight / (if w = 0 then 1 else w)) p.qmin) p.qmax

/-- The spurs that a program without an outstanding spawn can give to another (R302): those above its target that count for
the other's launch, highest first. -/
def spareSpurs (s : State) (k : Nat × Nat) (counts : List Nat) : List Nat :=
  let p := s.prog k
  if p.spawning then []
  else (p.quota.reverse.filter fun n => (s.spur (k.1, n)).fits counts).take (p.quota.length - quotaTarget s k)

/-- The governor moves spurs at a spawn boundary of a program (R302): above its target it gives up its highest, below it
it receives free ones, then those that other programs give up, in the order of their cores (DESIGN CHOICE, log 29). -/
def adjustQuota (s : State) (k : Nat × Nat) : State :=
  let p := s.prog k
  let t := quotaTarget s k
  if t < p.quota.length then takeSpurs s k (p.quota.drop t)
  else
    let s := giveSpurs s k ((freeSpurs s k.1 p.banks).take (t - p.quota.length))
    (runningCores s k.1).foldl (fun u c =>
      if c = k.2 then u
      else
        let ns := (spareSpurs u (k.1, c) p.banks).take (t - (u.prog k).quota.length)
        giveSpurs (takeSpurs u (k.1, c) ns) k ns) s

/-- The zone of a spur (R304). -/
def zoneOf (p : Nat) : Nat := p % 16 / 4 + (if 7 ≤ p / 16 then 4 else 0)

end Sys2Proof.Machine
end

