-- ==== Sys2Proof/Machine/Holds.lean ====
section
/-! DEFINITION. What the budget governor holds back: the holds of a LEVEL and the floors under them (11_scheduling.md R305,
R306). -/

namespace Sys2Proof.Machine

/-- The highest energy class whose grants are held in a zone at a LEVEL, plus one; 0 where none is (R305). -/
def heldClasses (level : Nat) (hot : Bool) : Nat :=
  match level with
  | 15 => 0
  | 14 => if hot then 1 else 0
  | 13 => if hot then 2 else 0
  | 12 => if hot then 2 else 1
  | _ => if hot then 3 else 2

/-- The zones in which LEVEL holds an energy class (R305). -/
def zonesHeld (level hot eclass : Nat) : List Nat :=
  (List.range 8).filter fun z => decide (eclass < heldClasses level (z == hot))

/-- The descriptor a slot draws from (R278): the highest priority, among equals the earliest pushed. -/
def bestDesc (ds : List Desc) : Option Desc :=
  ds.foldl (fun (o : Option Desc) d =>
    match o with
    | none => some d
    | some b => if b.prio < d.prio then some d else some b) none

/-- The windows of what a program has for its idle slots: the next number of its spawn, the next of its best descriptor where the spawn's
are all granted, the next re-run (R274, R278, R380). -/
def wantedWindows (s : State) (k : Nat × Nat) : List Nat :=
  let p := s.prog k
  (if p.sstate = 1 ∧ 0 < p.u then [p.spawn.window]
    else ((bestDesc ((s.die k.1).scree.filter fun d => d.core = k.2)).map Desc.window).toList) ++
  (p.rerun.head?.map fun x => x.ctx.window).toList

/-- Whether a program has a grant request pending (R274, R306): a held SPAWNR, or an idle slot of its list whose spur has room for a
window of something to take. -/
def requesting (s : State) (k : Nat × Nat) : Bool :=
  let p := s.prog k
  let ws := wantedWindows s k
  p.running && p.ending.isNone && p.spawning &&
  (p.held.isSome ||
    p.spawn.quota.any fun n => ws.any (fun w => ((s.spur (k.1, n)).fit w).isSome) &&
      (List.range 4).any fun c => (List.range 31).any fun t => !(s.agent (.slot k.1 n c t)).live)

/-- ⌊100 × (1 − w / W)⌋ (R306). -/
def heldLimit (w total : Nat) : Nat := if total = 0 then 0 else 100 * (total - w) / total

/-- The zones in which a program is held now (R305, R306): none for a program at its floor, with W as it stands,
the programs in it that have ended or were saved since they asked. -/
def heldZonesOf (s : State) (k : Nat × Nat) : List Nat :=
  let r := s.die k.1
  let p := s.prog k
  let asked := ((runningCores s k.1).filter fun c => c ≠ k.2 && (s.prog (k.1, c)).winAsked).map fun c => (s.prog (k.1, c)).weight
  let free := decide (0 < p.weight) && decide (heldLimit p.weight (asked.sum + r.goneWeight + p.weight) ≤ p.winHeld)
  if free then [] else zonesHeld r.level r.hottest p.eclass

/-- The holds of every program of a die decided. -/
def decideHolds (d : Nat) (s : State) : State :=
  (runningCores s d).foldl (fun t c => t.setProg (d, c) { t.prog (d, c) with heldZones := heldZonesOf t (d, c) }) s

/-- The requests of a die's programs noted (R306): a program that requests takes part in W from then on, which may change the holds,
and is held in the interval where its holds name a zone. -/
def noteAsks (d : Nat) (s : State) : State :=
  let ks := (runningCores s d).map fun c => (d, c)
  let new := ks.any fun k => requesting s k && !(s.prog k).winAsked
  let s := if new then
      decideHolds d (ks.foldl (fun t k => t.setProg k { t.prog k with winAsked := (t.prog k).winAsked || requesting t k }) s)
    else s
  let held (k : Nat × Nat) : Bool := !(s.prog k).heldNow && requesting s k && !(s.prog k).heldZones.isEmpty
  (ks.filter held).foldl (fun t k => t.setProg k { t.prog k with heldNow := true }) s

end Sys2Proof.Machine
end

