-- ==== Sys2Proof/Machine/Notice.lean ====
section
/-! DEFINITION. Which pool bytes the engines use (12_pool.md R321), and the end of a scratch shrink (R325, R329). -/

namespace Sys2Proof.Machine

/-- The role of a space code 1 or 2 (R240). -/
def spaceRole (sp : Nat) : Role := if sp = 1 then .scr else .til

/-- The first byte of row r of a start and a stride, as an address or an offset. -/
def rowAt (start : Nat) (stride : Int) (r : Nat) : Int := (start : Int) + (r : Int) * stride

/-- A copy command's source rows in the pool: role, first byte, length. -/
def EngCmd.srcRanges (c : EngCmd) : List (Role × Nat × Nat) :=
  if c.gather ∨ c.ssp = 0 then []
  else (List.range c.rows).map fun r => (spaceRole c.ssp, (rowAt c.src c.sstr r).toNat, c.len)

/-- A command's destination rows in the pool. -/
def EngCmd.dstRanges (c : EngCmd) : List (Role × Nat × Nat) :=
  if c.dsp = 0 then []
  else (List.range c.rows).map fun r =>
    (spaceRole c.dsp, if c.gather then c.dst + r * c.len else (rowAt c.dst c.dstr r).toNat, c.len)

/-- A gather's index list in the pool. -/
def EngCmd.listRanges (c : EngCmd) : List (Role × Nat × Nat) :=
  if c.gather ∧ c.lscr then [(.scr, c.list, c.rows * c.iw)] else []

/-- Whether some pool ranges hold a byte of a role at or above an offset. -/
def reachesFrom (xs : List (Role × Nat × Nat)) (r : Role) (o : Nat) : Bool :=
  xs.any fun x => decide (x.1 = r) && decide (o < x.2.1 + x.2.2) && decide (0 < x.2.2)

/-- Whether a command is neither complete nor stopped: one whose data is written is complete with its increment (R172). -/
def EngCmd.open (c : EngCmd) : Bool := !c.failed && !c.dead

/-- Whether an engine of the spur touches a byte of a role at or above an offset (R172, R322): a destination, or a source of a copy, of
a command that is neither complete nor stopped. -/
def Spur.touchedFrom (p : Spur) (r : Role) (o : Nat) : Bool :=
  (p.copyQ ++ p.gathQ).any fun c => c.open && reachesFrom (c.dstRanges ++ c.srcRanges) r o

/-- Members of the notice that have neither acknowledged nor ended (R324). -/
def Notice.unack (n : Notice) : Nat := (n.members.filter fun m => !m.acked && !m.gone).length

/-- A pending shrink completes when no member is left and no engine touches a leaving byte (R329). -/
def Spur.noticeTry (p : Spur) : Spur :=
  if p.notice.pending && p.notice.unack == 0 && !p.touchedFrom .scr (p.notice.target * bankBytes) then
    let q := p.cutRole .scr p.notice.target
    { q with notice := { q.notice with pending := false } }
  else p

/-- A member ends, or is lost (R330). -/
def Spur.noticeOver (p : Spur) (who : Nat × Nat) : Spur :=
  let n := p.notice.update who fun m => { m with gone := true }
  { p with notice := n }.noticeTry

end Sys2Proof.Machine
end

