-- ==== Sys2Proof/Machine/Fence.lean ====
section
/-! DEFINITION. Fencing of banks and of idle spurs (12_pool.md R334, 14_recovery.md R378). -/

namespace Sys2Proof.Machine

/-- A unit's lasting fence is recorded and reported (R378, R390). -/
def noteFence (d unit index core : Nat) (s : State) : State :=
  pushRing { s with fences := s.fences ++ [⟨unit, d, index⟩] } d (ringEntry 0x04 0 0 d 0 0 index 0 core unit)

/-- Whether a frame of HBM is retired (R377, R378): by itself, or with the fenced pseudo-channel that holds it; each die has 96 GiB
of the physical addresses (log 18). -/
def retiredFrame (s : State) (f : Nat) : Bool :=
  s.retired.contains f ||
    s.fences.any fun x => x.unit == 2 && decide (x.die = f * 4096 / (hbmBytes / 4)) && decide (x.index = Config.hbmChannel f)

/-- The offsets of a role whose granules are FULL, unspecified. -/
def freeGranules (n size : Nat) : List Nat := (List.range (size / 8)).filter fun i => Config.freeBit (n + i)

/-- A bank fenced (R334): its former role loses it, is renumbered in ascending bank number, and but for RDC holds unspecified
contents; an odd ACC then gives the bank of its highest position up. -/
def fenceBank (k : Nat × Nat) (b : Nat) (s : State) : State :=
  let p := s.spur k
  let r := p.role b
  let q := p.zeroBank b
  let q := { q with
    fencedBanks := q.fencedBanks ++ [b], badBanks := q.badBanks.filter (· ≠ b), roles := tabDel q.roles b
    places := tabDel q.places b }
  let rest := (p.banksOf r).filter (· ≠ b)
  let keep := if r == .acc then rest.length / 2 * 2 else rest.length
  let order := rest.take keep
  let drop := rest.drop keep
  let q := drop.foldl (fun q x =>
    let q := q.zeroBank x
    { q with roles := tabDel q.roles x, places := tabDel q.places x }) q
  let s := match r with
    | .free => s.setSpur k q
    | .rdc => s.setSpur k { q with rdc := [], places := order.zipIdx.foldl (fun t (x, i) => tabSet t x i) q.places }
    | _ =>
      let keys := order.flatMap fun x => span (x * bankBytes) bankBytes
      let q := { q with
        places := order.zipIdx.foldl (fun t (x, i) => tabSet t x i) q.places
        pool := memSets q.pool keys ((span s.free keys.length).map Config.freeByte)
        poisonWords := q.poisonWords.filter fun w => !order.contains (w * 8 / bankBytes)
        scrFull := if r = .scr then freeGranules s.free keys.length else q.scrFull }
      { s with free := s.free + keys.length }.setSpur k q
  noteFence k.1 1 (k.2 * 32 + b) ((p.owner).getD 0) s

/-- A spur that holds no thread fenced: it leaves its program's quota, its pool is gone (R379). -/
def fenceIdle (k : Nat × Nat) (s : State) : State :=
  let p := s.spur k
  let s := s.setSpur k { Spur.blank with fenced := true, fencedBanks := p.fencedBanks, heldOut := p.heldOut }
  let s := match p.owner with
    | some c =>
      let g := s.prog (k.1, c)
      s.setProg (k.1, c) { g with quota := g.quota.filter (· ≠ k.2), spawn := { g.spawn with quota := g.spawn.quota.filter (· ≠ k.2) } }
    | none => s
  noteFence k.1 4 k.2 ((p.owner).getD 0) s

/-- The lasting faults of a program's spurs that waited for the end of its spawn (R334, R378). -/
def settleFences (k : Nat × Nat) (s : State) : State :=
  (s.prog k).quota.foldl (fun t n =>
    let t := (t.spur (k.1, n)).badBanks.foldl (fun u b => fenceBank (k.1, n) b u) t
    if (t.spur (k.1, n)).worn then fenceIdle (k.1, n) t else t) s

end Sys2Proof.Machine
end

