-- ==== Sys2Proof/Machine/Inline.lean ====
section
/-! DEFINITION. Acting for another agent in an event, the state a thread starts in (10_spawn.md R272, R278), and threads
that run their children inline (R279, R280). -/

namespace Sys2Proof.Machine

/-- Does something as another agent, its accesses performed at once, and gives the turn back. -/
def asAgent (who : AgentId) (m : Mode) (f : State → State) (s : State) : State :=
  let t := f { s with cur := who, mode := m, defer := false }
  { t with cur := s.cur, mode := s.mode, defer := s.defer }

/-- Completes the instruction an agent waits at by performing its effect now. -/
def finishWait (who : AgentId) (body : Act Fin) (s : State) : State :=
  asAgent who (s.agent who).wmode (fun t => settle t (body.run t)) s

/-- A wait ends in a trap of the waiting agent (R314). -/
def trapWait (who : AgentId) (t : Trap) (s : State) : State := asAgent who (s.agent who).wmode (fun u => takeTrap u t) s

/-- An event with no effect when its condition does not hold (log 2). -/
def when (c : Bool) (f : State → State) (s : State) : Out := .next (if c then f s else s)

/-- Takes the oldest deferred trap at this instruction (R358). -/
def takeDeferred : Act (Option Trap) := do
  let s ← get
  match s.me.dtraps with
  | t :: ts =>
    set (s.setMe { s.me with dtraps := ts })
    pure (some t)
  | [] => pure none

/-! ### Bounded waits (R312) -/

/-- The clock that an agent's CYCLE and WLIM count: a master's own, else its die's. -/
def State.clock (s : State) (who : AgentId) : Nat :=
  if isMaster who then (s.die (dieOf who)).mcycle else (s.die (dieOf who)).cycle

/-- LIMIT of an agent's WLIM. -/
def waitLimit (s : State) (who : AgentId) : Nat := (s.agent who).ctx.wlim.toNat % 2 ^ 48

/-- Whether an agent's waits are bounded. -/
def bounded (s : State) (who : AgentId) : Bool := waitLimit s who != 0

/-- Whether the limit of an agent's wait, counted from the issue of its instruction, is reached. -/
def due (s : State) (who : AgentId) : Bool := bounded s who && decide ((s.agent who).since + waitLimit s who ≤ s.clock who)

/-! ### Start states -/

/-- g0 to g31 of a snapshot as register fields 96 to 127. -/
def gRegs (g : List Word) : Tab Nat Word := g.zipIdx.map fun (v, i) => (96 + i, v)

/-- The state a thread of the spawn starts in (R272). -/
def threadCtx (r : SpawnRec) (seq n : Nat) : Ctx :=
  { Ctx.blank with
    pc := wordN r.entry
    regs := gRegs r.gsnap
    fcsr := r.fcsr &&& ~~~31#64
    srseed := r.srseed
    tvec := r.tvec
    wlim := r.wlim
    tid := wordN n
    tcount := wordN r.count
    spwid := wordN (seq % 2 ^ 32)
    parent := 0xFFFFFFFF#64
    window := r.window }

/-- The state number n of a nested descriptor starts in (R278, R279): s1 to s4 of the parent within its window. -/
def childCtx (p : Prog) (d : Desc) (n : Nat) (inl : Bool) : Ctx :=
  let args := (d.args.zipIdx.map fun (v, i) => (i + 1, v)).filter fun x => decide (x.1 < d.window)
  { Ctx.blank with
    pc := wordN d.entry
    regs := args ++ gRegs p.spawn.gsnap
    fcsr := d.fcsr
    srseed := d.srseed
    tvec := d.tvec
    wlim := d.wlim
    tid := wordN n
    tcount := wordN d.count
    spwid := wordN (d.vis * 2 ^ 32 + p.seq % 2 ^ 32)
    parent := wordN d.ptid
    nlevel := wordN (d.level + if inl then 32 else 0)
    window := d.window }

/-- A thread placed in a slot with its start record (R380). -/
def startThread (s : State) (who : AgentId) (core : Nat) (resident : Bool) (st : Start) : State :=
  s.setAgent who { Agent.blank with
    live := true, ctx := st.ctx, core := core, resident := resident, tag := st.tag, anc := st.anc, start := some st }

/-! ### Inline runs -/

/-- Puts a window of w registers in place of whatever window the agent holds; none when there is no room. -/
def rewindow (s : State) (who : AgentId) (w : Nat) : Option State :=
  let k := (dieOf who, spurOf who)
  (((s.spur k).unplace who).place who w).map fun p => s.setSpur k p

/-- The agent gives its window up while it waits for room (R279). -/
def unwindow (s : State) (who : AgentId) : State :=
  let k := (dieOf who, spurOf who)
  s.setSpur k ((s.spur k).unplace who)

/-- The next thing an inline run does for an agent whose top frame is given (R279): the next child of the descriptor, the
next descriptor, or the parent again, whose record is read back: it waits where an engine owns a line of it (R208). -/
def inlineStep (s : State) (who : AgentId) : State :=
  let a := s.agent who
  match a.frames with
  | [] => s
  | f :: fs =>
    let enter (d : Desc) (rest : List Desc) : State :=
      match rewindow s who d.window with
      | none => (unwindow s who).setAgent who { a with wait := .room }
      | some t =>
        let p := t.prog (t.progKey who)
        let seen := (t.spur (dieOf who, spurOf who)).notice.sight a.outer
        t.setAgent who { a with
          wait := .none
          ctx := childCtx p d d.next true
          items := []
          ridge := []
          tag := d.tag
          anc := d.anc
          frames := { f with desc := { d with next := d.next + 1 }, rest := rest, seen := seen } :: fs }
    if f.desc.next < f.desc.count then enter f.desc f.rest
    else
      match f.rest with
      | d :: rest => enter d rest
      | [] =>
        let (c, u) := recordBack (s.progKey who) f.record f.ctx fs s
        match if recordBusy s (s.progKey who) f.record then none else rewindow u who c.window with
        | none => (unwindow s who).setAgent who { a with wait := .room }
        | some t =>
          let back := t.setAgent who { a with
            wait := .none, ctx := c, items := f.items, ridge := f.ridge, dtraps := f.dtraps, tag := f.tag, anc := f.anc
            frames := fs }
          if f.again then back
          else asAgent who .plain (fun u => retire (u.setCtx { u.ctx with srseed := advanceSeed u.ctx.srseed })) back

/-- Starts an inline run of descriptors by the executing thread (R279): its context goes to a frame, whose record is written in the
context area. The Ridge results on their way to its registers, and its deferred traps, stay the parent's (R287, R357). -/
def startInline (d : Desc) (rest : List Desc) (again : Bool) : Act Fin := do
  let s ← get
  let a := s.me
  let n := freeRecord s s.myKey
  if recordBusy s s.myKey n then throw .stall
  let f : Frame :=
    { record := n, ctx := a.ctx, items := a.items, ridge := a.ridge, dtraps := a.dtraps, desc := d, tag := a.tag, anc := a.anc
      rest := rest, again := again, seen := (0, false, false) }
  let s := putRecord s.myKey n s.cur a s
  set (inlineStep (s.setMe { a with frames := f :: a.frames, ridge := [], dtraps := [] }) s.cur)
  pure .hold

/-- The descriptors in Scree that the executing thread pushed, in push order. -/
def ownDescs (s : State) : List Desc :=
  (s.die (dieOf s.cur)).scree.filter fun d =>
    decide (d.core = s.me.core ∧ d.ptag = s.me.tag ∧ d.ptid = s.ctx.tid.toNat)

/-- The drain of a waiting instruction (R280): withdraws the thread's undrawn numbers and runs them inline; `none` when
there are none and the instruction goes on. A frame without room in the dynamic region waits for an extent (R371). -/
def drainOwn : Act (Option Fin) := do
  let s ← get
  match ownDescs s with
  | [] => pure none
  | d :: rest =>
    if isSlot s.cur && !dynRoom s s.myKey 1 then
      set (requestExtent s s.myKey s.cur)
      pure (some .hold)
    else if isSlot s.cur then
      let own := d :: rest
      let r := s.die (dieOf s.cur)
      let n := own.foldl (fun t x => t + (x.count - x.next)) 0
      let p := s.myProg
      set ((s.setDie (dieOf s.cur) { r with scree := r.scree.filter fun x => !own.contains x }).setMyProg { p with d := p.d - n })
      pure (some (← startInline d rest true))
    else pure none

/-- An instruction that waits: the drain first, then its own effect. -/
def afterDrain (body : Act Fin) : Act Fin := do
  match ← drainOwn with
  | some f => pure f
  | none => body

end Sys2Proof.Machine
end

