-- ==== Sys2Proof/Machine/Spawn.lean ====
section
/-! DEFINITION. Spawn, join and nested spawn (10_spawn.md R267 to R284), the dispatch events (R274 to R279, R306, R310,
R380), and the reduction trees of JOIN (R289 to R291). -/

namespace Sys2Proof.Machine

/-! ### Headers (R62) -/

/-- The window of a body header word; none when it is invalid (R62). -/
def headerWindow (h : Nat) : Option Nat :=
  if bits h 31 24 ≠ 0 ∨ bits h 23 16 ≠ 0x5B ∨ bits h 15 3 ≠ 0 then none
  else
    match h % 8 with
    | 0 => some 8
    | 1 => some 16
    | 2 => some 32
    | 3 => some 48
    | 4 => some 64
    | 5 => some 96
    | _ => none

/-- Reads the header before a 64-bit entry: a load needing R; an invalid one traps ILLOP with entry - 4 (R62, R294). -/
def readHeader (entry : Word) : Act Nat := do
  let bs ← readMem .read (vaOf (entry - 4)) 4
  match headerWindow (leNat bs) with
  | some w => pure w
  | none => trap cILLOP (entry - 4)

/-! ### SPAWN and SPAWNR (R271 to R273) -/

/-- The entry a SPAWN's offset names, on the 64-bit PC. -/
def spawnEntry (pc : Word) (o : Int) : Word := pc + wordOf (o * 4)

/-- Where member t of a resident spawn goes (R273). -/
def memberPlace (d : Nat) (q : List Nat) (t : Nat) : AgentId :=
  .slot d (q.getD (t / 4 % q.length) 0) (t % 4) (t / (4 * q.length))

/-- The members of a resident spawn of n whose spur is in service. -/
def membersOn (s : State) (d : Nat) (q : List Nat) (n : Nat) : List Nat :=
  (List.range n).filter fun t => !(s.spur (d, spurOf (memberPlace d q t))).fenced

/-- Places the windows of members, spur by spur in ascending member number; none when one has no room (R273, R319). -/
def placeAll (s : State) (d w : Nat) (q : List Nat) (ts : List Nat) : Option State :=
  ts.foldl (fun (o : Option State) t =>
    o.bind fun u =>
      let a := memberPlace d q t
      let k := (d, spurOf a)
      ((u.spur k).place a w).map fun p => u.setSpur k p) (some s)

/-- Whether the placement of R273 fails. -/
def placementFails (s : State) (d w : Nat) (q : List Nat) (n : Nat) : Bool :=
  (q.isEmpty && decide (0 < n)) || decide (124 * q.length < n) || (placeAll s d w q (List.range n)).isNone

/-- The members of a resident spawn placed and started: their numbers are drawn at placement (R284). A member whose spur was fenced
while the governor held the SPAWNR is lost, as when it is fenced a moment later (R381, R382; log 29). -/
def startMembers (s : State) (k : Nat × Nat) (r : SpawnRec) : State :=
  let ts := membersOn s k.1 r.quota r.count
  let gone := (List.range r.count).filter fun t => !ts.contains t
  match placeAll s k.1 r.window r.quota ts with
  | none => s
  | some t =>
    let p := t.prog k
    let t := ts.foldl (fun u i =>
      startThread u (memberPlace k.1 r.quota i) k.2 true ⟨threadCtx r p.seq i, 0, i⟩) t
    t.setProg k { p with
      u := 0, l := p.l + ts.length, held := none, spawn := { p.spawn with next := r.count }
      liveCount := p.liveCount - gone.length, lostNow := p.lostNow ++ gone }

/-- A spawn refused with a code (R269, R271). -/
def refuseSpawn (code : Nat) : Act Fin := do
  mods fun s => s.setMyProg { s.myProg with rcode := code }
  pure .adv

/-- Whether the governor holds a program in one of the zones of some spurs (R306). -/
def heldAny (p : Prog) (q : List Nat) : Bool := q.any fun n => p.heldZones.contains (zoneOf n)

/-- SPAWN and SPAWNR (R271). The release of R202: the master's earlier accesses are performed first, and where one must wait at its
home the instruction stalls before it starts anything. -/
def spawnWith (resident : Bool) (d : Nat) (o : Int) (s : State) : Out :=
  runInstr .m [.r d] (do
    let s ← get
    let k := s.myKey
    let entry := spawnEntry s.ctx.pc o
    let w ← readHeader entry
    let n := (← rdS d).toNat
    if s.myProg.spawning then refuseSpawn 2
    else if 2 ^ 32 ≤ n then refuseSpawn 7
    else
      mods fun s => adjustQuota s k
      let s ← get
      let p := s.myProg
      let q := p.quota.filter fun x => !(s.spur (k.1, x)).fenced
      if resident && placementFails s k.1 w q n then refuseSpawn 4
      else if !resident && decide (0 < n) && q.all (fun x => ((s.spur (k.1, x)).fit w).isNone) then refuseSpawn 4
      else
        drainFor fun _ => true
        let s ← get
        let c := s.ctx
        let r : SpawnRec :=
          ⟨entry.toNat, w, n, 0, (List.range 32).map fun i => c.rs (96 + i), c.tvec, c.wlim, c.fcsr, c.srseed, q⟩
        let p := s.myProg
        let p := { p with
          spflags := 0, jres := [], jval := 0, lost := [], lostov := false, lostNow := [], contribs := [], bars := []
          seq := (p.seq + 1) % 2 ^ 32
          sstate := if resident then 2 else 1
          rcode := 0, spawn := r, u := n, d := 0, l := 0, e := 0, liveCount := n, nextTag := 1 }
        let s := q.foldl (fun t x => t.setSpur (k.1, x) { t.spur (k.1, x) with rdc := [], ibuf := [] }) s
        let s := s.setMyProg p
        if resident then
          if heldAny p q then set (s.setMyProg { p with held := some r }) else set (startMembers s k r)
        else set s
        pure .adv) s

def execSpawn (d : Nat) (o : Int) (s : State) : Out := spawnWith false d o s
def execSpawnr (d : Nat) (o : Int) (s : State) : Out := spawnWith true d o s

/-- A held SPAWNR is placed in the first interval in which none of the zones of its spurs is held (R306). -/
def execResidentPlacement (die core : Nat) (s : State) : Out :=
  let k := (die, core)
  let p := s.prog k
  match p.held with
  | some r =>
    when (!heldAny p (r.quota.filter fun n => !(s.spur (die, n)).fenced) && p.ending.isNone && p.saving.isNone)
      (fun s => startMembers s k r) s
  | none => .next s

/-! ### Reductions at JOIN (R289 to R291) -/

/-- Two values of a reduction slot combined (R289). -/
def jredOp (op : Nat) (x y : Word) : Word × Flags :=
  match op with
  | 0 => (x + y, 0)
  | 1 => (if x.slt y then x else y, 0)
  | 2 => (if x.slt y then y else x, 0)
  | 3 => (if x.ult y then x else y, 0)
  | 4 => (if x.ult y then y else x, 0)
  | 5 =>
    let (r, fl) := fAdd fp64 ⟨0, false, false, 0, 0⟩ 0 x.toNat y.toNat
    (wordN r, fl)
  | _ =>
    let (r, fl) := fAdd fp32 ⟨0, false, false, 0, 0⟩ 0 (x.toNat % 2 ^ 32) (y.toNat % 2 ^ 32)
    (wordN r, fl)

/-- A value, or none, with the flags raised so far. -/
abbrev JVal := Option Word × Flags

/-- x ⊕ y, none being neutral (R290). -/
def jCombine (op : Nat) (x y : JVal) : JVal :=
  match x.1, y.1 with
  | some a, some b =>
    let (r, fl) := jredOp op a b
    (some r, x.2 ||| y.2 ||| fl)
  | some a, none => (some a, x.2 ||| y.2)
  | none, b => (b, x.2 ||| y.2)

/-- One level of the sparse tree of R291: nodes (index, value) in ascending index; 2i and 2i + 1 combine, lower first. -/
def jLevel (op : Nat) : List (Nat × JVal) → List (Nat × JVal)
  | (i, x) :: (j, y) :: r =>
    if i / 2 = j / 2 then (i / 2, jCombine op x y) :: jLevel op r else (i / 2, x) :: jLevel op ((j, y) :: r)
  | [(i, x)] => [(i / 2, x)]
  | [] => []

/-- The root after n levels. -/
def jTree (op : Nat) : Nat → List (Nat × JVal) → JVal
  | 0, xs => (xs.headD (0, (none, 0))).2
  | n + 1, xs => jTree op n (jLevel op xs)

/-- The value of slot `slot` over the threads of one descriptor, by nesting depth: each thread folds its items in order
(R290), and the threads meet in the tree of R291 (32 levels hold every count; levels above the least only pass on). -/
def jRoot (cs : List Contrib) (slot op : Nat) : Nat → Nat → JVal
  | 0, _ => (none, 0)
  | fuel + 1, tag =>
    let mine := (cs.filter fun c => c.tag = tag).mergeSort fun a b => a.tid ≤ b.tid
    let value (c : Contrib) : JVal :=
      c.items.foldl (fun z it =>
        match it with
        | .val n _ v => if n = slot then jCombine op z (some v, 0) else z
        | .nest t => jCombine op z (jRoot cs slot op fuel t)) (none, 0)
    jTree op 32 (mine.map fun c => (c.tid, value c))

/-- The operations used on a slot. -/
def jOps (cs : List Contrib) (slot : Nat) : List Nat :=
  (cs.flatMap fun c => c.items.filterMap fun it =>
    match it with
    | .val n op _ => if n = slot then some op else none
    | .nest _ => none).eraseDups

/-- JRES and JVAL of one slot: a slot that mixes operations has an unspecified value and flags (R289). -/
def jSlot (cs : List Contrib) (free slot : Nat) : JVal :=
  match jOps cs slot with
  | [] => (none, 0)
  | [op] => jRoot cs slot op 18 0
  | _ => (some (Config.freeWord (free + slot)), Config.freeFlags (free + slot))

/-! ### JOIN (R282 to R284) -/

/-- JOIN's condition (R284). -/
def joinReady (p : Prog) : Bool := p.u == 0 && p.d == 0 && p.l == 0 && p.e == 0

/-- The join status word (R283). -/
def joinStatus (n : Nat) : Word := wordN (min n (2 ^ 32 - 1) * 2 ^ 32 + if n = 0 then 0 else 1)

/-- JOIN's one step (R282). -/
def joinNow (d : Nat) : Act Unit := do
  let s ← get
  let p := s.myProg
  let rs : List JVal := (List.range 8).map fun i => jSlot p.contribs s.free i
  let lost := p.lostNow.eraseDups.mergeSort (· ≤ ·)
  let flags := p.contribs.foldl (fun (f : Flags) c => f ||| c.flags) 0 ||| rs.foldl (fun (f : Flags) (r : JVal) => f ||| r.2) 0
  let jval := ((List.range 8).filter fun i => ((rs.getD i (none, 0)).1).isSome).foldl (fun t i => t + 2 ^ i) 0
  set ({ s with free := s.free + 8 }.setMyProg { p with
    jres := (List.range 8).map fun i => (i, (rs.getD i (none, 0)).1.getD 0)
    jval := jval
    spflags := p.spflags ||| flags
    lost := lost.take 4096
    lostov := decide (4096 < lost.length)
    lostix := 0
    sstate := 0
    held := none
    contribs := [], lostNow := [], bars := [] })
  mods fun s => settleFences s.myKey s
  wrS d (joinStatus lost.length)

def execJoin (d : Nat) (s : State) : Out :=
  runInstr .m [.w d] (do
    let p ← gets State.myProg
    if !p.spawning then
      wrS d 2
      pure .adv
    else if joinReady p then
      joinNow d
      pure .adv
    else
      mods fun s => s.setMe { s.me with wait := .join d, wmode := s.mode }
      pure .hold) s

/-- A waiting JOIN completes when the counts are zero (R284); a HALT that waits as JOIN does ends the program, the results
discarded (R364). -/
def execJoinComplete (die core : Nat) (s : State) : Out :=
  let a := AgentId.master die core
  match (s.agent a).wait with
  | .join d => when (joinReady (s.prog (die, core))) (finishWait a (do joinNow d; pure .adv)) s
  | .halt => when (joinReady (s.prog (die, core))) (fun s => startEnd s (die, core) haltEnd) s
  | _ => .next s

/-! ### SSPAWN (R276 to R279) -/

/-- The tag of SPWID.DESC in a context. -/
def Ctx.descTag (c : Ctx) : Nat := c.spwid.toNat / 2 ^ 32

/-- The tags of the descriptors that an agent keeps alive: its own, those of its inline parents, and of the numbers withdrawn for
inline runs (R280). -/
def Agent.descTags (a : Agent) : List Nat :=
  a.ctx.descTag :: a.frames.flatMap fun f => f.ctx.descTag :: f.desc.vis :: f.rest.map Desc.vis

/-- Tags of SPWID.DESC in use by live descriptors of a program (R268): with numbers undrawn or withdrawn, or with threads that run,
are parked or await a re-run. -/
def tagsInUse (s : State) (k : Nat × Nat) : List Nat :=
  ((s.die k.1).scree.filter (fun d => d.core = k.2)).map Desc.vis ++
  ((s.agents.filter fun (a, r) => dieOf a = k.1 && r.core == k.2 && r.live).flatMap fun x => x.2.descTags) ++
  ((s.prog k).runList.flatMap fun x => x.agent.descTags) ++ (s.prog k).rerun.map fun x => x.ctx.descTag

/-- A nonzero tag that differs from those in use: the free value where it does, else the least unused (log 9). -/
def pickTag (used : List Nat) (t : Nat) : Nat :=
  if t ≠ 0 ∧ !used.contains t then t
  else ((List.range (used.length + 1)).find? fun n => !used.contains (n + 1)).getD 0 + 1

/-- Scree's capacity (R278). -/
def screeMax : Nat := 4096

/-- The registers s1 to s4 that an SSPAWN with a count reads. -/
def argOpds : List Opd := [.r 1, .r 2, .r 3, .r 4]

/-- SSPAWN (R276): it reads s1 to s4 besides its operands where its count is not zero, and waits there for a Ridge result on its way
to them (R287). The thread's earlier accesses are performed first, as for SPAWN (R202). -/
def execSspawn (d a p : Nat) (s : State) : Out :=
  runInstr .t [.r d, .r a] (do
    let x ← rdS a
    let e := vaOf x
    trapIf (decide (e % 4 ≠ 0)) cALIGN x
    let w ← readHeader (wordN e)
    let s ← get
    let c := s.ctx
    let level := c.nlevel.toNat % 32
    trapIf (decide (level = 16)) cNESTDEEP (wordN e)
    let n := (← rdS d).toNat % 2 ^ 32
    if n = 0 then pure .adv
    else if ridgeBusy s argOpds then
      set (deliverRidge s)
      pure .hold
    else
    match sourceCheck argOpds s with
    | some t => trap t.cause t.tval
    | none =>
    if decide (screeMax ≤ (s.die s.myKey.1).scree.length) && !dynRoom s s.myKey 1 then
      set (requestExtent s s.myKey s.cur)
      pure .hold
    else
      drainFor fun x => decide (s.me.frames.length ≤ x.depth)
      let s ← get
      let c := s.ctx
      let k := s.myKey
      let pr := s.myProg
      let vis := pickTag (tagsInUse s k) (Config.descTag s.free).toNat
      let ds : Desc :=
        { tag := pr.nextTag, vis := vis, core := k.2, entry := e, window := w, count := n, next := 0, prio := p
          args := [c.rs 1, c.rs 2, c.rs 3, c.rs 4]
          fcsr := c.fcsr &&& ~~~31#64, srseed := mix64 c.srseed, tvec := c.tvec, wlim := c.wlim
          level := level + 1, ptag := s.me.tag, ptid := c.tid.toNat, anc := s.me.anc }
      let s := { s with free := s.free + 1 }
      let s := s.setMe { s.me with items := s.me.items ++ [.nest ds.tag], ctx := { s.ctx with side := true } }
      let r := s.die k.1
      if r.scree.length < screeMax then
        let s := (s.setDie k.1 { r with scree := r.scree ++ [ds] }).setMyProg { pr with d := pr.d + n, nextTag := pr.nextTag + 1 }
        set (s.setCtx { s.ctx with srseed := advanceSeed s.ctx.srseed })
        pure .adv
      else
        set (s.setMyProg { pr with nextTag := pr.nextTag + 1 })
        startInline ds [] false) s

/-- An inline child, or the parent after its last, enters once REG has room (R279). -/
def execInlineChildStart (who : AgentId) (s : State) : Out :=
  when ((s.agent who).live && (s.agent who).wait == .room) (fun s => inlineStep s who) s

/-! ### Dispatch (R274, R278, R306, R310, R380) -/

/-- The program whose spur a slot belongs to (R17). -/
def slotProg (s : State) (who : AgentId) : Option (Nat × Nat) :=
  ((s.spur (dieOf who, spurOf who)).owner).map fun c => (dieOf who, c)

/-- Whether an idle slot of a program may take a thread at all. -/
def slotIdle (s : State) (who : AgentId) : Bool :=
  isSlot who && onPackage who && !(s.agent who).live && !(s.spur (dieOf who, spurOf who)).fenced

/-- Whether the slot's spur is on the quota list of its program's spawn (R271). -/
def onList (p : Prog) (who : AgentId) : Bool := p.spawning && p.ending.isNone && p.saving.isNone && p.spawn.quota.contains (spurOf who)

/-- Whether the governor holds the slot's program in its zone (R305). -/
def slotHeld (p : Prog) (who : AgentId) : Bool := p.heldZones.contains (zoneOf (spurOf who))

/-- The parked thread a slot returns first (R310): the oldest runnable one of its own spur, else the oldest from a spur
fenced since. -/
def parkedFor (s : State) (k : Nat × Nat) (p : Prog) (who : AgentId) : Option Nat :=
  let idx := p.runList.zipIdx
  match idx.find? fun (x, _) => x.runnable && x.spur == spurOf who with
  | some (_, i) => some i
  | none => (idx.find? fun (x, _) => x.runnable && (s.spur (k.1, x.spur)).fenced).map (·.2)

/-- Whether a slot takes a re-run before a fresh number (R310). -/
def rerunFirst (p : Prog) (who : AgentId) : Bool := !p.rerun.isEmpty && !slotHeld p who

/-- What every fresh grant or draw needs (R274, R310). -/
def freshReady (s : State) (k : Nat × Nat) (p : Prog) (who : AgentId) : Bool :=
  slotIdle s who && onList p who && (parkedFor s k p who).isNone && !rerunFirst p who && !slotHeld p who

/-- A thread started in a slot with a window of its own. -/
def placeThread (s : State) (k : Nat × Nat) (who : AgentId) (resident : Bool) (st : Start) : State :=
  match rewindow s who st.ctx.window with
  | none => s
  | some t => startThread t who k.2 resident st

/-- Whether a window fits on the slot's spur. -/
def roomFor (s : State) (who : AgentId) (w : Nat) : Bool := ((s.spur (dieOf who, spurOf who)).fit w).isSome

/-- The Ridge grants the next number of a plain spawn to a slot (R274): U falls and L rises in the same step (R284). -/
def execNumberGrant (who : AgentId) (s : State) : Out :=
  match slotProg s who with
  | none => .next s
  | some k =>
    let p := s.prog k
    when (freshReady s k p who && decide (p.sstate = 1) && decide (0 < p.u) && roomFor s who p.spawn.window) (fun s =>
      let n := p.spawn.next
      let s := s.setProg k { p with u := p.u - 1, l := p.l + 1, spawn := { p.spawn with next := n + 1 } }
      placeThread s k who false ⟨threadCtx p.spawn p.seq n, 0, n⟩) s

/-- An idle slot draws the next number of the best eligible descriptor (R278). -/
def execScreeDraw (who : AgentId) (s : State) : Out :=
  match slotProg s who with
  | none => .next s
  | some k =>
    let p := s.prog k
    let r := s.die k.1
    match bestDesc (r.scree.filter fun d => d.core = k.2) with
    | none => .next s
    | some d =>
      when (freshReady s k p who && decide (p.sstate ≠ 1 ∨ p.u = 0) && roomFor s who d.window) (fun s =>
        let left := if d.next + 1 < d.count then r.scree.map (fun x => if x = d then { d with next := d.next + 1 } else x)
          else r.scree.filter fun x => x ≠ d
        let s := (s.setDie k.1 { r with scree := left }).setProg k { p with d := p.d - 1, l := p.l + 1 }
        placeThread s k who false ⟨childCtx p d d.next false, d.tag, d.anc⟩) s

/-- A slot starts a lost thread from its start record, in ascending TID (R380). -/
def execRerunTake (who : AgentId) (s : State) : Out :=
  match slotProg s who with
  | none => .next s
  | some k =>
    let p := s.prog k
    match p.rerun with
    | [] => .next s
    | st :: rest =>
      when (slotIdle s who && onList p who && (parkedFor s k p who).isNone && !slotHeld p who &&
          roomFor s who st.ctx.window) (fun s =>
        placeThread (s.setProg k { p with rerun := rest }) k who false st) s

/-- The i-th thread of a run list back in a slot, with its record as it reads (R310), where its window has room. -/
def returnParked (k : Nat × Nat) (i : Nat) (x : Parked) (who : AgentId) (s : State) : State :=
  let (c, t) := recordBack k x.record x.agent.ctx x.agent.frames s
  match rewindow t who c.window with
  | none => s
  | some t =>
    let p := t.prog k
    (t.setProg k { p with runList := listDel p.runList i }).setAgent who { x.agent with wait := .none, ctx := c }

/-- A slot restores a runnable parked thread, which executes its instruction again (R310), once its record can be read where it stands
(R208) and its window has room. -/
def execParkedThreadReturn (who : AgentId) (s : State) : Out :=
  match slotProg s who with
  | none => .next s
  | some k =>
    let p := s.prog k
    match parkedFor s k p who with
    | none => .next s
    | some i =>
      match p.runList[i]? with
      | none => .next s
      | some x =>
        when (slotIdle s who && p.ending.isNone && p.saving.isNone && !recordBusy s k x.record) (returnParked k i x who) s

/-! ### TEND (R281) -/

/-- A thread's reduction value and flags kept for JOIN (R83, R290). -/
def contribute (s : State) (who : AgentId) : State :=
  let a := s.agent who
  let k := s.progKey who
  let p := s.prog k
  s.setProg k { p with contribs := p.contribs ++ [⟨a.tag, a.ctx.tid.toNat, a.items, fcsrFlags a.ctx.fcsr⟩] }

/-- After TEND's drain: the contribution, then the parent's frame, or the slot free and L lower (R281). -/
def endThread (s : State) (who : AgentId) : State :=
  let s := contribute s who
  let a := s.agent who
  match a.frames with
  | _ :: _ => inlineStep s who
  | [] =>
    let s := unwindow s who
    let k := s.progKey who
    let p := s.prog k
    let sk := (dieOf who, spurOf who)
    let s := s.setSpur sk ((s.spur sk).noticeOver a.outer)
    (s.setProg k { p with l := p.l - 1 }).setAgent who Agent.blank

/-- TEND once every outstanding access of the thread is performed, those of its inline parents apart: a deferred trap first
(R358). -/
def tendNow : Act Fin := do
  let n ← gets fun s => s.me.frames.length
  drainFor fun p => decide (n ≤ p.depth)
  match ← takeDeferred with
  | some t =>
    mods fun s => takeTrap s t
    pure .hold
  | none =>
    mods fun s => endThread s s.cur
    pure .hold

def execTend (s : State) : Out :=
  runInstr .t [] (do
    let s ← get
    if s.defer && !s.me.pend.isEmpty then
      set (s.setMe { s.me with wait := .ended, wmode := s.mode })
      pure .hold
    else tendNow) s

/-- A waiting TEND ends its thread (R281). -/
def execThreadEnd (who : AgentId) (s : State) : Out :=
  when ((s.agent who).live && (s.agent who).wait == .ended) (finishWait who (do
    mods fun s => s.setMe { s.me with wait := .none }
    tendNow)) s

end Sys2Proof.Machine
end

