-- ==== Sys2Proof/Machine/Barrier.lean ====
section
/-! DEFINITION. Named barriers (10_spawn.md R292, R293). -/

namespace Sys2Proof.Machine

/-- A barrier of a program's spawn: before any BARINIT its count is the spawn's, less the
members lost (R292, R381). -/
def Prog.bar (p : Prog) (id : Nat) : Bar := tabGet p.bars id ⟨p.liveCount, none, []⟩

/-- A barrier replaced. -/
def Prog.setBar (p : Prog) (id : Nat) (b : Bar) : Prog := { p with bars := tabSet p.bars id b }

/-- A phase whose arrivals reach C releases every arrived thread and advances (R293). -/
def barTry (s : State) (k : Nat × Nat) (id : Nat) : State :=
  let p := s.prog k
  let b := p.bar id
  if b.c ≤ b.arrived.length then
    let s := s.setProg k (p.setBar id ⟨b.cNext.getD b.c, none, []⟩)
    b.arrived.foldl (fun t a => asAgent a (t.agent a).wmode retire t) s
  else s

/-- BAR (R293): the drain of R280, then one arrival, and the slot parks until the phase is complete. -/
def execBar (i : Int) (s : State) : Out :=
  runInstr .t [] (do
    wakeCheck
    afterDrain (do
      let id := i.toNat
      markSide
      mods fun s =>
        let s := s.setMe { s.me with wait := .bar id, wmode := s.mode }
        let p := s.myProg
        let b := p.bar id
        barTry (s.setMyProg (p.setBar id { b with arrived := b.arrived ++ [s.cur] })) s.myKey id
      pure .hold)) s

/-- BARINIT (R293): the count, from this phase if it has no arrival, else from the next. -/
def execBarinit (a : Nat) (i : Int) (s : State) : Out :=
  runInstr .t [.r a] (do
    let x := (← rdS a).toNat
    markSide
    mods fun s =>
      let p := s.myProg
      let c := if x = 0 ∨ p.liveCount < x then p.liveCount else x
      let b := p.bar i.toNat
      s.setMyProg (p.setBar i.toNat (if b.arrived.isEmpty then { b with c := c } else { b with cNext := some c }))
    pure .adv) s

/-- An arrival withdrawn (R293). -/
def barWithdraw (s : State) (who : AgentId) (id : Nat) : State :=
  let k := s.progKey who
  let p := s.prog k
  let b := p.bar id
  s.setProg k (p.setBar id { b with arrived := b.arrived.filter fun a => a ≠ who })

/-- WLIM expires on a barrier wait (R293): the arrival is withdrawn and the thread traps WLIMIT with the barrier. -/
def execBarWlimExpiry (who : AgentId) (s : State) : Out :=
  match (s.agent who).wait with
  | .bar id =>
    when (due s who) (fun s => trapWait who ⟨cWLIMIT, wordN id⟩ (barWithdraw s who id)) s
  | _ => .next s

end Sys2Proof.Machine
end

