-- ==== Sys2Proof/Machine/Atomic.lean ====
section
/-! DEFINITION. Atomics, reductions, full-empty granules and fences (08_memory_instr.md R229 to R237), and the events that
perform outstanding accesses (R221, R233, R234). -/

namespace Sys2Proof.Machine

/-! ### Loads and stores under way -/

/-- A load's reply arrives: the load is performed and the slot rejoins the rotation (R221). -/
def execLoadReply (who : AgentId) (s : State) : Out :=
  match (s.agent who).wait with
  | .load r => .next (finishWait who (do performLoad r; pure .adv) s)
  | _ => .next s

/-- The outstanding access of an agent at a place of its list that may be performed now: no earlier one to the same bytes
(R195), none of its words claimed (R233), no line owned by an engine (R208). -/
def pendReady (s : State) (who : AgentId) (k : Nat) (store : Bool) : Option Pend :=
  let ps := (s.agent who).pend
  match ps[k]? with
  | none => none
  | some p =>
    let kindOk := match p.kind with
      | .store _ => store
      | .red .. => !store
    if kindOk && pendFree s p && (ps.take k).all (fun q => !overlaps q p.keys) then some p else none

/-- An outstanding access joins the queue of a word of it that is claimed (R233); where an engine owns a line of it, its turn comes
after that (R208). -/
def joinQueue (s : State) (who : AgentId) (k : Nat) (store : Bool) : State :=
  let a := s.agent who
  match a.pend[k]? with
  | none => s
  | some p =>
    let kindOk := match p.kind with
      | .store _ => store
      | .red .. => !store
    let ws := (p.keys.map (· / 8)).eraseDups.filter fun w => !(tabGet s.claims w []).isEmpty
    if kindOk && !p.queued && !ws.isEmpty && !p.keys.any s.ownedLine then
      let s := s.setAgent who { a with pend := listSet a.pend k { p with queued := true } }
      { s with claims := ws.foldl (fun t w => tabSet t w (tabGet t w [] ++ [ClaimEntry.op who p.id])) s.claims }
    else s

/-- An outstanding access reaches its home: performed, or queued behind a claim. -/
def arrivePend (who : AgentId) (k : Nat) (store : Bool) (s : State) : Out :=
  match pendReady s who k store with
  | some p => .next (dropPend (performPend s who p) who p.id)
  | none => .next (joinQueue s who k store)

def execStorePerform (who : AgentId) (k : Nat) (s : State) : Out := arrivePend who k true s
def execRedApply (who : AgentId) (k : Nat) (s : State) : Out := arrivePend who k false s

/-! ### Returning atomics (R232 to R234, R237) -/

/-- The new word of an atomic (R232). -/
def amoNew (r : AmoReq) (old : Nat) : Nat :=
  let y := r.y.toNat % 2 ^ r.w
  match r.fn with
  | 0 => y
  | 1 => (old + y) % 2 ^ r.w
  | 2 => old &&& y
  | 3 => old ||| y
  | 4 => old ^^^ y
  | 5 => if sextN r.w old < sextN r.w y then old else y
  | 6 => if sextN r.w old < sextN r.w y then y else old
  | 7 => min old y
  | 8 => max old y
  | _ => if old = r.expect.toNat % 2 ^ r.w then y else old

/-- An atomic applied as one step at its home, where every L1 copy of the line is recalled first, the issuer's own included (R233): the
word's old value, and the state. -/
def applyAmo (r : AmoReq) (s : State) : Nat × State :=
  let (bs, s) := maskSpill s r.keys (memGets s.mem r.keys)
  let old := leNat bs
  let s := touchL1 s (.slot (dieOf s.cur) 0 0 0) false true r.keys
  let s := match r.src with
    | some q => noteApplied s q r.homes r.keys old
    | none => s
  (old, { s with mem := memSets s.mem r.keys (leBytes r.keys.length (amoNew r old)) })

/-- A request whose home does not answer: LINKERR with the effective address, the instruction not complete; whether the request was
applied is unspecified (R239). -/
def linkLost (ea : Word) (apply : State → State) : Act Fin := do
  let s ← get
  let s := { s with free := s.free + 1 }
  set (takeTrap (if Config.freeBit (s.free - 1) then apply s else s) ⟨cLINKERR, ea⟩)
  pure .hold

/-- The atomic in its turn (R233): the poison a grant carries traps (R234). -/
def performAmo (r : AmoReq) : Act Fin := do
  let s ← get
  if r.homes.all s.reach then
    trapIf (r.keys.any s.poisoned) cPOISON r.ea
    let (old, t) := applyAmo r s
    set t
    wrS r.d (wordOf (sextN r.w old))
    pure .adv
  else linkLost r.ea fun s => if r.keys.any s.poisoned then s else (applyAmo r s).2

/-- Whether R237 lets an atomic reach host memory. -/
def hostAtomic (fn : Nat) : Bool := (fn == 0 || fn == 1 || fn == 9) && Config.hostAtomicOps

/-- AMO and AMOCAS (R232): after the agent's earlier accesses to the bytes (R195), performed at once, or queued for the claim of the
word (R233). -/
def amo (fn w d a b : Nat) (s : State) : Out :=
  runInstr .tm [if fn = 9 then .rw d else .w d, .r a, .r b] (do
    let ea ← rdS a
    let y ← rdS b
    let x ← rdS d
    trapIf (decide (vaOf ea % (w / 8) ≠ 0)) cALIGN ea
    let (keys, homes, _) ← transHomes .atomic (vaOf ea) (w / 8)
    trapIf (keys.any fun k => keySpace k == 1 && !hostAtomic fn) cPROT (wordN (vaOf ea))
    awaitOwner keys
    orderAfter keys
    markSide
    let r : AmoReq := ⟨fn, w, d, y, x, ea, keys, homes, ← newSrc homes keys⟩
    let s ← get
    let word := keys.headD 0 / 8
    if s.defer ∨ claimedWord s keys then
      let s := s.setMe { s.me with wait := .claim r, wmode := s.mode }
      set { s with claims := tabSet s.claims word (tabGet s.claims word [] ++ [ClaimEntry.amo s.cur]) }
      pure .hold
    else performAmo r) s

def execAmoSwapW (d a b : Nat) (s : State) : Out := amo 0 32 d a b s
def execAmoAddW (d a b : Nat) (s : State) : Out := amo 1 32 d a b s
def execAmoAndW (d a b : Nat) (s : State) : Out := amo 2 32 d a b s
def execAmoOrW (d a b : Nat) (s : State) : Out := amo 3 32 d a b s
def execAmoXorW (d a b : Nat) (s : State) : Out := amo 4 32 d a b s
def execAmoMinW (d a b : Nat) (s : State) : Out := amo 5 32 d a b s
def execAmoMaxW (d a b : Nat) (s : State) : Out := amo 6 32 d a b s
def execAmoSwapD (d a b : Nat) (s : State) : Out := amo 0 64 d a b s
def execAmoAddD (d a b : Nat) (s : State) : Out := amo 1 64 d a b s
def execAmoAndD (d a b : Nat) (s : State) : Out := amo 2 64 d a b s
def execAmoOrD (d a b : Nat) (s : State) : Out := amo 3 64 d a b s
def execAmoXorD (d a b : Nat) (s : State) : Out := amo 4 64 d a b s
def execAmoMinD (d a b : Nat) (s : State) : Out := amo 5 64 d a b s
def execAmoMaxD (d a b : Nat) (s : State) : Out := amo 6 64 d a b s
def execAmoMinuW (d a b : Nat) (s : State) : Out := amo 7 32 d a b s
def execAmoMaxuW (d a b : Nat) (s : State) : Out := amo 8 32 d a b s
def execAmoMinuD (d a b : Nat) (s : State) : Out := amo 7 64 d a b s
def execAmoMaxuD (d a b : Nat) (s : State) : Out := amo 8 64 d a b s
def execAmocasW (d a b : Nat) (s : State) : Out := amo 9 32 d a b s
def execAmocasD (d a b : Nat) (s : State) : Out := amo 9 64 d a b s

/-! ### Reductions (R235, R237) -/

/-- RED (R235): sent to the home; a 17th pending one stalls. -/
def red (fn w a b : Nat) (s : State) : Out :=
  runInstr .tm [.r a, .r b] (do
    let ea ← rdS a
    let n := if w = 0 ∨ w = 2 then 4 else 8
    trapIf (decide (vaOf ea % n ≠ 0)) cALIGN ea
    let (keys, homes, stream) ← transHomes .red (vaOf ea) n
    trapIf (keys.any fun k => keySpace k == 1) cPROT (wordN (vaOf ea))
    awaitOwner keys
    let s ← get
    if 16 ≤ pendReds s.me then throw .stall
    markSide
    sendPend ea keys homes stream (.red fn w (← rdS b))
    pure .adv) s

def execRedAdd (a b w : Nat) (s : State) : Out := red 0 w a b s
def execRedAnd (a b w : Nat) (s : State) : Out := red 1 w a b s
def execRedOr (a b w : Nat) (s : State) : Out := red 2 w a b s
def execRedXor (a b w : Nat) (s : State) : Out := red 3 w a b s
def execRedMin (a b w : Nat) (s : State) : Out := red 4 w a b s
def execRedMax (a b w : Nat) (s : State) : Out := red 5 w a b s
def execRedMinu (a b w : Nat) (s : State) : Out := red 6 w a b s
def execRedMaxu (a b w : Nat) (s : State) : Out := red 7 w a b s
def execRedFadd (a b w : Nat) (s : State) : Out := red 8 w a b s
def execRedFmin (a b w : Nat) (s : State) : Out := red 9 w a b s
def execRedFmax (a b w : Nat) (s : State) : Out := red 10 w a b s

/-! ### Full-empty granules (R229 to R231) -/

/-- The state bit of a granule: FULL or EMPTY. -/
def granFull (s : State) : Granule → Bool
  | .mem k => s.full.contains (k / 8)
  | .scr d p o => (s.spur (d, p)).scrFull.contains (o / 8)

/-- The state bit set. -/
def setGran (s : State) (g : Granule) (b : Bool) : State :=
  match g with
  | .mem k => { s with full := if b then (k / 8) :: s.full.filter (· ≠ k / 8) else s.full.filter (· ≠ k / 8) }
  | .scr d p o =>
    let q := s.spur (d, p)
    s.setSpur (d, p) { q with scrFull := if b then (o / 8) :: q.scrFull.filter (· ≠ o / 8) else q.scrFull.filter (· ≠ o / 8) }

/-- A granule's word, or POISON. -/
def granRead (g : Granule) (tval : Word) : Act Word := do
  let s ← get
  match g with
  | .mem k =>
    trapIf (s.poisoned k) cPOISON tval
    let (bs, t) := maskSpill s (span k 8) (memGets s.mem (span k 8))
    set t
    pure (wordN (leNat bs))
  | .scr d p o => pure (wordN (leNat (← poolRead (d, p) .scr o 8)))

/-- A granule's word written, at its home, whose directory recalls every L1 copy. -/
def granWrite (g : Granule) (v : Word) : Act Unit :=
  match g with
  | .mem k => mods fun s => (touchL1 s (.slot (dieOf s.cur) 0 0 0) false true (span k 8)).wrN k 8 v.toNat
  | .scr d p o => poolWrite (d, p) .scr o (leBytes 8 v.toNat)

/-- Whether a granule lies in a spur's SCR role still, or in memory (R229, R329). -/
def granExists (s : State) (g : Granule) : Bool :=
  match g with
  | .mem _ => true
  | .scr d p o => decide (o + 8 ≤ (s.spur (d, p)).size .scr)

/-- An access to a granule that a shrink has taken away traps POOLREF in its issuer (R329). -/
def granCheck (g : Granule) : Act Unit := do
  let s ← get
  match g with
  | .mem _ => pure ()
  | .scr _ _ o => trapIf (!granExists s g) cPOOLREF (poolTval .scr o)

/-- Whether a step at a granule need not wait for an engine that writes it (R208, R172). -/
def granReady (s : State) (g : Granule) : Bool :=
  match g with
  | .mem k => !s.ownedLine k
  | .scr d p o => !(s.spur (d, p)).claimed .scr o 8

/-- Whether an operation proceeds in a state (R230): LDF and LDFE on FULL, STF on EMPTY, STO and FEST always. -/
def feProceeds (op : Nat) (full : Bool) : Bool :=
  match op with
  | 0 => full
  | 1 => full
  | 2 => !full
  | _ => true

/-- The step of R230 at a granule: the loaded word for LDF and LDFE, the old state for the others. -/
def feStep (op : Nat) (g : Granule) (y tval : Word) : Act Word := do
  let old ← gets fun s => granFull s g
  match op with
  | 0 => granRead g tval
  | 1 =>
    let w ← granRead g tval
    mods fun s => setGran s g false
    pure w
  | 4 =>
    if !(y.getLsbD 1) then mods fun s => setGran s g (y.getLsbD 0)
    pure (if old then 1 else 0)
  | _ =>
    granWrite g y
    mods fun s => setGran s g true
    pure (if old then 1 else 0)

/-- Whether a full-empty operation changes its granule: all but LDF, and FEST without a new state (R230). -/
def FeReq.writes (r : FeReq) : Bool := r.op != 0 && !(r.op == 4 && r.y.getLsbD 1)

/-- The homes of a granule's line. -/
def granHomes (s : State) (g : Granule) : List Home := (g.keys.map s.homeOfKey).eraseDups

/-- The source of a full-empty step that changes a granule beyond a link (R238): that of its request, or a new one. -/
def feSource (r : FeReq) (s : State) : Option LinkSrc × State :=
  match r.src with
  | some q => (some q, s)
  | none => if r.writes && r.g.keys != [] then takeSrc s s.cur (granHomes s r.g) else (none, s)

/-- The step of a full-empty operation at its granule (R230), kept by the home slice that has applied it (R238). -/
def feApply (r : FeReq) : Act Word := do
  let x ← feStep r.op r.g r.y r.tval
  mods fun s =>
    match feSource r s with
    | (some q, s) => noteApplied s q (granHomes s r.g) r.g.keys x.toNat
    | (none, s) => s
  pure x

/-- What a full-empty operation writes to its register (R230). -/
def feFinish (r : FeReq) : Act Fin := do
  granCheck r.g
  let s ← get
  if (granHomes s r.g).all s.reach then
    let x ← feApply r
    if r.op = 0 ∨ r.op = 1 ∨ r.op = 4 then wrS r.d x
    pure .adv
  else linkLost r.tval fun s =>
    match (feApply r).run s with
    | .ok (_, t) => t
    | .error _ => s

/-- A remote access's operation code (R245). -/
def remoteOp (r : RemoteReq) : Nat := if r.load then (if r.keep then 0 else 1) else (if r.keep then 3 else 2)

/-- A remote access performed by slot 31 of its target (R245, R246): RLD's word, or RST's status. A shrink since its issue may have
taken its bytes away (R329). -/
def remoteStep (r : RemoteReq) : Act Fin := do
  let g := Granule.scr r.die r.spur r.off
  let p ← gets fun s => s.spur (r.die, r.spur)
  trapIf (decide (p.size .scr < r.off + r.size)) cPOOLREF (poolTval .scr r.off)
  if r.fe then
    let x ← feStep (remoteOp r) g r.data r.tval
    wrS r.d (if r.load then x else wordN (x.toNat % 2 * 2 ^ 32))
  else if r.load then wrS r.d (wordN (leNat (← poolRead (r.die, r.spur) .scr r.off r.size)))
  else
    poolWrite (r.die, r.spur) .scr r.off (leBytes r.size r.data.toNat)
    wrS r.d 0
  pure .adv

/-- The operation code of an agent's full-empty wait, if it is one. -/
def waitOp (a : Agent) : Option Nat :=
  match a.wait with
  | .granule r => some r.op
  | .remote r => if r.fe then some (remoteOp r) else none
  | _ => none

/-- A waiter's step performed. -/
def serveWaiter (s : State) (who : AgentId) : State :=
  match (s.agent who).wait with
  | .granule r => finishWait who (feFinish r) s
  | .remote r => finishWait who (remoteStep r) s
  | _ => s

/-- The earliest waiter of a granule that can proceed (R231). -/
def nextWaiter (s : State) (g : Granule) : Option AgentId :=
  if granReady s g then
    (s.feWait.find? fun (x, who) =>
      x == g && (match waitOp (s.agent who) with
        | some op => feProceeds op (granFull s g)
        | none => false)).map (·.2)
  else none

/-- Serves the waiters of a granule until none can proceed (R231): each service removes one, so the list's length bounds
the rounds. -/
def serveGranule : Nat → Granule → State → State
  | 0, _, s => s
  | n + 1, g, s =>
    match nextWaiter s g with
    | none => s
    | some who =>
      let s := { s with feWait := s.feWait.filter fun x => x.2 ≠ who }
      serveGranule n g (serveWaiter s who)

/-- Serves a granule after a step at it. -/
def wakeGranule (g : Granule) : Act Unit := mods fun s => serveGranule s.feWait.length g s

/-- Serves the granules that an engine no longer keeps from being served: those of a test that have waiters. -/
def serveGranules (f : Granule → Bool) (s : State) : State :=
  ((s.feWait.map (·.1)).eraseDups.filter f).foldl (fun t g => serveGranule t.feWait.length g t) s

/-- The granule a base register and offset name (R229): a scratch granule when the tag of the base is 0xF0. A scratch form checks
POOLREF and ALIGN before PROT on the master (R247), which has no SCR role that an offset could exceed. -/
def granuleOf (x : Word) (i : Int) (op : Nat) (setsState : Bool) : Act (Granule × Word) := do
  let s ← get
  let ea := eaImm x i 8
  if x.toNat / 2 ^ 56 = 0xF0 then
    let off : Int := ((x.toNat % 2 ^ 20 : Nat) : Int) + i * 8
    let size := (s.spur s.mySpurKey).size .scr
    trapIf (decide (x.toNat / 2 ^ 20 % 2 ^ 36 ≠ 0) || (isSlot s.cur && (decide (off < 0) || decide ((size : Int) < off + 8)))) cPOOLREF
      (poolTval .scr (off % 2 ^ 20).toNat)
    trapIf (decide (off % 8 ≠ 0)) cALIGN ea
    trapIf (!isSlot s.cur) cPROT ea
    pure (.scr s.mySpurKey.1 s.mySpurKey.2 off.toNat, ea)
  else
    trapIf (decide (vaOf ea % 8 ≠ 0)) cALIGN ea
    let (e, key) ← transE .granule (vaOf ea)
    trapIf (decide (keySpace key ≠ 0)) cPROT ea
    let writes := op == 1 || op == 2 || op == 3 || (op == 4 && setsState)
    trapIf (writes && pteRoSpawn e && s.myProg.spawning) cPROT (wordN (vaOf ea))
    awaitOwner [key]
    orderAfter (span key 8)
    pure (.mem key, ea)

/-- The executing agent waits in a full-empty operation. -/
def parkFe (r : FeReq) : Act Unit := mods fun s => s.setMe { s.me with wait := .granule r, wmode := s.mode }

/-- A step that does not wait joins the queue of its claimed word (R233). -/
def queueFe (r : FeReq) : Act Fin := do
  let src ← if r.writes then do newSrc (granHomes (← get) r.g) r.g.keys else pure none
  parkFe { r with src := src }
  match r.g with
  | .mem k => mods fun s => { s with claims := tabSet s.claims (k / 8) (tabGet s.claims (k / 8) [] ++ [ClaimEntry.fe s.cur]) }
  | _ => pure ()
  pure .hold

/-- A full-empty operation (R230): where its condition holds it proceeds, or joins its claimed word's queue (R233); else it drains
(R280) and becomes a waiter of its granule (R231). STF and STO are releases at .S, whose domain holds no outstanding access. The
side-effect bit of R221 is set by an operation that changes a granule of memory; R221's list says only 'full-empty write': that a
scratch granule, and an LDFE that an RLD makes on another spur, set none is the model's choice (DESIGN CHOICE, log 49). -/
def fullEmpty (op d a : Nat) (i : Int) (s : State) : Out :=
  runInstr .tm [if op = 0 ∨ op = 1 then .w d else if op = 4 then .rw d else .r d, .r a] (do
    if op = 0 ∨ op = 1 ∨ op = 2 then wakeCheck
    let x ← rdS a
    let y ← rdS d
    let (g, ea) ← granuleOf x i op (!(y.getLsbD 1))
    let r : FeReq := ⟨op, g, d, y, ea, none⟩
    let s ← get
    if r.writes then
      match g with
      | .mem _ => markSide
      | _ => pure ()
    if feProceeds op (granFull s g) then
      if (match g with | .mem k => claimedWord s [k] | _ => false) then queueFe r
      else
        let f ← feFinish r
        wakeGranule g
        pure f
    else
      afterDrain (do
        parkFe r
        mods fun s => { s with feWait := s.feWait ++ [(g, s.cur)] }
        pure .hold)) s

def execLdf (d a : Nat) (i : Int) (s : State) : Out := fullEmpty 0 d a i s
def execLdfe (d a : Nat) (i : Int) (s : State) : Out := fullEmpty 1 d a i s
def execStf (d a : Nat) (i : Int) (s : State) : Out := fullEmpty 2 d a i s
def execSto (d a : Nat) (i : Int) (s : State) : Out := fullEmpty 3 d a i s
def execFest (d a : Nat) (i : Int) (s : State) : Out := fullEmpty 4 d a i s

/-- A waiter withdrawn from its granule, or from the port before a full table (R246). -/
def feWithdraw (s : State) (who : AgentId) : State :=
  { s with feWait := s.feWait.filter fun x => x.2 ≠ who, ports := s.ports.filter fun x => x.2 ≠ who }

/-- WLIM expires on a full-empty wait (R231). A waiter whose granule a shrink has taken away traps POOLREF (R329). -/
def execFeWaitExpiry (who : AgentId) (s : State) : Out :=
  match (s.agent who).wait with
  | .granule r =>
    let t : Trap := if granExists s r.g then ⟨cWLIMIT, r.tval⟩
      else ⟨cPOOLREF, poolTval .scr (match r.g with | .scr _ _ o => o | .mem _ => 0)⟩
    when ((due s who || !granExists s r.g) && s.feWait.any (fun x => x.2 == who)) (fun s => trapWait who t (feWithdraw s who)) s
  | _ => .next s

/-! ### The queue of a claimed word (R233, R234) -/

/-- Removes the head of a word's queue. -/
def popClaim (s : State) (w : Nat) : State :=
  let q := (tabGet s.claims w []).drop 1
  { s with claims := if q.isEmpty then tabDel s.claims w else tabSet s.claims w q, granted := s.granted.filter (· ≠ w) }

/-- An outstanding access performed in its turn, after the earlier ones of its agent to the same bytes (R195). -/
def performTurn (s : State) (who : AgentId) (id : Nat) : State :=
  (drainList (fun q => decide (q.id = id)) (s.agent who).pend).foldl (fun t p => dropPend (performPend t who p) who p.id) s

/-- Serves the head of a word's queue, which came before every owner of its line (R208): stores, reductions and full-empty steps are performed in their turn, until an
atomic stands there, which is granted with the word's value; a grant that carries poison traps its claimant. A full-empty step whose
condition no longer holds in its turn issues again, and then waits as R231 says. -/
def serveClaims : Nat → Nat → State → State
  | 0, _, s => s
  | n + 1, w, s =>
    match tabGet s.claims w [] with
    | [] => s
    | .op who id :: _ =>
      match (s.agent who).pend.find? fun p => p.id = id with
      | some _ =>
        let s := popClaim s w
        serveClaims n w (if s.claims.any (fun (_, q) => q.contains (ClaimEntry.op who id)) then s else performTurn s who id)
      | none => serveClaims n w (popClaim s w)
    | .fe who :: _ =>
      let s := popClaim s w
      match (s.agent who).wait with
      | .granule r =>
        if feProceeds r.op (granFull s r.g) then
          let s := finishWait who (feFinish r) s
          serveClaims n w (serveGranule s.feWait.length r.g s)
        else serveClaims n w (s.setAgent who { s.agent who with wait := .again })
      | _ => serveClaims n w s
    | .amo who :: _ =>
      if s.poisoned (w * 8) then
        let t := match (s.agent who).wait with
          | .claim r => trapWait who ⟨cPOISON, r.ea⟩ s
          | _ => s
        serveClaims n w (popClaim t w)
      else { s with granted := w :: s.granted.filter (· ≠ w) }

/-- The home slice grants a word's claim to the head of its queue (R233). -/
def execClaimGrant (word : Nat) (s : State) : Out :=
  when (!s.granted.contains word) (fun s => serveClaims (tabGet s.claims word []).length word s) s

/-- The claimant returns the new word, and the next claim is granted in the same step (R233). -/
def execClaimRelease (word : Nat) (s : State) : Out :=
  match tabGet s.claims word [] with
  | .amo who :: _ =>
    match (s.agent who).wait with
    | .claim r =>
      when (s.granted.contains word) (fun s =>
        let s := popClaim s word
        let s := finishWait who (performAmo r) s
        serveClaims (tabGet s.claims word []).length word s) s
    | _ => .next s
  | _ => .next s

/-! ### Fences (R199, R236) -/

/-- A fence: the outstanding accesses it waits for are performed, then a deferred trap is taken, else it completes. -/
def fenceWith (f : AgentId → Pend → Bool) (s : State) : Out :=
  runInstr .tm [] (do
    let who ← gets State.cur
    drainFor (f who)
    match ← takeDeferred with
    | some t =>
      mods fun s => takeTrap s t
      pure .hold
    | none => pure .adv) s

/-- FENCE.T (R198): it orders no location across addresses, but the source reads of the issuer's later engine commands follow its
earlier accesses to the same bytes (R209). -/
def execFenceT (s : State) : Out :=
  runInstr .tm [] (do
    match ← takeDeferred with
    | some t =>
      mods fun s => takeTrap s t
      pure .hold
    | none =>
      mods fun s => s.setMe { s.me with fenceT := s.me.nextPend }
      pure .adv) s

def execFenceS (s : State) : Out := fenceWith (fun who => inDomain (dieOf who) 1) s
def execFenceD (s : State) : Out := fenceWith (fun who => inDomain (dieOf who) 2) s
def execFenceP (s : State) : Out := fenceWith (fun who => inDomain (dieOf who) 3) s
def execFenceX (s : State) : Out := fenceWith (fun who => inDomain (dieOf who) 4) s

/-- REDWAIT (R201, R236): every earlier reduction of the issuer is applied. -/
def execRedwait (s : State) : Out :=
  fenceWith (fun _ p => match p.kind with | .red .. => true | _ => false) s

end Sys2Proof.Machine
end

