-- ==== Sys2Proof/Machine/Wait.lean ====
section
/-! DEFINITION. YIELD and WAIT (11_scheduling.md R309, R313) and remote scratch accesses (08_memory_instr.md R245,
R246). -/

namespace Sys2Proof.Machine

/-- The core of a slot. -/
def coreOf : AgentId → Nat × Nat × Nat
  | .slot d p c _ => (d, p, c)
  | .master d _ => (d, 0, 0)
  | .service d _ => (d, 0, 0)

/-- A slot leaves the next rotation set of its core (R309). -/
def leaveSet (s : State) : State :=
  match s.cur with
  | .slot d p c k =>
    let t := tabGet s.turns (d, p, c) ⟨[], []⟩
    { s with turns := tabSet s.turns (d, p, c) { t with skip := t.skip ++ [k] } }
  | _ => s

/-- YIELD (R309): in a thread the slot leaves the next rotation set; it orders nothing and changes nothing else. -/
def execYield (s : State) : Out :=
  runInstr .tm [] (do
    mods leaveSet
    pure .adv) s

/-- A WAIT's condition (R313). -/
def waitCond (cond : Nat) (x y : Word) : Bool :=
  match cond with
  | 0 => !(x.ult y)
  | 1 => x == y
  | _ => x != y

/-- One read of a WAIT: it completes with the observed value, or sleeps. -/
def waitRead (r : WaitReq) : Act Fin := do
  let (_, key) ← linkEa r.ea (transE .wait (vaOf r.ea))
  trapIf (decide (keySpace key ≠ 0)) cPROT r.ea
  let x := wordN (leNat (← linkEa r.ea (readMem .wait (vaOf r.ea) 8)))
  if waitCond r.cond x r.y then
    wrS r.d x
    pure .adv
  else
    mods fun s => s.setMe { s.me with wait := .mem r, wmode := s.mode }
    pure .hold

/-- WAIT (R313). -/
def waitOn (cond d a b : Nat) (s : State) : Out :=
  runInstr .tm [.w d, .r a, .r b] (do
    wakeCheck
    let ea ← rdS a
    trapIf (decide (vaOf ea % 8 ≠ 0)) cALIGN ea
    let r : WaitReq := ⟨cond, ea, ← rdS b, d⟩
    let (_, key) ← linkEa ea (transE .wait (vaOf ea))
    trapIf (decide (keySpace key ≠ 0)) cPROT ea
    afterDrain (waitRead r)) s

def execWaitGeu (d a b : Nat) (s : State) : Out := waitOn 0 d a b s
def execWaitEq (d a b : Nat) (s : State) : Out := waitOn 1 d a b s
def execWaitNe (d a b : Nat) (s : State) : Out := waitOn 2 d a b s

/-- A sleeping WAIT rereads its word (R313). -/
def execWaitRecheck (who : AgentId) (s : State) : Out :=
  match (s.agent who).wait with
  | .mem r => .next (finishWait who (waitRead r) s)
  | _ => .next s

/-- A WAIT's limit expires (R313): s[d] unchanged, nothing ordered. -/
def execWaitWlimExpiry (who : AgentId) (s : State) : Out :=
  match (s.agent who).wait with
  | .mem r => when (due s who) (trapWait who ⟨cWLIMIT, r.ea⟩) s
  | _ => .next s

/-! ### Remote scratch -/

/-- Bytes a remote access moves (R245). -/
def remoteSize (ctl : Nat) : Nat := if ctl % 2 = 1 then 8 else 2 ^ (ctl / 4 % 4)

/-- Full-empty requests waiting at a spur's slot 31 (R246). -/
def remoteWaiting (s : State) (d p : Nat) : Nat :=
  (s.feWait.filter fun (g, who) =>
    (match g with
      | .scr d' p' _ => d' == d && p' == p
      | _ => false) &&
    (match (s.agent who).wait with
      | .remote _ => true
      | _ => false)).length

/-- The granule of a remote access. -/
def RemoteReq.gran (r : RemoteReq) : Granule := .scr r.die r.spur r.off

/-- Whether a remote access need not wait at its target: a plain one, one whose granule a shrink has taken away (R329), or one whose
condition holds. -/
def remoteReady (s : State) (r : RemoteReq) : Bool :=
  !r.fe || !granExists s r.gran || feProceeds (remoteOp r) (granFull s r.gran)

/-- Whether a granule lies on a spur. -/
def Granule.onSpur (d p : Nat) : Granule → Bool
  | .scr d' p' _ => d' == d && p' == p
  | .mem _ => false

/-- Whether an agent's request stands in the table of its target, or at the port before it (R246). -/
def remoteHeld (s : State) (who : AgentId) : Bool := (s.feWait ++ s.ports).any fun x => x.2 == who

/-- A remote access performed, and the waiters of its granule after it. -/
def remotePerform (r : RemoteReq) : Act Fin := do
  let f ← remoteStep r
  if r.fe then wakeGranule r.gran
  pure f

/-- A remote access at its target (R246): performed, or it waits in the target's table of 64; where the table is full, or others wait at
the port, it waits at the port. -/
def remoteArrive (r : RemoteReq) : Act Fin := do
  let s ← get
  if remoteReady s r then remotePerform r
  else
    let full := decide (64 ≤ remoteWaiting s r.die r.spur) || s.ports.any fun x => x.1.onSpur r.die r.spur
    let s := s.setMe { s.me with wait := .remote r, wmode := s.mode }
    set (if remoteHeld s s.cur then s
      else if full then { s with ports := s.ports ++ [(r.gran, s.cur)] }
      else { s with feWait := s.feWait ++ [(r.gran, s.cur)] })
    pure .hold

/-- A request leaves the port for an entry that is free (R246): performed where its condition holds now. -/
def admitPort (x : Granule × AgentId) (s : State) : State :=
  let s := { s with ports := s.ports.erase x }
  match (s.agent x.2).wait with
  | .remote r => if remoteReady s r then finishWait x.2 (remotePerform r) s else { s with feWait := s.feWait ++ [x] }
  | _ => s

/-- The oldest request at the port of a target whose table has room. -/
def nextPort (s : State) : Option (Granule × AgentId) :=
  s.ports.find? fun x => match x.1 with
    | .scr d p _ => decide (remoteWaiting s d p < 64)
    | .mem _ => false

/-- The requests at the ports take the entries that have become free, in the order in which they came (R246); each leaves the ports, so
their number bounds the rounds. -/
def admitPorts : Nat → State → State
  | 0, s => s
  | n + 1, s =>
    match nextPort s with
    | none => s
    | some x => admitPorts n (admitPort x s)

/-- RLD and RST (R245): the checks, the drain of R280 for a full-empty access, then the access. -/
def remote (load : Bool) (d a b : Nat) (s : State) : Out :=
  runInstr .t [.w d, .grp a 2, .grp b (if load then 1 else 2)] (do
    let x ← rdS a
    let o ← rdS (a + 1)
    let ctl := (← rdS b).toNat
    if ctl % 2 = 1 then wakeCheck
    let data ← if load then pure 0 else rdS (b + 1)
    let s ← get
    let p := s.myProg
    let dv := dieOf s.cur
    trapIf (!p.quota.contains x.toNat || (s.spur (dv, x.toNat)).fenced) cPROT x
    let n := remoteSize ctl
    trapIf (decide ((s.spur (dv, x.toNat)).size .scr < o.toNat + n)) cPOOLREF (poolTval .scr o.toNat)
    trapIf (decide (o.toNat % n ≠ 0)) cALIGN o
    let r : RemoteReq :=
      ⟨load, decide (ctl % 2 = 1), decide (ctl / 2 % 2 = 1), n, dv, x.toNat, o.toNat, d, data, o⟩
    let go : Act Fin := do
      if !load then markSide
      let s ← get
      if s.defer then
        set (s.setMe { s.me with wait := .remote r, wmode := s.mode })
        pure .hold
      else remoteArrive r
    if r.fe then afterDrain go else go) s

def execRld (d a b : Nat) (s : State) : Out := remote true d a b s
def execRst (d a b : Nat) (s : State) : Out := remote false d a b s

/-- The slots of a program that have a remote access to a spur under way, neither in its table nor at its port. -/
def remoteSenders (s : State) (die spur : Nat) : List AgentId :=
  (s.agents.filter fun (who, a) =>
    (match a.wait with
      | .remote r => r.die == die && r.spur == spur
      | _ => false) && !remoteHeld s who).map (·.1)

/-- Slot 31 of a spur performs the k-th remote access that has reached it (R246). -/
def execRemoteAccessPerform (die spur k : Nat) (s : State) : Out :=
  match (remoteSenders s die spur)[k]? with
  | none => .next s
  | some who =>
    match (s.agent who).wait with
    | .remote r => .next (finishWait who (remoteArrive r) s)
    | _ => .next s

/-- WLIM expires on a remote access in full-empty mode that waits at its target, or that would on its arrival (R246, R314): one that need
not wait is performed, and traps no WLIMIT (R417). A waiter whose granule a shrink has taken away traps POOLREF (R329). -/
def execRemoteWaitExpiry (who : AgentId) (s : State) : Out :=
  match (s.agent who).wait with
  | .remote r =>
    let here := granExists s r.gran
    let t : Trap := if here then ⟨cWLIMIT, r.tval⟩ else ⟨cPOOLREF, poolTval .scr r.off⟩
    when (r.fe && ((due s who && (remoteHeld s who || !remoteReady s r)) || (!here && remoteHeld s who))) (fun s => trapWait who t (feWithdraw s who)) s
  | _ => .next s

end Sys2Proof.Machine
end

