-- ==== Sys2Proof/Machine/PoolSet.lean ====
section
/-! DEFINITION. POOLSET, POOLACK and POOLQ (12_pool.md R321 to R336). -/

namespace Sys2Proof.Machine

/-- The engine status word (R167). -/
def status (code value : Nat) (fl : Flags) : Word :=
  wordN (min value (2 ^ 32 - 1) * 2 ^ 32 + fl.toNat * 2 ^ 8 + code)

/-- The codes of R323 and R167. -/
def kOK : Nat := 0
def kPENDING : Nat := 1
def kBUSY : Nat := 2
def kLIVE : Nat := 3
def kNOFREE : Nat := 4
def kGRAN : Nat := 5
def kPRIV : Nat := 6
def kRANGE : Nat := 7

/-- The role of a code 1 to 5 (R315). -/
def roleOf (r : Nat) : Role :=
  match r with
  | 1 => .reg
  | 2 => .scr
  | 3 => .rdc
  | 4 => .til
  | 5 => .acc
  | _ => .free

/-- The FREE banks in ascending number: FENCED and HELD ones hold no role and are not free (R315, R334). -/
def Spur.freeBanks (p : Spur) : List Nat := (p.banksOf .free).filter fun b => !p.outBanks.contains b

/-- The banks that hold a role by its code, of any code (R315, R321): a fenced bank is FENCED, HELD or not. -/
def Spur.heldBanks (p : Spur) (r : Nat) : Nat :=
  if r = 0 then p.freeBanks.length
  else if r ≤ 5 then (p.banksOf (roleOf r)).length
  else if r = 6 then p.fencedBanks.length
  else if r = 7 then p.outBanks.length - p.fencedBanks.length
  else 0

/-- Takes the lowest FREE banks into a role, up to t banks (R321). -/
def Spur.growRole (p : Spur) (r : Role) (t : Nat) : Spur :=
  let h := (p.banksOf r).length
  ((p.freeBanks.take (t - h)).zipIdx).foldl (fun q (b, i) => q.addBank r b (h + i)) p

/-- The threads that a notice names at its posting (R325). -/
def noticeMembers (s : State) (k : Nat × Nat) : List Member :=
  let p := s.spur k
  let slots := s.agents.filter fun (a, r) => isSlot a && dieOf a == k.1 && spurOf a == k.2 && r.live
  let parked := match p.owner with
    | some c => ((s.prog (k.1, c)).runList.filter fun x => x.spur == k.2).map fun x => x.agent.outer
    | none => []
  (slots.map (fun x => x.2.outer) ++ parked).map fun (t, i) => ⟨t, i, false, false, false⟩

/-- Whether an agent waits in one of the instructions a notice wakes (R328): not one stalled in a claim queue. -/
def wakeable (s : State) (who : AgentId) (a : Agent) : Bool :=
  match a.wait with
  | .mem _ => true
  | .bar _ => true
  | .granule r => decide (r.op ≤ 2) && s.feWait.any fun x => x.2 == who
  | .remote r => r.fe
  | _ => false

/-- A waiting member woken at the posting: its wait withdrawn, then the trap. -/
def wakeOne (s : State) (who : AgentId) : State :=
  let s := match (s.agent who).wait with
    | .bar id => barWithdraw s who id
    | _ => feWithdraw s who
  let v := wakeTval (s.spur (dieOf who, spurOf who)).notice
  asAgent who (s.agent who).wmode (fun t => takeTrap (markWoken t) ⟨cPOOLREF, v⟩) s

/-- A scratch shrink posted (R325, R328). -/
def postNotice (s : State) (k : Nat × Nat) (t : Nat) : State :=
  let p := s.spur k
  let n : Notice := ⟨true, (p.notice.seq + 1) % 2 ^ 16, t, noticeMembers s k⟩
  let s := s.setSpur k { p with notice := n }
  let who := (s.agents.filter fun (a, r) =>
    isSlot a && dieOf a == k.1 && spurOf a == k.2 && r.live && wakeable s a r && r.ctx.wake).map (·.1)
  who.foldl wakeOne s

/-- Whether a gang record of the spur is OPEN or STARTED (R322). -/
def gangBlocks (s : State) (k : Nat × Nat) : Bool :=
  (s.die k.1).gangs.any fun g => g.spurs.contains k.2 && (g.state == .opened || g.state == .started)

/-- A shrink of a role to t banks (R322): the code and the state. -/
def shrink (s : State) (k : Nat × Nat) (r : Role) (t : Nat) : Nat × State :=
  let p := s.spur k
  let o := t * bankBytes
  let cut := s.setSpur k (p.cutRole r t)
  match r with
  | .rdc => (kOK, cut)
  | .reg => if p.windows.any fun w => decide (o < (w.base + w.len) * 64) then (kLIVE, s) else (kOK, cut)
  | .scr => if p.touchedFrom .scr o then (kBUSY, s) else (kPENDING, postNotice s k t)
  | r => if gangBlocks s k || p.touchedFrom r o then (kBUSY, s) else (kOK, cut)

/-- Whether a command of the spur is the executing thread's: by its descriptor's tree and its number (R268). -/
def ownCmd (s : State) (c : EngCmd) : Bool :=
  c.core == s.me.core && c.tag == s.me.tag && c.tid == s.ctx.tid.toNat

/-- Whether a command is of the executing slot: issued in it, or by its thread or an inline parent of it before a park. -/
def slotCmd (s : State) (c : EngCmd) : Bool :=
  c.who == s.cur || ownCmd s c ||
    (c.core == s.me.core && s.me.frames.any fun f => c.tag == f.tag && c.tid == f.ctx.tid.toNat)

/-- Whether a command of the executing slot that is neither complete nor stopped has a pool range that touches a leaving byte
(R327). -/
def ackWaits (s : State) : Bool :=
  let p := s.spur s.mySpurKey
  let o := p.notice.target * bankBytes
  p.notice.pending && (p.copyQ ++ p.gathQ).any fun c =>
    slotCmd s c && c.open && reachesFrom (c.dstRanges ++ c.srcRanges ++ c.listRanges) .scr o

/-- POOLACK of a sequence number (R327): it waits for the slot's commands on leaving bytes. -/
def ackStep (d x : Nat) : Act Fin := do
  let s ← get
  let p := s.spur s.mySpurKey
  let n := p.notice
  let me := s.me.outer
  if ackWaits s then
    set (s.setMe { s.me with wait := .ack d x, wmode := s.mode })
    pure .hold
  else
    if !n.pending ∨ x ≠ n.seq then wrS d (status kRANGE n.unack 0)
    else if (n.member me).any fun m => !m.acked then
      let q := { p with notice := n.update me fun m => { m with acked := true } }
      set (s.setSpur s.mySpurKey q.noticeTry)
      wrS d (status kOK q.notice.unack 0)
    else wrS d (status kOK n.unack 0)
    pure .adv

def execPoolack (d a : Nat) (s : State) : Out :=
  runInstr .t [.w d, .r a] (do ackStep d ((← rdS a).toNat % 2 ^ 16)) s

/-- A waiting POOLACK goes on once the command it waits for is over. -/
def serveAck (s : State) (who : AgentId) : State :=
  match (s.agent who).wait with
  | .ack d x => finishWait who (ackStep d x) s
  | _ => s

/-- The waiting POOLACKs of a spur. -/
def serveAcks (k : Nat × Nat) (s : State) : State :=
  ((s.agents.filter fun (a, r) => isSlot a && dieOf a == k.1 && spurOf a == k.2 && (match r.wait with
    | .ack _ _ => true
    | _ => false)).map (·.1)).foldl serveAck s

/-- POOLSET's decision (R321): the code and the state. -/
def poolsetStep (s : State) (k : Nat × Nat) (r t : Nat) : Nat × State :=
  let p := s.spur k
  let role := roleOf r
  let h := (p.banksOf role).length
  if r = 0 ∨ 7 < r ∨ 32 < t then (kRANGE, s)
  else if 6 ≤ r then (kPRIV, s)
  else if r = 5 ∧ t % 2 = 1 then (kGRAN, s)
  else if p.notice.pending then
    if r = 2 ∧ t = h then (kOK, s.setSpur k { p with notice := { p.notice with pending := false } })
    else (kBUSY, s)
  else if t = h then (kOK, s)
  else if h < t then
    if p.freeBanks.length < t - h then (kNOFREE, s) else (kOK, s.setSpur k (p.growRole role t))
  else shrink s k role t

/-- POOLSET and POOLSET.T (R321). -/
def poolset (trapping : Bool) (d a b : Nat) (s : State) : Out :=
  runInstr .t [.w d, .r a, .r b] (do
    let r := (← rdS a).toNat
    let t := (← rdS b).toNat
    let k ← gets State.mySpurKey
    let s ← get
    let (code, s') := poolsetStep s k r t
    if trapping ∧ code ≠ kOK ∧ code ≠ kPENDING then trap cPOOLREF (wordN (min r 15 * 2 ^ 60 + 2 ^ 56 + code))
    set s'
    let p := s'.spur k
    wrS d (status code (if code = kPENDING then p.notice.seq else p.heldBanks r) 0)
    mods (serveAcks k)
    pure .adv) s

def execPoolset (d a b : Nat) (s : State) : Out := poolset false d a b s
def execPoolsetT (d a b : Nat) (s : State) : Out := poolset true d a b s

/-- Free REG units of a spur and its longest run of them (R335). -/
def Spur.freeUnits (p : Spur) : List Nat :=
  (List.range (p.size .reg / 64)).filter fun u => p.unitsFree u 1

/-- The longest run of consecutive numbers in a rising list. -/
def longestRun (best cur last : Nat) : List Nat → Nat
  | [] => max best cur
  | u :: r => if u = last + 1 then longestRun best (cur + 1) u r else longestRun (max best cur) 1 u r

/-- The mask of the banks of a role code (R335). -/
def bankMask (p : Spur) (r : Nat) : Nat :=
  ((List.range 32).filter fun b =>
    if p.fencedBanks.contains b then r == 6 else if p.heldOut.contains b then r == 7 else decide ((p.role b).code = r)).foldl
    (fun t b => t + 2 ^ b) 0

/-- POOLQ (R335). -/
def execPoolq (d a : Nat) (s : State) : Out :=
  runInstr .t [.w d, .r a] (do
    let x := (← rdS a).toNat
    let p ← gets fun s => s.spur s.mySpurKey
    let r :=
      if x ≤ 7 then status kOK (bankMask p x) 0
      else if x = 8 then status kOK p.freeUnits.length 0
      else if x = 9 then status kOK (longestRun 0 0 (2 ^ 32) p.freeUnits) 0
      else if 32 ≤ x ∧ x ≤ 63 then
        status kOK (if p.outBanks.contains (x - 32) ∨ p.role (x - 32) = .free then 2 ^ 32 - 1 else tabGet p.places (x - 32) 0) 0
      else status kRANGE 0 0
    wrS d r
    pure .adv) s

end Sys2Proof.Machine
end

