-- ==== Sys2Proof/Machine/Engine.lean ====
section
/-! DEFINITION. The copy engine and the gather engine of a spur (06_sparse.md R170 to R172, 08_memory_instr.md R240 to R244,
R434, 07_ordering_rules.md R208 to R210, 14_recovery.md R373). -/

namespace Sys2Proof.Machine

/-! ### Accesses of an engine for a program -/

/-- The thread, or the master, that an engine reads its source for, and how many accesses it had issued before the last FENCE.T
before its command (R209). -/
structure Issuer where
  who : AgentId
  tag : Nat
  tid : Nat
  fence : Nat
  deriving DecidableEq, Repr

/-- Where an engine stands: its die and spur (none for the units of a die), the program's core, and for whom it reads. -/
structure EngAt where
  die : Nat
  spur : Option Nat
  core : Nat
  issuer : Option Issuer
  deriving DecidableEq, Repr

/-- Translates bytes for an engine of a program (R341, R342). -/
def engTrans (g : EngAt) (n : Need) (va len : Nat) : Act (List Nat) := do
  let p ← gets fun s => s.prog (g.die, g.core)
  (span va len).mapM fun a => do
    let (e, k) ← transFor g.die g.spur p.asid p.spawning n (a % 2 ^ 56)
    let s ← get
    trapIf (!s.reach (homeOf e k)) cLINKERR (wordN (a % 2 ^ 56))
    pure k

/-- The keys of destination bytes of an engine command: a byte of a line that it owns as it was translated when the command took the
line (R208, R214), another as it is translated now. -/
def ownKeys (g : EngAt) (id va len : Nat) : Act (List Nat) := do
  let p ← gets fun s => s.prog (g.die, g.core)
  let ks ← (span va len).mapM fun a => do
    let s ← get
    match s.owned.find? fun o => o.id == id && o.asid == p.asid && o.va == a % 2 ^ 56 / 64 with
    | some o =>
      let k := o.line * 64 + a % 64
      trapIf (!s.reach (s.homeOfKey k)) cLINKERR (wordN (a % 2 ^ 56))
      pure [k]
    | none => engTrans g .write a 1
  pure ks.flatten

/-- The key of a source byte on a page that moves and in which the command owns lines: the move waits for its write (R214), so its source
is read at the old home, as an access in flight (DEDUCED, log 17). -/
def flightKey (s : State) (g : EngAt) (id a : Nat) : Option Nat :=
  let asid := (s.prog (g.die, g.core)).asid
  match s.moves.find? fun m => m.asid == asid && a / 2 ^ m.size == m.va / 2 ^ m.size with
  | some m =>
    if s.owned.any fun o => o.id == id && o.asid == asid && o.va * 64 / 2 ^ m.size == m.va / 2 ^ m.size then
      match walk s asid a with
      | .leaf e size => some (leafKey e size a)
      | _ => none
    else none
  | none => none

/-- The keys of source bytes of an engine command. -/
def sourceKeys (g : EngAt) (id va len : Nat) : Act (List Nat) := do
  let ks ← (span va len).mapM fun a => do
    let s ← get
    match flightKey s g id (a % 2 ^ 56) with
    | some k => pure [k]
    | none => engTrans g .read a 1
  pure ks.flatten

/-- The lines of some ranges that can be translated, as a command takes ownership of them (R208). -/
def ownLines (s : State) (g : EngAt) (id : Nat) (rs : List (Nat × Nat)) : List OwnedLine :=
  let p := s.prog (g.die, g.core)
  (rs.flatMap fun (va, n) => (span va n).filterMap fun a =>
    match (transFor g.die g.spur p.asid p.spawning .write (a % 2 ^ 56)).run s with
    | .ok ((_, k), _) => some (⟨k / 64, id, p.asid, a % 2 ^ 56 / 64⟩ : OwnedLine)
    | .error _ => none).eraseDups

/-- Lines owned from now on, their L1 copies recalled first (R208). -/
def takeLines (d : Nat) (ls : List OwnedLine) (s : State) : State :=
  { touchL1 s (.slot d 0 0 0) false false (ls.map fun o => o.line * 64) with owned := s.owned ++ ls }

/-- Ownership given back. -/
def disown (id : Nat) (s : State) : State := { s with owned := s.owned.filter fun o => o.id ≠ id }

/-- Whether an agent still runs the thread that issued a command, itself or as an inline parent. -/
def stillRuns (a : Agent) (i : Issuer) : Bool :=
  a.live && ((a.tag == i.tag && a.ctx.tid.toNat == i.tid) || a.frames.any fun f => f.tag == i.tag && f.ctx.tid.toNat == i.tid)

/-- A source read follows the accesses to the same bytes that its issuer made before the FENCE.T before the command (R209). -/
def sourceOrder (g : EngAt) (keys : List Nat) : Act Unit := do
  match g.issuer with
  | none => pure ()
  | some i =>
    let s ← get
    if stillRuns (s.agent i.who) i then
      let f (p : Pend) : Bool := decide (p.id < i.fence) && overlaps p keys
      mods fun s => drainWhere s i.who f
      let s ← get
      if (s.agent i.who).pend.any f then throw .stall

/-- Waits for the lines that earlier commands own (R208). -/
def engAwait (id : Nat) (keys : List Nat) : Act Unit := do
  let s ← get
  if s.owned.any fun o => decide (o.id < id) && (keys.any fun k => k / 64 == o.line) then throw .stall

/-- Reads memory for an engine: master L1 copies are recalled, a poisoned byte traps POISON (R209, R375). -/
def engRead (g : EngAt) (id va len : Nat) : Act (List Byte) := do
  let keys ← sourceKeys g id va len
  engAwait id keys
  sourceOrder g keys
  poisonTrap va keys
  let s ← get
  let (bs, s) := maskSpill s keys (memGets s.mem keys)
  set (touchL1 s (.slot g.die 0 0 0) false false keys)
  pure bs

/-- In whose name an engine's requests cross a link: its issuer's, else its spur's. -/
def EngAt.sender (g : EngAt) : AgentId := (g.issuer.map Issuer.who).getD (.slot g.die (g.spur.getD 0) 0 0)

/-- A write of an engine performed at its home: as a request of its own where it crosses a link (R238). -/
def engStore (g : EngAt) (keys : List Nat) (bs : List Byte) (s : State) : State :=
  let s := noteRequest s g.sender ((keys.map s.homeOfKey).eraseDups) keys 0
  let s := touchL1 s (.slot g.die 0 0 0) false true keys
  { s with mem := memSets s.mem keys bs }

/-- Writes memory for an engine command, at its home, after earlier owners of the lines (R208) and the queues of claimed words (R233):
the keys it has written. -/
def engWrite (g : EngAt) (id va : Nat) (bs : List Byte) : Act (List Nat) := do
  let keys ← ownKeys g id va bs.length
  engAwait id keys
  awaitClaims keys
  mods (engStore g keys bs)
  pure keys

/-- Some bytes of memory of a command made unspecified, those it can reach (R2, R210). -/
def spoil (g : EngAt) (id : Nat) (rs : List (Nat × Nat)) (s : State) : State :=
  (rs.flatMap fun (va, n) => span va n).foldl (fun t a =>
    let act : Act Unit := do
      let bs ← freeBytes 1
      let keys ← ownKeys g id a 1
      mods (engStore g keys bs)
    match act.run t with
    | .ok (_, u) => u
    | .error _ => t) s

/-- Lines of poison wholly written by one command are clean (R375). -/
def cleanLines (keys : List Nat) : Act Unit :=
  mods fun s => { s with bad := s.bad.filter fun l => !((span (l * 64) 64).all fun k => keys.contains k) }

/-! ### The fault log (R373) -/

/-- The bytes of the fault log's next entry and of LOGHEAD. -/
def logKeys (g : EngAt) : Act (List Nat × List Nat) := do
  let p ← gets fun s => s.prog (g.die, g.core)
  let hk ← engTrans g .write (p.ctx + 40) 4
  let s ← get
  let ek ← engTrans g .write (p.ctx + 0x800 + leNat (memGets s.mem hk) % 64 * 32) 32
  pure (hk, ek)

/-- Whether no engine owns a line that an entry of the fault log goes to: its write need not wait (R208). -/
def logReady (g : EngAt) (s : State) : Bool :=
  match (logKeys g).run s with
  | .ok ((hk, ek), _) => !(hk ++ ek).any s.ownedLine
  | .error _ => true

/-- An entry of the fault log: written only where the log's page and the header's can be written without the fault service. -/
def faultLog (g : EngAt) (unit cause spur tid addr : Nat) (s : State) : State :=
  let act : Act Unit := do
    let (hk, ek) ← logKeys g
    let v := unit + cause * 2 ^ 8 + spur * 2 ^ 16 + tid * 2 ^ 32 + addr * 2 ^ 64
    mods fun s =>
      let head := leNat (memGets s.mem hk)
      let s := touchL1 s (.slot g.die 0 0 0) false true (hk ++ ek)
      { s with mem := memSets (memSets s.mem ek (leBytes 32 v)) hk (leBytes 4 ((head + 1) % 2 ^ 32)) }
  let s := s.logWalk g.die (s.prog (g.die, g.core)).asid cause addr
  match act.run s with
  | .ok (_, t) => t
  | .error _ => s

/-! ### Commands -/

/-- The rows of a destination or source: the first byte of each. -/
def EngCmd.dstRow (c : EngCmd) (r : Nat) : Nat :=
  if c.gather then c.dst + r * c.len
  else if c.dsp = 0 then (rowAt c.dst c.dstr r % 2 ^ 56).toNat else (rowAt c.dst c.dstr r).toNat

/-- Reads pool bytes for an engine: earlier claims are waited for (R172). -/
def engPoolRead (k : Nat × Nat) (id : Nat) (r : Role) (o n : Nat) : Act (List Byte) := do
  let p ← gets fun s => s.spur k
  if p.claims.any fun c => decide (c.unit < id ∧ c.role = r ∧ c.first < o + n ∧ o < c.first + c.len) then throw .stall
  match p.poisonAt r o n with
  | some x => trap cPOISON (poolTval r x)
  | none => pure (p.rd r o n)

/-- Where a command's engine stands. -/
def EngCmd.at (c : EngCmd) : EngAt := ⟨dieOf c.who, some (spurOf c.who), c.core, some ⟨c.who, c.tag, c.tid, c.fence⟩⟩

/-- The spur of a command. -/
def EngCmd.key (c : EngCmd) : Nat × Nat := (dieOf c.who, spurOf c.who)

/-- Row r of a command as it is read: for a gather, the row its index names, or zeros (R170). -/
def EngCmd.readRow (c : EngCmd) (r : Nat) : Act (List Byte) := do
  if c.gather then
    let ib ← if c.lscr then engPoolRead c.key c.id .scr (c.list + r * c.iw) c.iw
      else engRead c.at c.id ((c.list + r * c.iw) % 2 ^ 56) c.iw
    let x := leNat ib
    if c.nidx ≠ 0 ∧ c.nidx ≤ x then pure (List.replicate c.len 0)
    else engRead c.at c.id (((c.src : Int) + (x : Int) * c.sstr) % 2 ^ 56).toNat c.len
  else if c.ssp = 0 then engRead c.at c.id (rowAt c.src c.sstr r % 2 ^ 56).toNat c.len
  else engPoolRead c.key c.id (spaceRole c.ssp) (rowAt c.src c.sstr r).toNat c.len

/-- Writes row r of a command: the keys it has written in memory. -/
def EngCmd.writeRow (c : EngCmd) (r : Nat) (bs : List Byte) : Act (List Nat) := do
  if c.dsp = 0 then engWrite c.at c.id (c.dstRow r) bs
  else
    let k := c.key
    let p ← gets fun s => s.spur k
    let o := c.dstRow r
    if p.claims.any fun x => decide (x.unit < c.id ∧ x.role = spaceRole c.dsp ∧ x.first < o + bs.length ∧ o < x.first + x.len) then
      throw .stall
    mods fun s => s.setSpur k ((s.spur k).wr (spaceRole c.dsp) o bs)
    pure []

/-- Destination bytes that alias the command's source through different virtual addresses are unspecified (R2, R240). -/
def freeAliases (src dst : List Nat) : Act Unit := do
  let lines := (src.map (· / 64)).eraseDups
  let ks := dst.filter fun k => lines.contains (k / 64) && src.contains k
  if !ks.isEmpty then
    let bs ← freeBytes ks.length
    mods fun s => { s with mem := memSets s.mem ks bs }

/-- A copy's data: every source byte, then every destination byte (R240, R241). One between overlapping ranges was refused at
issue. Rows are written in ascending order, so that the last of destination rows that overlap each other remains: the spec gives no
order of rows (DESIGN CHOICE, log 32). -/
def EngCmd.copyRows (c : EngCmd) : Act Unit := do
  let rows := List.range c.rows
  let data ← rows.mapM c.readRow
  let dst ← (rows.zip data).mapM fun (r, bs) => c.writeRow r bs
  if c.dsp = 0 then
    cleanLines dst.flatten
    if c.ssp = 0 then
      let src ← rows.mapM fun r => sourceKeys c.at c.id (rowAt c.src c.sstr r % 2 ^ 56).toNat c.len
      freeAliases src.flatten dst.flatten

/-- The whole of a command's data movement; a gather reads each index and its row, and writes the row, in ascending order (R170). -/
def EngCmd.move (c : EngCmd) : Act Unit := do
  if c.gather then
    for r in List.range c.rows do
      let _ ← c.writeRow r (← c.readRow r)
  else c.copyRows

/-- The lines and pool bytes of a command given back: what waited for them goes on. -/
def EngCmd.release (c : EngCmd) (s : State) : State :=
  let p := s.spur c.key
  let q := { p with claims := p.claims.filter fun x => x.unit ≠ c.id }
  let lines := (s.owned.filter fun o => o.id == c.id).map (·.line)
  let s := (disown c.id s).setSpur c.key q.noticeTry
  serveGranules (fun g => match g with
    | .mem k => lines.contains (k / 64)
    | .scr d n _ => (d, n) == c.key) s

/-- A command replaced in its queue. -/
def EngCmd.update (c : EngCmd) (f : EngCmd → EngCmd) (s : State) : State :=
  let p := s.spur c.key
  let g (l : List EngCmd) : List EngCmd := l.map fun x => if x.id = c.id then f x else x
  s.setSpur c.key { p with copyQ := g p.copyQ, gathQ := g p.gathQ }

/-- A command that is over leaves its queue, and E of its program falls (R284); a POOLACK that waited for it goes on (R327). -/
def EngCmd.leave (c : EngCmd) (s : State) : State :=
  let s := c.release s
  let p := s.spur c.key
  let g (l : List EngCmd) : List EngCmd := l.filter fun x => x.id ≠ c.id
  let s := s.setSpur c.key { p with copyQ := g p.copyQ, gathQ := g p.gathQ }.noticeTry
  let pk := (dieOf c.who, c.core)
  serveAcks c.key (s.setProg pk { s.prog pk with e := (s.prog pk).e - 1 })

/-- The arrival increment: one RED.ADD.D at the counter's home (R209, R434), which host memory does not take (R237). -/
def EngCmd.arrive (c : EngCmd) (n : Nat) : Act Unit := do
  if c.ctr ≠ 0 then
    let va := c.ctr % 2 ^ 56
    let keys ← engTrans c.at .atomic va 8
    trapIf (keys.any fun k => keySpace k == 1) cPROT (wordN va)
    engAwait c.id keys
    poisonTrap va keys
    awaitClaims keys
    let s ← get
    let (bs, s) := maskSpill s keys (memGets s.mem keys)
    set (engStore c.at keys (leBytes 8 ((leNat bs + n) % 2 ^ 64)) s)

/-- A command of a thread stopped on an error: the next CPWAIT of the thread reports it (R244, R373). -/
def noteCopyError (c : EngCmd) (s : State) : State :=
  let here (a : Agent) : Bool := a.live && a.tag == c.tag && a.ctx.tid.toNat == c.tid
  let bump (x : Ctx) : Ctx := { x with cpErr := x.cpErr + 1 }
  let fix (a : Agent) : Agent :=
    if a.core ≠ c.core then a
    else if here a then { a with ctx := bump a.ctx }
    else { a with frames := a.frames.map fun f =>
      if f.tag = c.tag ∧ f.ctx.tid.toNat = c.tid then { f with ctx := bump f.ctx } else f }
  let pk := (dieOf c.who, c.core)
  let p := s.prog pk
  let s := s.setProg pk { p with runList := p.runList.map fun x => { x with agent := fix x.agent } }
  { s with agents := s.agents.map fun x => if dieOf x.1 = dieOf c.who then (x.1, fix x.2) else x }

/-- A fault of an engine: the page goes to the fault service and the engine waits (R366). -/
def engPage (c : EngCmd) (va w : Nat) (h : Bool) (s : State) : State :=
  let asid := (s.prog (dieOf c.who, c.core)).asid
  addFault (c.update (fun x => { x with wait := some va }) s) (dieOf c.who, c.core) asid va w h [.engine c.id]

/-- The log's unit code (R373). -/
def EngCmd.unit (c : EngCmd) : Nat := if c.gather then 2 else 1

/-- What a command adds to its counter: one, or the mark of an error (R172, R242). -/
def EngCmd.mark (c : EngCmd) : Nat := if c.failed then 0x100000001 else 1

/-- The report of a command whose counter cannot be written, once its entry of the fault log need not wait (R208, R434): the log, and an
error for CPWAIT, unless the command has stopped on one before. -/
def EngCmd.reportDead (c : EngCmd) (cause addr : Nat) (s : State) : State :=
  if logReady c.at s then
    let s := faultLog c.at c.unit cause (spurOf c.who) c.tid addr (c.leave s)
    if c.failed then s else noteCopyError c s
  else s

/-- A command that has stopped: no shrink and no POOLACK waits for it (R327, R329). -/
def EngCmd.settled (c : EngCmd) (s : State) : State := serveAcks c.key (c.release s)

/-- A command's counter cannot be written (R434): the command has stopped, and reports it. -/
def EngCmd.counterFault (c : EngCmd) (cause : Nat) (s : State) : State :=
  let addr := c.ctr % 2 ^ 56
  let s := c.update (fun x => { x with wait := none, refused := none, log := some (cause, addr), dead := true }) s
  c.reportDead cause addr (c.settled s)

/-- A command whose data is over marks its counter and leaves: a page fault is served first, and a word claimed or owned is waited
for (R434). -/
def EngCmd.finish (c : EngCmd) (s : State) : State :=
  match (c.arrive c.mark).run s with
  | .ok (_, u) => c.leave u
  | .error (.page va w h) => engPage c va w h s
  | .error (.trap x) => c.counterFault x.cause s
  | .error _ => s

/-- The report of a stopped command (R373), once its entry of the fault log need not wait (R208): the log, an error for CPWAIT, and the
mark of its counter (R172, R242). -/
def EngCmd.report (c : EngCmd) (cause addr : Nat) (s : State) : State :=
  if c.dead then c.reportDead cause addr s
  else if logReady c.at s then
    let s := faultLog c.at c.unit cause (spurOf c.who) c.tid addr s
    { c with log := none }.finish (noteCopyError c (c.update (fun x => { x with log := none }) s))
  else s

/-- A command goes on as far as it can: the report of one that has stopped, else its data, then its increment. -/
def EngCmd.advance (c : EngCmd) (s : State) : State :=
  if c.wait.isSome then s
  else
    match c.log with
    | some (cause, addr) => c.report cause addr s
    | none =>
      if c.data then c.finish s
      else
        match c.move.run s with
        | .error (.page va w h) => engPage c va w h s
        | .error _ => s
        | .ok (_, t) => { c with data := true }.finish (c.release (c.update (fun x => { x with data := true }) t))

/-- Whether a command can only stop: it meets PROT, POISON or a refused page (R210). -/
def EngCmd.stops (c : EngCmd) (s : State) : Option (Nat × Nat) :=
  if c.log.isSome then none
  else
    match c.refused with
    | some va => some (cPAGE, va)
    | none =>
      if c.data then none
      else
        match c.move.run s with
        | .error (.trap x) => some (x.cause, x.tval.toNat % 2 ^ 56)
        | _ => none

/-- A command's destination ranges in memory. -/
def EngCmd.dests (c : EngCmd) : List (Nat × Nat) :=
  if c.dsp = 0 then (List.range c.rows).map fun r => (c.dstRow r, c.len) else []

/-- The destination bytes of a command unspecified (R2, R210): those it can reach, in memory or in the pool. -/
def EngCmd.spoil (c : EngCmd) (s : State) : State :=
  if c.dsp = 0 then Sys2Proof.Machine.spoil c.at c.id c.dests s
  else
    (List.range c.rows).foldl (fun t r =>
      let (bs, t) := takeFree t c.len
      t.setSpur c.key ((t.spur c.key).wr (spaceRole c.dsp) (c.dstRow r) bs)) s

/-- A command that stops before its data is complete (R210): its destination unspecified, what it owned and claimed given back; its
report is still to be made, and its counter to be marked (R172, R242). -/
def EngCmd.fail (c : EngCmd) (log : Option (Nat × Nat)) (s : State) : State :=
  let s := c.spoil s
  c.settled (c.update (fun x => { x with data := true, failed := true, wait := none, refused := none, log := log }) s)

/-- A stopped command (R210, R373): its report, its counter marked. -/
def EngCmd.stop (c : EngCmd) (cause addr : Nat) (s : State) : State :=
  if c.data then c.counterFault cause s
  else
    { c with data := true, failed := true, wait := none, refused := none, log := some (cause, addr) }.report cause addr
      (c.fail (some (cause, addr)) s)

/-- The pool bytes a command's destination claims (R172). -/
def EngCmd.claimsOf (c : EngCmd) : List PoolClaim :=
  if c.dsp = 0 then []
  else (List.range c.rows).map fun r => ⟨spaceRole c.dsp, c.dstRow r, c.len, c.id⟩

/-- The lines a command owns at issue: those of the destination pages that can be translated (R208). -/
def EngCmd.ownsOf (c : EngCmd) (s : State) : List OwnedLine := ownLines s c.at c.id c.dests

/-- The destination pages of some ranges that cannot be translated without the fault service: the first byte in each, with the
fault (R208). -/
def absentPages (s : State) (g : EngAt) (rs : List (Nat × Nat)) : List (Nat × Nat × Bool) :=
  let p := s.prog (g.die, g.core)
  ((rs.flatMap fun (va, n) => (va :: span (va / 4096 + 1) ((va % 4096 + n - 1) / 4096) |>.map fun x =>
      if x = va then va else x * 4096).filter fun _ => decide (0 < n)).filterMap fun a =>
    match (transFor g.die g.spur p.asid p.spawning .write (a % 2 ^ 56)).run s with
    | .error (.page va acc h) => some (va, acc, h)
    | _ => none)

/-- Their faults, before the die's fault service from issue on: whoever reaches such a page waits with the engine until it owns the
lines (R208). -/
def destFaults (g : EngAt) (w : Waiter) (rs : List (Nat × Nat)) (s : State) : State :=
  let p := s.prog (g.die, g.core)
  (absentPages s g rs).foldl (fun t (va, acc, h) => addFaultFor t (g.die, g.core) p.asid va acc h true [w]) s

/-- A command enters its queue (R172, R208, R242): the claims, the lines owned after recalling their L1 copies, the faults of absent
destination pages, E higher. -/
def EngCmd.enter (c : EngCmd) (s : State) : State :=
  let p := s.spur c.key
  let s := takeLines c.at.die (c.ownsOf s) s
  let s := s.setSpur c.key { p with
    copyQ := if c.gather then p.copyQ else p.copyQ ++ [c]
    gathQ := if c.gather then p.gathQ ++ [c] else p.gathQ
    claims := p.claims ++ c.claimsOf }
  let s := { s with nextEng := c.id + 1 }
  let pk := (dieOf c.who, c.core)
  let s := s.setProg pk { s.prog pk with e := (s.prog pk).e + 1 }
  destFaults c.at (.engine c.id) c.dests s

/-- A command issued (R171, R240): after the issuer's earlier accesses to the lines it owns (R208) it is queued, and where the move
does not leave it under way, advanced at once. -/
def issueCmd (c : EngCmd) : Act Unit := do
  markSide
  let own ← gets c.ownsOf
  drainFor fun p => p.keys.any fun k => own.any fun x => x.line == k / 64
  mods c.enter
  let s ← get
  if !s.defer ∨ c.len * c.rows = 0 then set (c.advance s)

/-- A fresh command of the executing thread. -/
def freshCmd (s : State) (gather : Bool) : EngCmd :=
  { id := s.nextEng, gather := gather, who := s.cur, core := s.me.core, tag := s.me.tag
    tid := s.ctx.tid.toNat, dsp := 0, ssp := 0, dst := 0, src := 0, len := 0, rows := 1, dstr := 0, sstr := 0, ctr := 0
    lscr := false, list := 0, iw := 4, nidx := 0, fence := s.me.fenceT, data := false, failed := false, wait := none, refused := none
    log := none, dead := false }

/-- The counter's checks at issue (R434): PROT on an RO_SPAWN page during a spawn. -/
def counterCheck (ctr : Nat) : Act Unit := do
  if ctr ≠ 0 then
    let s ← get
    match (transE .none (ctr % 2 ^ 56)).run s with
    | .ok ((e, _), _) => trapIf (pteRoSpawn e && s.myProg.spawning) cPROT (wordN (ctr % 2 ^ 56))
    | .error _ => pure ()

/-- The pages whose translation for the executing agent may have RO_SPAWN: first bytes and sizes. -/
def roPages (s : State) : List (Nat × Nat) :=
  let asid := s.myProg.asid
  ((s.tlb.filter fun t => t.asid == asid && pteRoSpawn t.entry).map fun t => (t.page, t.size)) ++
  ((leavesOf s asid).filter fun x => pteRoSpawn x.2.1).map fun x => (x.1, x.2.2)

/-- The first byte of a range modulo 2^56 in an RO_SPAWN page, as its distance from the range's start. -/
def firstRo (s : State) (va n : Nat) : Option Nat :=
  ((roPages s).filterMap fun (page, size) =>
    let o : Nat := if va / 2 ^ size = page / 2 ^ size then 0 else (page + 2 ^ 56 - va) % 2 ^ 56
    let ro : Bool := match (transE .none ((va + o) % 2 ^ 56)).run s with
      | .ok ((e, _), _) => pteRoSpawn e
      | .error _ => false
    if ro && decide (o < n) then some o else none).min?

/-- A global destination on an RO_SPAWN page during a spawn traps PROT at issue (R207). -/
def destCheck (vas : List (Nat × Nat)) : Act Unit := do
  let s ← get
  if s.myProg.spawning then
    for (va, n) in vas do
      match firstRo s va n with
      | some o => trap cPROT (wordN ((va + o) % 2 ^ 56))
      | none => pure ()

/-! ### CPY and CPY2D (R240, R241) -/

/-- Whether two ranges have a byte in common: of addresses, which wrap at 2^56, or of offsets. -/
def rangesMeet (wrap : Bool) (x y : Int × Nat) : Bool :=
  decide (0 < x.2) && decide (0 < y.2) &&
  (if wrap then decide ((y.1 - x.1) % 2 ^ 56 < x.2) || decide ((x.1 - y.1) % 2 ^ 56 < y.2)
   else decide (x.1 < y.1 + y.2 ∧ y.1 < x.1 + x.2))

/-- Whether two lists of ranges do. -/
def rowsMeet (wrap : Bool) (xs ys : List (Int × Nat)) : Bool := xs.any fun x => ys.any (rangesMeet wrap x)

/-- The first row of a pool range that reaches past its role (R140, R240), below zero included: where it starts. -/
def firstPast (size start len rows : Nat) (stride : Int) : Option Int :=
  if len = 0 ∨ rows = 0 then none
  else
    let row : Int :=
      if size < start + len then 0
      else if 0 < stride then ((size : Int) - len - start) / stride + 1
      else if stride < 0 then (start : Int) / (-stride) + 1
      else rows
    if row < rows then some (start + row * stride) else none

/-- The offset that POOLREF names for such a row: of its first byte past the role. -/
def pastOffset (size : Nat) (o : Int) : Nat := if o < 0 then (o % 2 ^ 20).toNat else max size o.toNat

/-- CPY and CPY2D: POOLREF, ALIGN, PROT, then RANGE before BUSY, then the command. Of a row count above 65,536, which is RANGE in
the end, the first 65,536 rows are looked at for PROT (log 32). -/
def copyCmd (two : Bool) (d a b : Nat) (s : State) : Out :=
  runInstr .t [.w d, .grp a 3, .grp b (if two then 5 else 2)] (do
    let dst ← rdS a
    let src ← rdS (a + 1)
    let len := (← rdS (a + 2)).toNat
    let ctl := (← rdS b).toNat
    let ctr := (← rdS (b + 1)).toNat
    let rows ← if two then do pure (← rdS (b + 2)).toNat else pure 1
    let dstr ← if two then do pure (← rdS (b + 3)).toInt else pure 0
    let sstr ← if two then do pure (← rdS (b + 4)).toInt else pure 0
    let s ← get
    let p := s.spur s.mySpurKey
    let dsp := ctl % 4
    let ssp := ctl / 4 % 4
    let start (sp : Nat) (x : Word) : Nat := if sp = 0 then vaOf x else x.toNat
    let c : EngCmd := { freshCmd s false with
      dsp := dsp, ssp := ssp, dst := start dsp dst, src := start ssp src, len := len, rows := rows, dstr := dstr
      sstr := sstr, ctr := ctr }
    let lenBad := decide ((if two then 65536 else 2 ^ 26) < len) || decide (two = true ∧ 65536 < rows)
    let rs := List.range (min rows 65536)
    let dr := rs.map fun r => (rowAt c.dst dstr r, len)
    let sr := rs.map fun r => (rowAt c.src sstr r, len)
    let pool (sp start : Nat) (stride : Int) : Act Unit :=
      if sp = 1 ∨ sp = 2 then
        let size := p.size (spaceRole sp)
        match firstPast size start len rows stride with
        | some o => trap cPOOLREF (poolTval (spaceRole sp) (pastOffset size o))
        | none => pure ()
      else pure ()
    pool dsp c.dst dstr
    pool ssp c.src sstr
    trapIf (decide (ctr % 8 ≠ 0)) cALIGN (wordN ctr)
    if dsp = 0 then destCheck (dr.map fun x => ((x.1 % 2 ^ 56).toNat, x.2))
    counterCheck ctr
    if lenBad || dsp == 3 || ssp == 3 || (dsp == ssp && rowsMeet (dsp == 0) dr sr) then wrS d (status kRANGE 0 0)
    else if 16 ≤ p.copyQ.length then wrS d (status kBUSY 0 0)
    else
      issueCmd c
      wrS d (status kOK (len * rows) 0)
    pure .adv) s

def execCpy (d a b : Nat) (s : State) : Out := copyCmd false d a b s
def execCpy2d (d a b : Nat) (s : State) : Out := copyCmd true d a b s

/-- CPWAIT (R244): it waits for the copy commands the thread issued, on this spur or one that it ran on before, then reports those that stopped on an error. -/
def execCpwait (d : Nat) (s : State) : Out :=
  runInstr .t [.w d] (do
    let s ← get
    if s.spurs.any fun x => x.1.1 == dieOf s.cur && x.2.copyQ.any (ownCmd s) then throw .stall
    set (s.setCtx { s.ctx with cpErr := 0 })
    wrS d (status kOK s.ctx.cpErr 0)
    pure .adv) s

/-! ### GATH (R170, R171) -/

/-- GATH (R170, R171). The ALIGN of the counter (R434) comes after those of R171: the spec gives no order between them (DESIGN CHOICE,
log 22). -/
def execGath (d a b : Nat) (s : State) : Out :=
  runInstr .t [.w d, .grp a 3, .grp b 5] (do
    let list ← rdS a
    let m := (← rdS (a + 1)).toNat
    let ctl := (← rdS (a + 2)).toNat
    let base ← rdS b
    let size ← rdS (b + 1)
    let stride ← rdS (b + 2)
    let dst ← rdS (b + 3)
    let ctr := (← rdS (b + 4)).toNat
    let s ← get
    let p := s.spur s.mySpurKey
    let iw := if ctl % 2 = 1 then 8 else 4
    let lscr := decide (ctl / 4 % 2 = 1)
    let dsp := if ctl / 2 % 2 = 1 then 2 else 1
    let role := spaceRole dsp
    let past (r : Role) (o : Nat) : Act Unit := trap cPOOLREF (poolTval r (max (p.size r) o))
    if p.size role < dst.toNat + m * size.toNat then past role dst.toNat
    if lscr && decide (p.size .scr < list.toNat + m * iw) then past .scr list.toNat
    for (x, k) in [(size, 4), (base, 4), (stride, 4), (dst, 4), (list, iw)] do
      trapIf (decide (x.toNat % k ≠ 0)) cALIGN x
    trapIf (decide (ctr % 8 ≠ 0)) cALIGN (wordN ctr)
    counterCheck ctr
    if size.toNat < 4 ∨ 4096 < size.toNat ∨ 65536 < m then wrS d (status kRANGE 0 0)
    else if 16 ≤ p.gathQ.length then wrS d (status kBUSY 0 0)
    else
      issueCmd { freshCmd s true with
        dsp := dsp, dst := dst.toNat, src := vaOf base, len := size.toNat, rows := m, sstr := stride.toInt, ctr := ctr
        lscr := lscr, list := if lscr then list.toNat else vaOf list, iw := iw, nidx := ctl / 2 ^ 32 }
      wrS d (status kOK m 0)
    pure .adv) s

/-! ### Events -/

/-- A command of a queue goes on, unless it can only stop. -/
def advanceAt (q : List EngCmd) (k : Nat) (s : State) : Out :=
  match q[k]? with
  | none => .next s
  | some c => when ((c.stops s).isNone) c.advance s

/-- A copy command completes (R242). -/
def execCopyCommandComplete (die spur k : Nat) (s : State) : Out := advanceAt (s.spur (die, spur)).copyQ k s

/-- A gather completes (R172). -/
def execGatherCommandComplete (die spur k : Nat) (s : State) : Out := advanceAt (s.spur (die, spur)).gathQ k s

/-- An engine that meets PROT, POISON or a refused page stops (R210): unit 1 the copy engine, 2 the gather engine. -/
def execEngineFaultStop (die spur unit k : Nat) (s : State) : Out :=
  let p := s.spur (die, spur)
  match (if unit = 2 then p.gathQ else p.copyQ)[k]? with
  | none => .next s
  | some c =>
    match c.stops s with
    | some (cause, va) => .next (c.stop cause va s)
    | none => .next s

end Sys2Proof.Machine
end

