-- ==== Sys2Proof/Machine/Unit.lean ====
section
/-! DEFINITION. The units that an issuer waits for: ownership of their destination lines (07_ordering_rules.md R208), page
faults they wait for (14_recovery.md R366, R373), and NZSCAN (06_sparse.md R168, R169). -/

namespace Sys2Proof.Machine

/-- A fresh engine command's number. -/
def freshEng : Act Nat := do
  let s ← get
  set { s with nextEng := s.nextEng + 1 }
  pure s.nextEng

/-- Where a die unit stands for the executing agent and its program: it uses the die's TLB (R343). -/
def unitAt (s : State) : EngAt :=
  ⟨dieOf s.cur, none, s.myKey.2, some ⟨s.cur, s.me.tag, s.ctx.tid.toNat, s.me.fenceT⟩⟩

/-- The executing agent waits for a unit's reply. -/
def waitUnit (r : UnitReq) : Act Fin := do
  mods fun s => s.setMe { s.me with wait := .unit r, wmode := s.mode }
  pure .hold

/-- An operation of a unit for the executing agent: a page fault is met by the unit, which waits for the fault service. A refused page
and a trap of its accesses stop it (R210): what `stop` says at once, and, once the entry it leaves in the fault log need not wait (R208),
its report `fail`, given the cause and the address (R373). A page refused while the program was saved
is refused to the instruction here (R366). SPILLFULL is the session's own trap, and leaves no entry (R178). -/
def unitStep (r : UnitReq) (body : Act Fin) (stop : State → State) (fail : Nat → Nat → State → State) : Act Fin := fun s =>
  let hold (r : UnitReq) (s : State) : State := s.setMe { s.me with wait := .unit r, wmode := s.mode }
  let report (cause addr : Nat) (s : State) : Except Stop (Fin × State) :=
    .ok (.hold, if logReady (unitAt s) s then fail cause addr s else hold { r with page := none, dead := some (cause, addr) } s)
  match r.dead, s.me.refused with
  | some (cause, addr), _ => report cause addr s
  | none, some va => report cPAGE va (stop (s.setMe { s.me with refused := none }))
  | none, none =>
    match body.run s with
    | .ok (x, t) => .ok (x, t.setMe { t.me with unitPage := none })
    | .error (.trap t) =>
      let addr := t.tval.toNat % 2 ^ 56
      if t.cause = cSPILLFULL then .ok (.hold, fail t.cause addr s) else report t.cause addr (stop s)
    | .error (.page va w h) =>
      if s.me.unitPage.any fun x => x.2 && faultPage x.1 == faultPage va then
        report cPAGE va (stop (s.setMe { s.me with unitPage := none }))
      else .ok (.hold, addFault (hold { r with page := some va } (s.setMe { s.me with unitPage := none })) s.myKey s.myProg.asid va w h [s.waiter])
    | .error _ => .ok (.hold, hold r s)

/-- Runs a waiting unit operation, unless its page is still with the fault service. -/
def unitEvent (who : AgentId) (r : UnitReq) (f : State → State) (s : State) : Out :=
  when (r.page.isNone || (s.agent who).refused.isSome) (asAgent who (s.agent who).wmode f) s

/-- The lines of a unit's destinations that can be translated, owned from issue on (R208): the issuer's earlier stores to
them are performed first, the L1 copies recalled; the absent destination pages go to the fault service, and the unit takes
ownership there when it is served. -/
def unitOwn (id : Nat) (rs : List (Nat × Nat)) : Act Unit := do
  let g ← gets unitAt
  let lines ← gets fun s => ownLines s g id rs
  drainFor fun p => p.keys.any fun k => lines.any fun o => o.line == k / 64
  mods fun s => destFaults g s.waiter rs (takeLines g.die lines s)

/-- The log entry of a unit that stopped for the executing agent (R373). -/
def unitLog (unit cause addr : Nat) (s : State) : State :=
  faultLog (unitAt s) unit cause (if isSlot s.cur then spurOf s.cur else 0xFF) s.ctx.tid.toNat addr s

/-! ### NZSCAN -/

/-- Whether element j of the vector is nonzero (R168). -/
def scanElem (p : Word) (j : Nat) : Act Bool := do
  let x ← typedRead p 0 j
  pure (!x.isZero)

/-- The scan: every element read, then the list in one pool step, then the status. A shrink that has completed since its issue may have
taken the list's place away: its bytes lie past the role (R329). -/
def scanBody (d : Nat) (ptr n off base : Word) : Act Fin := do
  let k ← gets State.mySpurKey
  let hits ← (List.range n.toNat).mapM (scanElem ptr)
  let list := hits.zipIdx.filterMap fun (h, i) => if h then some (wordN (base.toNat + i)) else none
  if !list.isEmpty then
    let p ← gets fun s => s.spur k
    trapIf (decide (p.size .scr < off.toNat + 4 * list.length)) cPOOLREF (poolTval .scr (max (p.size .scr) off.toNat))
    poolWrite k .scr off.toNat (list.flatMap fun x => leBytes 4 (x.toNat % 2 ^ 32))
  wrS d (status kOK list.length 0)
  pure .adv

/-- NZSCAN (R168, R169, R191). Of a misaligned element pointer and a misaligned list offset the pointer traps first: the spec gives
no order (DESIGN CHOICE, log 22). -/
def execNzscan (d a b : Nat) (s : State) : Out :=
  runInstr .t [.w d, .grp a 2, .grp b 2] (do
    let ptr ← rdS a
    let n ← rdS (a + 1)
    let off ← rdS b
    let base ← rdS (b + 1)
    let f := ptrFmt ptr
    let p ← gets fun s => s.spur s.mySpurKey
    trapIf (!([1, 2, 3, 4, 5, 10, 12].contains f && ptrBlg ptr == 0)) cILLFMT ptr
    trapIf (decide (p.size .scr < off.toNat + 4 * n.toNat)) cPOOLREF (poolTval .scr (max (p.size .scr) off.toNat))
    typedCheck ptr
    trapIf (decide (off.toNat % 4 ≠ 0)) cALIGN off
    let s ← get
    if 65536 < n.toNat then
      wrS d (status kRANGE 0 0)
      pure .adv
    else if s.defer ∧ n ≠ 0 then waitUnit ⟨.nzscan, 0, d, [ptr, n, off, base], [], none, none⟩
    else scanBody d ptr n off base) s

/-- The scan completes (R169). -/
def execNzscanComplete (who : AgentId) (s : State) : Out :=
  match (s.agent who).wait with
  | .unit r =>
    match r.op, r.xs with
    | .nzscan, [ptr, n, off, base] => .next (finishWait who (scanBody r.d ptr n off base) s)
    | _, _ => .next s
  | _ => .next s

end Sys2Proof.Machine
end

