-- ==== Sys2Proof/Machine/Gate.lean ====
section
/-! DEFINITION. The gate unit of a die: GTOPK, GHIST, GPERM (06_sparse.md R188 to R191). -/

namespace Sys2Proof.Machine

/-- Whether expert i ranks above expert j by their FP32 scores (R188). -/
def ranksAbove (x y : Nat × Nat) : Bool :=
  let a := fp32.read x.2
  let b := fp32.read y.2
  if a.isNan && b.isNan then decide (x.1 < y.1)
  else if a.isNan then false
  else if b.isNan then true
  else if lessR88 b a then true
  else if lessR88 a b then false
  else decide (x.1 < y.1)

/-- A list with an element put before the first one it ranks above. -/
def insertBy {α : Type} (lt : α → α → Bool) (x : α) : List α → List α
  | [] => [x]
  | y :: r => if lt x y then x :: y :: r else y :: insertBy lt x r

/-- A list in rank order. -/
def sortBy {α : Type} (lt : α → α → Bool) (l : List α) : List α := l.foldl (fun t x => insertBy lt x t) []

/-- Four-byte entries as bytes. -/
def words4 (xs : List Nat) : List Byte := xs.flatMap (leBytes 4)

/-- Reads n four-byte entries for the gate unit. -/
def gateRead (g : EngAt) (id : Nat) (va : Word) (n : Nat) : Act (List Nat) :=
  (List.range n).mapM fun i => do
    let bs ← engRead g id ((vaOf va + 4 * i) % 2 ^ 56) 4
    pure (leNat bs)

/-- Writes four-byte entries for the gate unit. -/
def gateWrite (g : EngAt) (id : Nat) (va : Word) (xs : List Nat) : Act Unit := do
  cleanLines (← engWrite g id (vaOf va) (words4 xs))

/-- How many of a list equal a number. -/
def countOf (e : Nat) (xs : List Nat) : Nat := (xs.filter (· == e)).length

/-- The position of entry n (R190). -/
def gatePos (xs : List Nat) (n : Nat) : Nat :=
  let e := xs.getD n 0
  (xs.filter fun x => decide (x < e)).length + countOf e (xs.take n)

/-- The destinations of a request: address and length in bytes. -/
def gateDests (r : UnitReq) : List (Nat × Nat) :=
  let some' (va : Word) (n : Nat) : List (Nat × Nat) := if va = 0 then [] else [(vaOf va, 4 * n)]
  match r.op, r.xs with
  | .gtopk, [_, t, _, k, o, p] => (vaOf o, 4 * (t.toNat * k.toNat)) :: some' p (t.toNat * k.toNat)
  | .ghist, [_, _, e, o, p] => (vaOf o, 4 * e.toNat) :: some' p (e.toNat + 1)
  | .gperm, [_, n, _, o, p] => (vaOf o, 4 * n.toNat) :: some' p n.toNat
  | _, _ => []

/-- GTOPK's selection. -/
def gtopkBody (g : EngAt) (id : Nat) (sc t e k o p : Word) : Act Word := do
  let all ← gateRead g id sc (t.toNat * e.toNat)
  let rows := (List.range t.toNat).map fun i => (all.drop (i * e.toNat)).take e.toNat
  let best := rows.flatMap fun r => (sortBy ranksAbove ((List.range e.toNat).zip r)).take k.toNat
  gateWrite g id o (best.map (·.1))
  if p ≠ 0 then gateWrite g id p (best.map (·.2))
  pure (status kOK (t.toNat * k.toNat) 0)

/-- GHIST's counts. Of several entries of E or more VALUE names the lowest position: the spec does not say which (DESIGN CHOICE,
log 24). -/
def ghistBody (g : EngAt) (id : Nat) (ix n e o p : Word) : Act Word := do
  let xs ← gateRead g id ix n.toNat
  match xs.findIdx? fun x => decide (e.toNat ≤ x) with
  | some i => pure (status kRANGE i 0)
  | none =>
    gateWrite g id o ((List.range e.toNat).map fun i => countOf i xs)
    if p ≠ 0 then gateWrite g id p ((List.range (e.toNat + 1)).map fun i => (xs.filter fun x => decide (x < i)).length)
    pure (status kOK n.toNat 0)

/-- GPERM's permutation and inverse; of several entries of E or more VALUE names the lowest position, as for GHIST (DESIGN CHOICE,
log 24). -/
def gpermBody (g : EngAt) (id : Nat) (ix n e o p : Word) : Act Word := do
  let xs ← gateRead g id ix n.toNat
  match xs.findIdx? fun x => decide (e.toNat ≤ x) with
  | some i => pure (status kRANGE i 0)
  | none =>
    let inv := (List.range n.toNat).map (gatePos xs)
    gateWrite g id o ((List.range n.toNat).map fun i => inv.findIdx (· == i))
    if p ≠ 0 then gateWrite g id p inv
    pure (status kOK n.toNat 0)

/-- The gate unit finished with an agent's request. -/
def leaveGate (who : AgentId) (id : Nat) (s : State) : State :=
  let r := s.die (dieOf who)
  (disown id s).setDie (dieOf who) { r with gateQ := r.gateQ.filter (· ≠ who) }

/-- A request that stops: its outputs unspecified, their lines free (R188, R210). -/
def gateStop (r : UnitReq) (s : State) : State := disown r.id (spoil (unitAt s) r.id (gateDests r) s)

/-- The report of one that has stopped: the log, the trap in its issuer (R188, R373). -/
def gateFail (r : UnitReq) (cause addr : Nat) (s : State) : State :=
  takeTrap (unitLog 5 cause addr (leaveGate s.cur r.id s)) ⟨cause, wordN addr⟩

/-- A request performed (R188 to R190). -/
def gateBody (r : UnitReq) : Act Fin :=
  unitStep r (do
    let g ← gets unitAt
    let v ← match r.op, r.xs with
      | .gtopk, [sc, t, e, k, o, p] => gtopkBody g r.id sc t e k o p
      | .ghist, [ix, n, e, o, p] => ghistBody g r.id ix n e o p
      | .gperm, [ix, n, e, o, p] => gpermBody g r.id ix n e o p
      | _, _ => pure 0
    mods fun s => leaveGate s.cur r.id s
    wrS r.d v
    pure .adv) (gateStop r) (gateFail r)

/-- A gate instruction: alignment, operand ranges, destinations, then its place in the unit's queue (R188, R191). Of several misaligned
addresses TVAL names the input array before s[b] and s[b] before s[b + 1]: the spec gives no order (DESIGN CHOICE, log 22). -/
def gateInstr (op : UnitOp) (d : Nat) (xs addrs : List Word) (ok : Bool) : Act Fin := do
  for x in addrs do trapIf (decide (vaOf x % 4 ≠ 0)) cALIGN x
  if !ok then
    markSide
    wrS d (status kRANGE 0 0)
    pure .adv
  else
    let id ← freshEng
    let r : UnitReq := ⟨op, id, d, xs, [], none, none⟩
    destCheck (gateDests r)
    markSide
    unitOwn id (gateDests r)
    let s ← get
    let dd := dieOf s.cur
    let q := (s.die dd).gateQ
    set (s.setDie dd { s.die dd with gateQ := q ++ [s.cur] })
    if s.defer ∨ q ≠ [] then waitUnit r else gateBody r

def execGtopk (d a b : Nat) (s : State) : Out :=
  runInstr .tm [.w d, .grp a 4, .grp b 2] (do
    let sc ← rdS a
    let t ← rdS (a + 1)
    let e ← rdS (a + 2)
    let k ← rdS (a + 3)
    let o ← rdS b
    let p ← rdS (b + 1)
    gateInstr .gtopk d [sc, t, e, k, o, p] [sc, o, p]
      (decide (1 ≤ t.toNat ∧ t.toNat ≤ 1048576 ∧ 1 ≤ e.toNat ∧ e.toNat ≤ 256 ∧ 1 ≤ k.toNat ∧ k.toNat ≤ 8 ∧ k.toNat ≤ e.toNat))) s

/-- GHIST and GPERM read the same operands. -/
def gateIndexed (op : UnitOp) (d a b : Nat) (s : State) : Out :=
  runInstr .tm [.w d, .grp a 3, .grp b 2] (do
    let ix ← rdS a
    let n ← rdS (a + 1)
    let e ← rdS (a + 2)
    let o ← rdS b
    let p ← rdS (b + 1)
    gateInstr op d [ix, n, e, o, p] [ix, o, p] (decide (n.toNat ≤ 8388608 ∧ 1 ≤ e.toNat ∧ e.toNat ≤ 256))) s

def execGhist (d a b : Nat) (s : State) : Out := gateIndexed .ghist d a b s
def execGperm (d a b : Nat) (s : State) : Out := gateIndexed .gperm d a b s

/-- The gate unit of a die finishes its oldest instruction (R188). -/
def execGateOperationComplete (die : Nat) (s : State) : Out :=
  match (s.die die).gateQ with
  | [] => .next s
  | who :: _ =>
    match (s.agent who).wait with
    | .unit r => unitEvent who r (fun t => settle t ((gateBody { r with page := none }).run t)) s
    | _ => .next s

end Sys2Proof.Machine
end

