-- ==== Sys2Proof/Machine/Arete.lean ====
section
/-! DEFINITION. Arete, the merge network of a die (06_sparse.md R173 to R187). -/

namespace Sys2Proof.Machine

/-- The codes of R167 beyond those of R323. -/
def kSPILLFULL : Nat := 8
def kCLOSED : Nat := 9
def kNOSESS : Nat := 10

/-! ### Sessions -/

/-- Bytes of an element (R173). -/
def efmtBytes (f : Nat) : Nat := if f = 0 then 4 else 8

/-- The session of a number of the executing program. -/
def findSess (s : State) (n : Nat) : Option Session :=
  (s.die (dieOf s.cur)).arete.find? fun x => x.core == s.myKey.2 && x.num == n

/-- A session replaced, or freed. -/
def putSess (s : State) (x : Session) (new : Option Session) : State :=
  let d := dieOf s.cur
  let r := s.die d
  s.setDie d { r with arete := r.arete.flatMap fun y =>
    if y.core = x.core ∧ y.num = x.num then new.toList else [y] }

/-- Free spill bytes (R179). -/
def Session.free (x : Session) : Nat := x.extents.foldl (fun t e => t + e.2) 0 - x.spilt

/-- Free spill space in units of 64 bytes, saturated (R180). -/
def Session.free64 (x : Session) : Nat := min (x.free / 64) (2 ^ 32 - 1)

/-- The address of a byte of the spill area, counted through the extents. -/
def spillAddr : List (Nat × Nat) → Nat → Nat
  | [], o => o
  | (a, n) :: r, o => if o < n then (a + o) % 2 ^ 56 else spillAddr r (o - n)

/-- The arrays of a descriptor or of a replacement (R173, R184): ROWPTR, COLIDX, VALUES, CAPNNZ; none when they break the
alignments or CAPNNZ's limit. -/
def arraysOf (bs : List Byte) (efmt : Nat) : Option (Nat × Nat × Nat × Nat) :=
  let w (i : Nat) : Nat := leNat ((bs.drop (8 * i)).take 8)
  let rp := w 0 % 2 ^ 56
  let ci := w 1 % 2 ^ 56
  let vs := w 2 % 2 ^ 56
  if rp % 4 ≠ 0 ∨ ci % 4 ≠ 0 ∨ vs % efmtBytes efmt ≠ 0 ∨ 2 ^ 32 ≤ w 3 then none else some (rp, ci, vs, w 3)

/-- A session from a descriptor's 64 bytes (R173), none when a field breaks its limits. -/
def sessionOf (core num : Nat) (bs : List Byte) : Option Session :=
  let w (i : Nat) : Nat := leNat ((bs.drop (8 * i)).take 8)
  let efmt := w 7 / 2 ^ 24 % 4
  let cap := w 7 % 2 ^ 23
  let nrows := w 6 % 2 ^ 32
  let ncols := w 6 / 2 ^ 32
  let spill := w 4 % 2 ^ 56
  match arraysOf bs efmt with
  | none => none
  | some (rp, ci, vs, n) =>
    if efmt = 3 ∨ nrows = 0 ∨ 2 ^ 31 < nrows ∨ ncols = 0 ∨ cap = 0 ∨ 4194304 < cap ∨ spill % 64 ≠ 0 ∨ w 5 % 64 ≠ 0 then none
    else some
      { core := core, num := num, rowptr := rp, colidx := ci, values := vs, capnnz := n
        extents := if w 5 = 0 then [] else [(spill, w 5)], nrows := nrows, ncols := ncols, cap := cap, efmt := efmt
        op := w 7 / 2 ^ 26 % 4, trapsf := w 7 / 2 ^ 28 % 2 == 1, state := .opened, pos := [], onchip := 0, runs := 0
        spilt := 0, bad := false, accepted := 0, flags := 0, entries := [], merge := none }

/-- The lowest number below 16 of no session of a program. -/
def freeNum (used : List Nat) : Nat := ((List.range 16).find? fun n => !used.contains n).getD 16

/-- MGOPEN's decision (R174): the status and the state. -/
def mgopenStep (bs : List Byte) (s : State) : Word × State :=
  let d := dieOf s.cur
  let r := s.die d
  let core := s.myKey.2
  let used := (r.arete.filter fun x => x.core == core).map (·.num)
  match sessionOf core (freeNum used) bs with
  | none => (status kRANGE 0 0, s)
  | some x =>
    if 16 ≤ r.arete.length ∨ 4194304 < r.arete.foldl (fun t y => t + y.cap) x.cap then (status kNOFREE 0 0, s)
    else (status kOK x.num 0, s.setDie d { r with arete := r.arete ++ [x] })

/-- MGAREA's decision (R180). -/
def mgareaStep (n addr size : Word) (s : State) : Word × State :=
  match findSess s n.toNat with
  | none => (status kNOSESS 0 0, s)
  | some x =>
    if x.state ≠ .opened then (status kCLOSED 0 0, s)
    else if vaOf addr % 64 ≠ 0 ∨ size = 0 ∨ size.toNat % 64 ≠ 0 then (status kRANGE 0 0, s)
    else if 16 ≤ x.extents.length then (status kNOFREE 0 0, s)
    else
      let y := { x with extents := x.extents ++ [(vaOf addr, size.toNat)] }
      (status kOK y.free64 0, putSess s x (some y))

/-- MGEND's decision (R176, R183). A mode other than 0 and 1 comes after NOSESS and before the BUSY of a merging session: the spec gives
no order (DESIGN CHOICE, log 40). -/
def mgendStep (n mode : Word) (s : State) : Word × State :=
  match findSess s n.toNat with
  | none => (status kNOSESS 0 0, s)
  | some x =>
    if 1 < mode.toNat then (status kRANGE 0 0, s)
    else
      match x.state with
      | .merging => (status kBUSY 0 0, s)
      | .ended => if mode = 0 then (status kCLOSED 0 0, s) else (status kOK 0 0, putSess s x none)
      | .opened => (status kOK 0 0, putSess s x (if mode = 0 then some { x with state := .ended } else none))

/-- The flags of a session: unspecified once software has stored to its spill area (R179). -/
def Session.seenFlags (x : Session) (s : State) : Flags := if x.bad then Config.freeFlags s.free else x.flags

/-- MGSTAT's answer (R185). A selector above 5, or a stream above 4,095, comes after NOSESS: the spec gives no order (DESIGN CHOICE,
log 40). -/
def mgstatStep (n sel stream : Word) (s : State) : Word :=
  match findSess s n.toNat with
  | none => status kNOSESS 0 0
  | some x =>
    let ok (v : Nat) : Word := status kOK v (x.seenFlags s)
    match sel.toNat with
    | 0 => ok (match x.state with
        | .opened => 1
        | .ended => 2
        | .merging => 3)
    | 1 => ok x.onchip
    | 2 => ok x.runs
    | 3 => ok x.free64
    | 4 => ok x.accepted
    | 5 => if 4095 < stream.toNat then status kRANGE 0 0 else ok (tabGet x.pos stream.toNat 0)
    | _ => status kRANGE 0 0

/-! ### Putting triples (R178, R179) -/

/-- The triples of a batch: row, column, value. -/
def triples : Nat → List Byte → List (Nat × Nat × Word)
  | 0, _ => []
  | n + 1, bs =>
    (leNat (bs.take 4), leNat ((bs.drop 4).take 4), wordN (leNat ((bs.drop 8).take 8))) :: triples n (bs.drop 16)

/-- A spill's bytes written to the spill area: unspecified contents (R179). -/
def spillWrite (g : EngAt) (id : Nat) (x : Session) (n : Nat) : Act Unit := do
  let bs ← freeBytes n
  let keys ← bs.zipIdx.mapM fun (b, i) => engWrite g id (spillAddr x.extents (x.spilt + i)) [b]
  cleanLines keys.flatten

/-- The spill of a session (R179): its new state, or the VALUE of SPILLFULL. -/
def spillSess (g : EngAt) (id : Nat) (x : Session) : Act (Session ⊕ Nat) := do
  let r := (64 + 16 * x.onchip + 63) / 64 * 64
  if 4096 ≤ x.runs then pure (.inr 0)
  else if x.free < r then pure (.inr r)
  else
    spillWrite g id x r
    pure (.inl { x with onchip := 0, runs := x.runs + 1, spilt := x.spilt + r })

/-- MGPUT's decision (R178): the status. Of several bad triples VALUE names the lowest, and VALUE and FLAGS of a refusal whose entry
names none are 0: the spec gives neither (DESIGN CHOICE, log 24). -/
def mgputStep (id : Nat) (num stream n : Word) (bs : List Byte) : Act Word := do
  let s ← get
  let g := unitAt s
  match findSess s num.toNat with
  | none => pure (status kNOSESS 0 0)
  | some x =>
    let ts := triples n.toNat bs
    if x.state ≠ .opened then pure (status kCLOSED 0 0)
    else if 4095 < stream.toNat ∨ 4096 < n.toNat ∨ x.cap < n.toNat then pure (status kRANGE 0 0)
    else if 2 ^ 32 - 1 < x.accepted + n.toNat then pure (status kRANGE 0 0)
    else
      match ts.findIdx? fun t => decide (x.nrows ≤ t.1 ∨ x.ncols ≤ t.2.1) with
      | some i => pure (status kRANGE i 0)
      | none =>
        let p := tabGet x.pos stream.toNat 0
        if n = 0 then pure (status kOK p 0)
        else
          let y ← if x.cap < x.onchip + n.toNat then spillSess g id x else pure (.inl x)
          match y with
          | .inr v =>
            trapIf x.trapsf cSPILLFULL (wordN v)
            pure (status kSPILLFULL v 0)
          | .inl y =>
            let es := ts.zipIdx.map fun (t, i) =>
              (⟨t.1, t.2.1, stream.toNat, p + i, if x.efmt = 0 then t.2.2 &&& 0xFFFFFFFF#64 else t.2.2⟩ : Entry)
            mods fun s => putSess s x (some { y with
              entries := y.entries ++ es
              pos := tabSet y.pos stream.toNat (p + n.toNat)
              onchip := y.onchip + n.toNat
              accepted := y.accepted + n.toNat })
            pure (status kOK p 0)

/-- A put that stops: SPILLFULL is the session's own trap; else the spill met a fault (R373). -/
def putFail (cause addr : Nat) (s : State) : State :=
  if cause = cSPILLFULL then takeTrap s ⟨cSPILLFULL, wordN addr⟩
  else takeTrap (unitLog 3 cause addr s) ⟨cENGERR, wordN addr⟩

/-- MGPUT at Arete. -/
def mgputBody (r : UnitReq) : Act Fin :=
  unitStep r (do
    match r.xs with
    | [num, stream, n] =>
      markSide
      wrS r.d (← mgputStep r.id num stream n r.bytes)
    | _ => pure ()
    pure .adv) id putFail

def execMgput (d a b : Nat) (s : State) : Out :=
  runInstr .t [.w d, .grp a 2, .grp b 2] (do
    let num ← rdS a
    let stream ← rdS (a + 1)
    let off ← rdS b
    let n ← rdS (b + 1)
    let k ← gets State.mySpurKey
    let p ← gets fun s => s.spur k
    trapIf (decide (p.size .scr < off.toNat + 16 * n.toNat)) cPOOLREF (poolTval .scr (max (p.size .scr) off.toNat))
    trapIf (decide (off.toNat % 16 ≠ 0)) cALIGN off
    let bs ← poolRead k .scr off.toNat (16 * n.toNat)
    let r : UnitReq := ⟨.mgput, ← freshEng, d, [num, stream, n], bs, none, none⟩
    let s ← get
    if s.defer then do
      markSide
      waitUnit r
    else mgputBody r) s

/-! ### The merge (R181, R184) -/

/-- The order of keys (R177). -/
def keyBefore (x y : Entry) : Bool :=
  if x.row ≠ y.row then decide (x.row < y.row)
  else if x.col ≠ y.col then decide (x.col < y.col)
  else if x.stream ≠ y.stream then decide (x.stream < y.stream)
  else decide (x.pos < y.pos)

/-- One combination of two values (R181). LAST keeps the newer pattern as it is, and raises nothing: the rule speaks of the NaNs that a
combination produces and of signalling NaNs that enter one, with no word on LAST (DESIGN CHOICE, log 40). -/
def combine (efmt op : Nat) (v e : Word) : Word × Flags :=
  let g := if efmt = 0 then fp32 else fp64
  let r (x : Nat × Flags) : Word × Flags := (wordN x.1, x.2)
  if op = 3 then (e, 0)
  else if efmt = 2 then
    match op with
    | 0 => (v + e, 0)
    | 1 => (if e.slt v then e else v, 0)
    | _ => (if v.slt e then e else v, 0)
  else
    match op with
    | 0 => r (fAdd g ⟨0, false, false, 0, 0⟩ 0 v.toNat e.toNat)
    | 1 => r (fMinMax g false false false v.toNat e.toNat)
    | _ => r (fMinMax g false true false v.toNat e.toNat)

/-- Groups of equal row and column combined, in key order: row, column, value, and the flags. -/
def mergeEntries (efmt op : Nat) (es : List Entry) : List (Nat × Nat × Word) × Flags :=
  let step (q : List (Nat × Nat × Word) × Flags) (e : Entry) : List (Nat × Nat × Word) × Flags :=
    match q.1 with
    | (r, c, v) :: rest =>
      if r = e.row ∧ c = e.col then
        let (w, fl) := combine efmt op v e.val
        ((r, c, w) :: rest, q.2 ||| fl)
      else ((e.row, e.col, e.val) :: q.1, q.2)
    | [] => ([(e.row, e.col, e.val)], q.2)
  let (l, fl) := (sortBy keyBefore es).foldl step ([], 0)
  (l.reverse, fl)

/-- The result ranges of a merge: address and length in bytes. -/
def mergeDests (x : Session) (rp ci vs n : Nat) : List (Nat × Nat) :=
  [(rp, 4 * (x.nrows + 1)), (ci, 4 * n), (vs, efmtBytes x.efmt * n)]

/-- Whether a session's results are what its triples give (R179, R180): software has not stored to its spill area, no extent overlaps
another one or a result array. -/
def Session.intact (x : Session) (dests : List (Nat × Nat)) : Bool :=
  let meet (a b : Nat × Nat) : Bool := rangesMeet true ((a.1 : Int), a.2) ((b.1 : Int), b.2)
  !x.bad && !(x.extents.any fun e => dests.any (meet e)) &&
    (List.range x.extents.length).all fun i => !((x.extents.drop (i + 1)).any (meet (x.extents.getD i (0, 0))))

/-- The arrays an MGFIN writes: its replacement's or the session's. -/
def finArrays (x : Session) (bs : List Byte) : Option (Nat × Nat × Nat × Nat) :=
  if bs.isEmpty then some (x.rowptr, x.colidx, x.values, x.capnnz) else arraysOf bs x.efmt

/-- The merge of a session performed (R184): the arrays, the status, and the session freed or back in ENDED. A spill area stored to
leaves the arrays, nnz and FLAGS unspecified (R179). -/
def mergeStep (id : Nat) (num : Word) (bs : List Byte) : Act Word := do
  let s ← get
  let g := unitAt s
  match findSess s num.toNat with
  | none => pure (status kNOSESS 0 0)
  | some x =>
    match finArrays x bs with
    | none => pure (status kRANGE 0 0)
    | some (rp, ci, vs, capn) =>
      let intact := x.intact (mergeDests x rp ci vs capn)
      let (l, fl) := mergeEntries x.efmt x.op x.entries
      let es := efmtBytes x.efmt
      let k ← freshFree
      let nnz := if intact then l.length else (Config.freeWord k).toNat % 2 ^ 32
      let fl := if intact then fl else Config.freeFlags k
      let fl := x.flags ||| fl
      if intact then
        let rk ← engWrite g id rp (words4 ((List.range (x.nrows + 1)).map fun r => (l.filter fun e => decide (e.1 < r)).length))
        let ck ← engWrite g id ci (words4 ((l.take capn).map (·.2.1)))
        let vk ← engWrite g id vs ((l.take capn).flatMap fun e => leBytes es e.2.2.toNat)
        cleanLines (rk ++ ck ++ vk)
      else
        for (va, n) in mergeDests x rp ci vs capn do
          let junk ← freeBytes n
          let _ ← engWrite g id va junk
      mods fun s => disown id (putSess s x (if nnz ≤ capn then none else some { x with state := .ended, flags := fl, merge := none }))
      pure (status (if nnz ≤ capn then kOK else kRANGE) nnz fl)

/-- A merge that stops (R186): the result lines unspecified and free, the session back in ENDED. -/
def mergeStop (r : UnitReq) (s : State) : State :=
  let s := match findSess s (r.xs.headD 0).toNat with
    | none => s
    | some x =>
      let s := match finArrays x r.bytes with
        | none => s
        | some (rp, ci, vs, n) => spoil (unitAt s) r.id (mergeDests x rp ci vs n) s
      putSess s x (some { x with state := .ended, merge := none })
  disown r.id s

/-- The report of one that has stopped: the log, ENGERR. -/
def mergeFail (cause addr : Nat) (s : State) : State := takeTrap (unitLog 3 cause addr s) ⟨cENGERR, wordN addr⟩

/-- MGFIN at Arete. -/
def mgfinBody (r : UnitReq) : Act Fin :=
  unitStep r (do
    let v ← mergeStep r.id (r.xs.headD 0) r.bytes
    wrS r.d v
    pure .adv) (mergeStop r) mergeFail

/-- The executing agent as the one that runs a merge. -/
def mergeThread (s : State) : Option (Nat × Nat) := if isSlot s.cur then some (s.me.tag, s.ctx.tid.toNat) else none

/-- The pre-empted merge of a session that this MGFIN continues (R187). -/
def mergeResumed (s : State) (n : Nat) : Option MergeRun :=
  (findSess s n).bind fun x => x.merge.filter fun m => m.thread == mergeThread s

/-- MGFIN (R184): Arete owns the result lines from issue on (R208); executed again after a pre-emption it continues the merge
(R187). -/
def execMgfin (d a b : Nat) (s : State) : Out :=
  runInstr .tm [.w d, .r a, .r b] (do
    let num ← rdS a
    let rd ← rdS b
    trapIf (decide (vaOf rd % 32 ≠ 0)) cALIGN rd
    let s ← get
    let start (m : MergeRun) : Act Fin := do
      let r : UnitReq := ⟨.mgfin, m.id, d, [num], m.bytes, none, none⟩
      let s ← get
      if s.defer then waitUnit r else mgfinBody r
    match mergeResumed s num.toNat with
    | some m => start m
    | none =>
    let bs ← if rd = 0 then pure [] else readMem .read (vaOf rd) 32
    markSide
    let s ← get
    let done (w : Word) : Act Fin := do
      wrS d w
      pure .adv
    match findSess s num.toNat with
    | none => done (status kNOSESS 0 0)
    | some x =>
      if x.state ≠ .ended then done (status kBUSY 0 0)
      else
        match finArrays x bs with
        | none => done (status kRANGE 0 0)
        | some (rp, ci, vs, n) =>
          destCheck (mergeDests x rp ci vs n)
          let id ← freshEng
          unitOwn id (mergeDests x rp ci vs n)
          let m : MergeRun := ⟨id, mergeThread s, bs⟩
          mods fun s => putSess s x (some { x with state := .merging, merge := some m })
          start m) s

/-- The merge completes (R184). -/
def execAreteMergeComplete (who : AgentId) (s : State) : Out :=
  match (s.agent who).wait with
  | .unit r =>
    if r.op = .mgfin then
      unitEvent who r (fun t => settle t ((mgfinBody { r with page := none }).run t)) s
    else .next s
  | _ => .next s

/-- Arete answers a parked put (R178). -/
def execAretePutReply (who : AgentId) (s : State) : Out :=
  match (s.agent who).wait with
  | .unit r =>
    if r.op = .mgput then
      unitEvent who r (fun t => settle t ((mgputBody { r with page := none }).run t)) s
    else .next s
  | _ => .next s

/-! ### MGOPEN, MGAREA, MGEND, MGSTAT -/

/-- The decision of a command, its status written. -/
def areteBody (r : UnitReq) : Act Fin := do
  let s ← get
  let (w, t) := match r.op, r.xs with
    | .mgopen, _ => mgopenStep r.bytes s
    | .mgarea, [n, x, y] => mgareaStep n x y s
    | .mgend, [n, m] => mgendStep n m s
    | .mgstat, [n, x, y] => (mgstatStep n x y s, { s with free := s.free + 1 })
    | _, _ => (0, s)
  set t
  markSide
  wrS r.d w
  pure .adv

/-- Such a command: answered at once, or its issuer stalls until Arete replies (R176). -/
def areteCmd (op : UnitOp) (d : Nat) (xs : List Word) (bs : List Byte) : Act Fin := do
  let s ← get
  let r : UnitReq := ⟨op, 0, d, xs, bs, none, none⟩
  if s.defer then do
    markSide
    waitUnit r
  else areteBody r

def execMgopen (d a : Nat) (s : State) : Out :=
  runInstr .tm [.w d, .r a] (do
    let x ← rdS a
    trapIf (decide (vaOf x % 64 ≠ 0)) cALIGN x
    areteCmd .mgopen d [] (← readMem .read (vaOf x) 64)) s

def execMgarea (d a b : Nat) (s : State) : Out :=
  runInstr .tm [.w d, .r a, .grp b 2] (do areteCmd .mgarea d [← rdS a, ← rdS b, ← rdS (b + 1)] []) s

/-- MGEND: its mode is a register (R183), so the two rows share one word. -/
def mgend (d a b : Nat) (s : State) : Out :=
  runInstr .tm [.w d, .r a, .r b] (do areteCmd .mgend d [← rdS a, ← rdS b] []) s

def execMgendEnd (d a b : Nat) (s : State) : Out := mgend d a b s
def execMgendAbandon (d a b : Nat) (s : State) : Out := mgend d a b s

def execMgstat (d a b : Nat) (s : State) : Out :=
  runInstr .tm [.w d, .r a, .grp b 2] (do areteCmd .mgstat d [← rdS a, ← rdS b, ← rdS (b + 1)] []) s

/-- Arete accepts and answers a command (R176). -/
def execAreteCommandReply (who : AgentId) (s : State) : Out :=
  match (s.agent who).wait with
  | .unit r =>
    if [UnitOp.mgopen, .mgarea, .mgend, .mgstat].contains r.op then .next (finishWait who (areteBody r) s) else .next s
  | _ => .next s

end Sys2Proof.Machine
end

