-- ==== Sys2Proof/Machine/Branch.lean ====
section
/-! DEFINITION. Control transfers (02_encoding.md R32, R33, 04_scalar_vector.md R109 to R112). -/

namespace Sys2Proof.Machine

/-- B (R32, R109). -/
def execBr (q n : Nat) (o : Int) (s : State) : Out :=
  runInstr .tm [] (do
    let t ← rdQ q
    if t = decide (n = 0) then pure (.jump (s.ctx.pc + wordOf (o * 4)))
    else pure .adv) s

/-- JAL (R33, R110). -/
def execJal (d : Nat) (o : Int) (s : State) : Out :=
  runInstr .tm [.w d] (do
    let pc := s.ctx.pc
    wrS d (pc + 4)
    pure (.jump (pc + wordOf (o * 4)))) s

/-- The address of the executing word: the second word of a pair is one word on (R38, R111). -/
def wordAddr (s : State) : Word :=
  match s.mode with
  | .prefixed => s.ctx.pc + 4
  | .ganged => s.ctx.pc + 4
  | _ => s.ctx.pc

/-- JALR (R111). -/
def execJalr (d a : Nat) (i : Int) (s : State) : Out :=
  runInstr .tm [.w d, .r a] (do
    let target := eaImm (← rdS a) i 4
    trapIf (decide (target.toNat % 4 ≠ 0)) cALIGN target
    wrS d (wordAddr s + 4)
    pure (.jump target)) s

/-- REP (R112): the counter keeps its taint (R95). -/
def execRep (a : Nat) (i : Int) (s : State) : Out :=
  runInstr .tm [.rw a] (do
    let x ← rdS a
    if x = 0 then pure .adv
    else
      let t ← gets fun s => s.ctx.tainted a
      wrT a (x - 1) t
      if x - 1 = 0 then pure .adv else pure (.jump (s.ctx.pc - wordOf (4 * i)))) s

end Sys2Proof.Machine
end

