-- ==== Sys2Proof/Machine/Float.lean ====
section
/-! DEFINITION. Scalar floating point and conversions, majors 0x40 to 0x4C (04_scalar_vector.md R113 to R119). -/

namespace Sys2Proof.Machine

/-- A scalar floating-point operation of two registers in FCSR's mode: flags, the stochastic seed when `rounds`, and the
result in the low bits (R94, R113). -/
def fpu2 (rounds : Bool) (f : Fmt → FEnv → Nat → Nat → Nat → Nat × Flags) (t d a b : Nat) (s : State) : Out :=
  runInstr .tm [.w d, .r a, .r b] (do
    let v ← gets fun s => fenvOf s 7
    let m := typeFmt t
    let (r, fl) := f m v (v.draw 0 0) (fpBits m (← rdS a)) (fpBits m (← rdS b))
    raiseFlags fl
    if rounds then bumpSeed v
    wrS d (wordN r)
    pure .adv) s

/-- FMA and FNMA (R115) read s[d]. -/
def fpu3 (negp : Bool) (t d a b : Nat) (s : State) : Out :=
  runInstr .tm [.rw d, .r a, .r b] (do
    let v ← gets fun s => fenvOf s 7
    let m := typeFmt t
    let (r, fl) := fFma m v negp (v.draw 0 0) (fpBits m (← rdS a)) (fpBits m (← rdS b)) (fpBits m (← rdS d))
    raiseFlags fl
    bumpSeed v
    wrS d (wordN r)
    pure .adv) s

/-- FCMP (R118). A comparison rounds nothing: it is taken to have no effective mode and never advances SRSEED, though R76's list of such
instructions does not name it (DESIGN CHOICE, log 54). -/
def fpuCmp (cond t q a b : Nat) (s : State) : Out :=
  runInstr .tm [.r a, .r b] (do
    let v ← gets fun s => fenvOf s 7
    let m := typeFmt t
    let (r, fl) := fCompare m v.ftz cond (fpBits m (← rdS a)) (fpBits m (← rdS b))
    raiseFlags fl
    wrQ q r
    pure .adv) s

def execFadd (t d a b : Nat) (s : State) : Out := fpu2 true fAdd t d a b s
def execFsub (t d a b : Nat) (s : State) : Out := fpu2 true fSub t d a b s
def execFmul (t d a b : Nat) (s : State) : Out := fpu2 true fMul t d a b s
def execFdiv (t d a b : Nat) (s : State) : Out := fpu2 true fDiv t d a b s
def execFmin (t d a b : Nat) (s : State) : Out := fpu2 false (fun m v _ x y => fMinMax m v.ftz false false x y) t d a b s
def execFmax (t d a b : Nat) (s : State) : Out := fpu2 false (fun m v _ x y => fMinMax m v.ftz true false x y) t d a b s
def execFminn (t d a b : Nat) (s : State) : Out := fpu2 false (fun m v _ x y => fMinMax m v.ftz false true x y) t d a b s
def execFmaxn (t d a b : Nat) (s : State) : Out := fpu2 false (fun m v _ x y => fMinMax m v.ftz true true x y) t d a b s
def execFma (t d a b : Nat) (s : State) : Out := fpu3 false t d a b s
def execFnma (t d a b : Nat) (s : State) : Out := fpu3 true t d a b s

/-- FSQRT (R116). -/
def execFsqrt (t d a : Nat) (s : State) : Out := fpu2 true (fun m v u x _ => fSqrt m v u x) t d a a s

/-- FCLASS (R117): no flag, no FTZ. -/
def execFclass (t d a : Nat) (s : State) : Out :=
  runInstr .tm [.w d, .r a] (do
    let m := typeFmt t
    wrS d (wordN (fClass m (fpBits m (← rdS a))))
    pure .adv) s

def execFcmpEq (t q a b : Nat) (s : State) : Out := fpuCmp 0 t q a b s
def execFcmpNe (t q a b : Nat) (s : State) : Out := fpuCmp 1 t q a b s
def execFcmpLt (t q a b : Nat) (s : State) : Out := fpuCmp 2 t q a b s
def execFcmpLe (t q a b : Nat) (s : State) : Out := fpuCmp 3 t q a b s
def execFcmpGt (t q a b : Nat) (s : State) : Out := fpuCmp 4 t q a b s
def execFcmpGe (t q a b : Nat) (s : State) : Out := fpuCmp 5 t q a b s
def execFcmpUn (t q a b : Nat) (s : State) : Out := fpuCmp 6 t q a b s
def execFcmpOr (t q a b : Nat) (s : State) : Out := fpuCmp 7 t q a b s

/-- A type of a conversion: a floating-point format, or an integer of a width, signed or not (R46, R47). -/
inductive CvType where
  | fp (f : Fmt)
  | int (w : Nat) (signed : Bool)
  deriving DecidableEq, Repr

/-- Bits of a conversion type. -/
def CvType.bits : CvType → Nat
  | .fp f => f.width
  | .int w _ => w

/-- FCVT's type codes (R46). -/
def fcvtType (c : Nat) : CvType :=
  match c with
  | 0 => .fp fp64
  | 1 => .fp fp32
  | 2 => .fp fp16
  | 3 => .fp bf16
  | 4 => .fp e4m3
  | 5 => .fp e5m2
  | 6 => .int 64 true
  | _ => .int 64 false

/-- VCVT's type codes (R47). -/
def vcvtType (c : Nat) : CvType :=
  match c with
  | 0 => .fp e4m3
  | 1 => .fp e5m2
  | 2 => .fp fp16
  | 3 => .fp bf16
  | 4 => .fp fp32
  | 5 => .fp fp64
  | 6 => .int 8 true
  | _ => .int 32 true

/-- The least and greatest values of an integer type. -/
def intLo (w : Nat) (signed : Bool) : Int := if signed then -(2 ^ (w - 1) : Int) else 0
def intHi (w : Nat) (signed : Bool) : Int := if signed then 2 ^ (w - 1) - 1 else 2 ^ w - 1

/-- The integer of a pattern. -/
def intOf (w : Nat) (signed : Bool) (x : Nat) : Int := if signed then sextN w x else ((x % 2 ^ w : Nat) : Int)

/-- One element converted between types (R84, R85, R119, R132). -/
def convert (fr t : CvType) (v : FEnv) (u x : Nat) : Nat × Flags :=
  match fr, t with
  | .fp f, .fp g => fConv f g v u x
  | .fp f, .int w sg =>
    let (z, fl) := toInt v u (intLo w sg) (intHi w sg) (f.readFtz v.ftz x)
    (truncN w z, fl)
  | .int w sg, .fp g => ofInt g v u (intOf w sg x)
  | .int w sg, .int w' _ => (truncN w' (intOf w sg x), 0)

/-- FCVT (R119). -/
def execFcvt (d a t f r : Nat) (s : State) : Out :=
  runInstr .tm [.w d, .r a] (do
    let v ← gets fun s => fenvOf s r
    let x ← rdS a
    let (y, fl) := convert (fcvtType f) (fcvtType t) v (v.draw 0 0) (x.toNat % 2 ^ (fcvtType f).bits)
    raiseFlags fl
    bumpSeed v
    wrS d (wordN y)
    pure .adv) s

end Sys2Proof.Machine
end

