-- ==== Sys2Proof/Machine/Vector.lean ====
section
/-! DEFINITION. Vector instructions, majors 0x60 to 0x8B (04_scalar_vector.md R123 to R135). -/

namespace Sys2Proof.Machine

/-! ### Shapes -/

/-- Two vectors to one, lane by lane (R123, R124): `f` takes the lane width and the two lanes. -/
def vint2 (f : Nat → Nat → Nat → Nat) (d a b m l : Nat) (s : State) : Out :=
  runMasked m [.vw d, .vr a, .vr b] (do
    let w := laneWidth l
    let x := lanes w (laneCount l) (← rdV a)
    let y := lanes w (laneCount l) (← rdV b)
    wrV d (packLanes w (List.zipWith (f w) x y))
    pure .adv) s

/-- Whole 128-bit operations (R125). -/
def vbit2 (f : BitVec 128 → BitVec 128 → BitVec 128) (d a b m : Nat) (s : State) : Out :=
  runMasked m [.vw d, .vr a, .vr b] (do
    wrV d (f (← rdV a) (← rdV b))
    pure .adv) s

/-- The union of flags (R79). -/
def unionFlags (fs : List Flags) : Flags := fs.foldl (· ||| ·) 0

/-- Lane results with their flags, the flags raised and the results packed (R123). -/
def finishLanes (w d : Nat) (rs : List (Nat × Flags)) : Act Unit := do
  raiseFlags (unionFlags (rs.map Prod.snd))
  wrV d (packLanes w (rs.map Prod.fst))

/-- Floating-point lanes of two vectors (R128): `f` takes the format, the environment, the draw and the lanes. -/
def vfp2 (rounds : Bool) (f : Fmt → FEnv → Nat → Nat → Nat → Nat × Flags) (d a b m l : Nat) (s : State) : Out :=
  runMasked m [.vw d, .vr a, .vr b] (do
    let v ← gets fun s => fenvOf s 7
    let w := laneWidth l
    let g := laneFmt l
    let x ← rdV a
    let y ← rdV b
    finishLanes w d ((List.range (laneCount l)).map fun i => f g v (v.draw 0 i) (laneAt w x i) (laneAt w y i))
    if rounds then bumpSeed v
    pure .adv) s

/-- Lane masks of a comparison (R126, R127). -/
def maskLane (w : Nat) (b : Bool) : Nat := if b then 2 ^ w - 1 else 0

/-- VFCMP (R127); like FCMP it never advances SRSEED (DESIGN CHOICE, log 54). -/
def vfcmp (cond d a b m l : Nat) (s : State) : Out :=
  vfp2 false (fun g v _ x y => ((maskLane g.width (fCompare g v.ftz cond x y).1), (fCompare g v.ftz cond x y).2)) d a b m l s

/-! ### Integer lanes -/

/-- A value saturated to w signed bits (R124). -/
def satN (w : Nat) (z : Int) : Nat :=
  truncN w (if z < -(2 ^ (w - 1) : Int) then -(2 ^ (w - 1) : Int) else if (2 ^ (w - 1) : Int) ≤ z then 2 ^ (w - 1) - 1 else z)

def execVadd (d a b m l : Nat) (s : State) : Out := vint2 (fun w x y => (x + y) % 2 ^ w) d a b m l s
def execVsub (d a b m l : Nat) (s : State) : Out := vint2 (fun w x y => (2 ^ w + x - y) % 2 ^ w) d a b m l s
def execVadds (d a b m l : Nat) (s : State) : Out := vint2 (fun w x y => satN w (sextN w x + sextN w y)) d a b m l s
def execVsubs (d a b m l : Nat) (s : State) : Out := vint2 (fun w x y => satN w (sextN w x - sextN w y)) d a b m l s
def execVmul (d a b m l : Nat) (s : State) : Out := vint2 (fun w x y => x * y % 2 ^ w) d a b m l s
def execVmulh (d a b m l : Nat) (s : State) : Out :=
  vint2 (fun w x y => truncN w (sextN w x * sextN w y / 2 ^ w)) d a b m l s

/-- VMAD (R124) adds to vd. -/
def execVmad (d a b m l : Nat) (s : State) : Out :=
  runMasked m [.vrw d, .vr a, .vr b] (do
    let w := laneWidth l
    let x ← rdV a
    let y ← rdV b
    let z ← rdV d
    wrV d (packLanes w ((List.range (laneCount l)).map fun i => laneAt w x i * laneAt w y i + laneAt w z i))
    pure .adv) s

def execVmin (d a b m l : Nat) (s : State) : Out :=
  vint2 (fun w x y => if sextN w x < sextN w y then x else y) d a b m l s
def execVmax (d a b m l : Nat) (s : State) : Out :=
  vint2 (fun w x y => if sextN w x < sextN w y then y else x) d a b m l s
def execVand (d a b m _l : Nat) (s : State) : Out := vbit2 (· &&& ·) d a b m s
def execVor (d a b m _l : Nat) (s : State) : Out := vbit2 (· ||| ·) d a b m s
def execVxor (d a b m _l : Nat) (s : State) : Out := vbit2 (· ^^^ ·) d a b m s
def execVshl (d a b m l : Nat) (s : State) : Out := vint2 (fun w x y => x * 2 ^ (y % w) % 2 ^ w) d a b m l s
def execVshr (d a b m l : Nat) (s : State) : Out := vint2 (fun w x y => x / 2 ^ (y % w)) d a b m l s
def execVsra (d a b m l : Nat) (s : State) : Out := vint2 (fun w x y => truncN w (sextN w x / 2 ^ (y % w))) d a b m l s
def execVcmpEq (d a b m l : Nat) (s : State) : Out := vint2 (fun w x y => maskLane w (x == y)) d a b m l s
def execVcmpLt (d a b m l : Nat) (s : State) : Out := vint2 (fun w x y => maskLane w (decide (sextN w x < sextN w y))) d a b m l s
def execVcmpLtu (d a b m l : Nat) (s : State) : Out := vint2 (fun w x y => maskLane w (decide (x < y))) d a b m l s
def execVcmpTst (d a b m l : Nat) (s : State) : Out := vint2 (fun w x y => maskLane w (x &&& y != 0)) d a b m l s

/-- VSEL (R125): vd is mask and destination. -/
def execVsel (d a b m _l : Nat) (s : State) : Out :=
  runMasked m [.vrw d, .vr a, .vr b] (do
    let z ← rdV d
    wrV d (((← rdV a) &&& z) ||| ((← rdV b) &&& ~~~z))
    pure .adv) s

/-- VSHUF (R129). -/
def execVshuf (d a b m l : Nat) (s : State) : Out :=
  runMasked m [.vw d, .vr a, .vr b] (do
    let w := laneWidth l
    let n := laneCount l
    let x ← rdV a
    let y ← rdV b
    wrV d (packLanes w ((List.range n).map fun i => if laneAt w y i < n then laneAt w x (laneAt w y i) else 0))
    pure .adv) s

/-- VSPLAT (R130): field va names a scalar. -/
def execVsplat (d a m l : Nat) (s : State) : Out :=
  runMasked m [.vw d, .r a] (do
    let w := laneWidth l
    let x ← rdS a
    wrV d (packLanes w (List.replicate (laneCount l) x.toNat))
    pure .adv) s

/-- VEXT (R130): field vd names a scalar. -/
def execVext (d a k m l : Nat) (s : State) : Out :=
  runMasked m [.w d, .vr a] (do
    let w := laneWidth l
    wrS d (wordOf (sextN w (laneAt w (← rdV a) k)))
    pure .adv) s

/-- VINS (R130): the other lanes of vd are unchanged. -/
def execVins (d a k m l : Nat) (s : State) : Out :=
  runMasked m [.vrw d, .r a] (do
    let w := laneWidth l
    let x ← rdS a
    let z ← rdV d
    wrV d (packLanes w ((List.range (laneCount l)).map fun i => if i = k then x.toNat else laneAt w z i))
    pure .adv) s

/-- VNZ (R131): the positions of the nonzero lanes, then n plus their count. -/
def execVnz (d a m l : Nat) (s : State) : Out :=
  runMasked m [.vw d, .vr a] (do
    let w := laneWidth l
    let n := laneCount l
    let x ← rdV a
    let nz := (List.range n).filter fun i => laneAt w x i != 0
    wrV d (packLanes w (nz ++ List.replicate (n - nz.length) (n + nz.length)))
    pure .adv) s

/-! ### Reductions (R133 to R135) -/

/-- One level of the pairwise tree: results of adjacent pairs, lower first. -/
def treeLevel {α : Type} (f : α → α → α) : List α → List α
  | x :: y :: r => f x y :: treeLevel f r
  | r => r

/-- The pairwise tree of R133 to one value. -/
def treeFold {α : Type} (f : α → α → α) (z : α) : Nat → List α → α
  | 0, xs => xs.headD z
  | n + 1, xs => treeFold f z n (treeLevel f xs)

/-- The tree over the lanes of a vector: four levels reach one value of at most 16 lanes. -/
def laneTree {α : Type} (f : α → α → α) (z : α) (xs : List α) : α := treeFold f z (Nat.log2 xs.length) xs

/-- A node of a floating-point tree: round to nearest even, with the flags of both sides (R133). -/
def addNode (g : Fmt) (ftz : Bool) (x y : Nat × Flags) : Nat × Flags :=
  let (r, fl) := fAdd g ⟨0, ftz, false, 0, 0⟩ 0 x.1 y.1
  (r, x.2 ||| y.2 ||| fl)

/-- An operand read under FTZ as a pattern of its format. -/
def ftzBits (g : Fmt) (ftz : Bool) (x : Nat) : Nat :=
  if ftz && g.isSubnormal x then g.signBit (decide (x / 2 ^ (g.ew + g.mw) % 2 = 1)) else x

/-- VRED.ADD over floating lanes (R134): FP16 and BF16 lanes in FP32, the root converted back. -/
def vredFadd (l : Nat) (ftz : Bool) (xs : List Nat) : Nat × Flags :=
  let g := laneFmt l
  if l = 4 ∨ l = 5 then
    let env : FEnv := ⟨0, ftz, false, 0, 0⟩
    let wide := xs.map fun x => (fConv g fp32 { env with ftz := false } 0 (ftzBits g ftz x))
    let r := laneTree (addNode fp32 ftz) (0, 0) wide
    let (y, fl) := fConv fp32 g env 0 r.1
    (y, r.2 ||| fl)
  else laneTree (addNode g ftz) (0, 0) (xs.map fun x => (x, 0))

/-- VRED writes its result in the lowest lane (R133). -/
def vred (d a m w n : Nat) (f : FEnv → List Nat → Nat × Flags) (s : State) : Out :=
  runMasked m [.vw d, .vr a] (do
    let v ← gets fun s => fenvOf s 7
    let (r, fl) := f v (lanes w n (← rdV a))
    raiseFlags fl
    wrV d (packLanes w [r])
    pure .adv) s

/-- An integer tree. -/
def intTree (f : Nat → Nat → Nat) (_ : FEnv) (xs : List Nat) : Nat × Flags := (laneTree f 0 xs, 0)

/-- A minimum or maximum tree over floating lanes (R134). -/
def fpMinMaxTree (l : Nat) (isMax num : Bool) (v : FEnv) (xs : List Nat) : Nat × Flags :=
  let g := laneFmt l
  laneTree (fun (x y : Nat × Flags) =>
    let (r, fl) := fMinMax g v.ftz isMax num x.1 y.1
    (r, x.2 ||| y.2 ||| fl)) (0, 0) (xs.map fun x => (x, 0))

def execVredAdd (d a m l : Nat) (s : State) : Out :=
  let w := laneWidth l
  vred d a m w (laneCount l) (fun v xs => if intLane l then intTree (fun x y => (x + y) % 2 ^ w) v xs else vredFadd l v.ftz xs) s
def execVredMin (d a m l : Nat) (s : State) : Out :=
  let w := laneWidth l
  vred d a m w (laneCount l) (fun v xs =>
    if intLane l then intTree (fun x y => if sextN w x < sextN w y then x else y) v xs else fpMinMaxTree l false false v xs) s
def execVredMax (d a m l : Nat) (s : State) : Out :=
  let w := laneWidth l
  vred d a m w (laneCount l) (fun v xs =>
    if intLane l then intTree (fun x y => if sextN w x < sextN w y then y else x) v xs else fpMinMaxTree l true false v xs) s
def execVredMinn (d a m l : Nat) (s : State) : Out := vred d a m (laneWidth l) (laneCount l) (fpMinMaxTree l false true) s
def execVredMaxn (d a m l : Nat) (s : State) : Out := vred d a m (laneWidth l) (laneCount l) (fpMinMaxTree l true true) s
def execVredMinu (d a m l : Nat) (s : State) : Out := vred d a m (laneWidth l) (laneCount l) (intTree min) s
def execVredMaxu (d a m l : Nat) (s : State) : Out := vred d a m (laneWidth l) (laneCount l) (intTree max) s

/-- The exact sum of two products, rounded once (R135). -/
def dotPair (g acc : Fmt) (ftz : Bool) (x : Nat × Nat) (y : Nat × Nat) : Nat × Flags :=
  let rd (z : Nat) : FVal := g.readFtz ftz z
  let p := mulVal (rd x.1) (rd x.2)
  let q := mulVal (rd y.1) (rd y.2)
  let val : FRes → FVal × Flags
    | .nan fl => (.nan false, fl)
    | .inf n fl => (.inf n, fl)
    | .val e => (.fin e.neg e.m e.e, 0)
  let (r, fl) := finishRes acc ⟨0, ftz, false, 0, 0⟩ 0 (addVal 0 (val p).1 (val q).1)
  (r, fl ||| (val p).2 ||| (val q).2)

/-- Adjacent pairs of a list. -/
def pairUp {α β : Type} (f : α → α → β) : List α → List β
  | x :: y :: r => f x y :: pairUp f r
  | _ => []

/-- VDOT (R135): the accumulation type's result in its lowest lane, the rest zero. -/
def execVdot (d a b m l : Nat) (s : State) : Out :=
  runMasked m [.vw d, .vr a, .vr b] (do
    let v ← gets fun s => fenvOf s 7
    let w := laneWidth l
    let n := laneCount l
    let xs := List.zip (lanes w n (← rdV a)) (lanes w n (← rdV b))
    if intLane l then
      let t := xs.foldl (fun (z : Int) p => z + sextN w p.1 * sextN w p.2) 0
      wrV d (packLanes (if l = 0 then 32 else 64) [truncN (if l = 0 then 32 else 64) t])
    else
      let acc := if l = 7 then fp64 else fp32
      let r := laneTree (addNode acc v.ftz) (0, 0) (pairUp (dotPair (laneFmt l) acc v.ftz) xs)
      raiseFlags r.2
      wrV d (packLanes acc.width [r.1])
    pure .adv) s

/-- VCVT (R132). -/
def execVcvt (d a f r m t : Nat) (s : State) : Out :=
  runMasked m [.vw d, .vr a] (do
    let v ← gets fun s => fenvOf s r
    let fr := vcvtType f
    let dst := vcvtType t
    let n := min (128 / fr.bits) (128 / dst.bits)
    let x ← rdV a
    finishLanes dst.bits d ((List.range n).map fun j => convert fr dst v (v.draw 0 j) (laneAt fr.bits x j))
    bumpSeed v
    pure .adv) s

/-! ### Floating-point lanes -/

def execVfadd (d a b m l : Nat) (s : State) : Out := vfp2 true fAdd d a b m l s
def execVfsub (d a b m l : Nat) (s : State) : Out := vfp2 true fSub d a b m l s
def execVfmul (d a b m l : Nat) (s : State) : Out := vfp2 true fMul d a b m l s

/-- VFMA (R128) adds to vd. -/
def execVfma (d a b m l : Nat) (s : State) : Out :=
  runMasked m [.vrw d, .vr a, .vr b] (do
    let v ← gets fun s => fenvOf s 7
    let w := laneWidth l
    let g := laneFmt l
    let x ← rdV a
    let y ← rdV b
    let z ← rdV d
    finishLanes w d ((List.range (laneCount l)).map fun i =>
      fFma g v false (v.draw 0 i) (laneAt w x i) (laneAt w y i) (laneAt w z i))
    bumpSeed v
    pure .adv) s

def execVfmin (d a b m l : Nat) (s : State) : Out := vfp2 false (fun g v _ x y => fMinMax g v.ftz false false x y) d a b m l s
def execVfmax (d a b m l : Nat) (s : State) : Out := vfp2 false (fun g v _ x y => fMinMax g v.ftz true false x y) d a b m l s
def execVfminn (d a b m l : Nat) (s : State) : Out := vfp2 false (fun g v _ x y => fMinMax g v.ftz false true x y) d a b m l s
def execVfmaxn (d a b m l : Nat) (s : State) : Out := vfp2 false (fun g v _ x y => fMinMax g v.ftz true true x y) d a b m l s
def execVfcmpEq (d a b m l : Nat) (s : State) : Out := vfcmp 0 d a b m l s
def execVfcmpLt (d a b m l : Nat) (s : State) : Out := vfcmp 2 d a b m l s
def execVfcmpLe (d a b m l : Nat) (s : State) : Out := vfcmp 3 d a b m l s
def execVfcmpUn (d a b m l : Nat) (s : State) : Out := vfcmp 6 d a b m l s

end Sys2Proof.Machine
end

