-- ==== Sys2Proof/Machine/Captured.lean ====
section
/-! DEFINITION. Which instructions a repeat frame may capture (02_encoding.md R41) and which take an extension prefix (R31,
R39), with the meaning of each. -/

namespace Sys2Proof.Machine

/-- The meaning of a word a frame may capture (R41); none for every other. -/
def capturedRun (i : Instr) (s : State) : Option Out :=
  match i with
  | .add d a b => some (execAdd d a b s)
  | .sub d a b => some (execSub d a b s)
  | .and d a b => some (execAnd d a b s)
  | .or d a b => some (execOr d a b s)
  | .xor d a b => some (execXor d a b s)
  | .andn d a b => some (execAndn d a b s)
  | .min d a b => some (execMin d a b s)
  | .max d a b => some (execMax d a b s)
  | .minu d a b => some (execMinu d a b s)
  | .maxu d a b => some (execMaxu d a b s)
  | .shl d a b => some (execShl d a b s)
  | .shr d a b => some (execShr d a b s)
  | .sra d a b => some (execSra d a b s)
  | .rotr d a b => some (execRotr d a b s)
  | .mul d a b => some (execMul d a b s)
  | .mulh d a b => some (execMulh d a b s)
  | .mulhu d a b => some (execMulhu d a b s)
  | .div d a b => some (execDiv d a b s)
  | .divu d a b => some (execDivu d a b s)
  | .rem d a b => some (execRem d a b s)
  | .remu d a b => some (execRemu d a b s)
  | .clz d a => some (execClz d a s)
  | .ctz d a => some (execCtz d a s)
  | .popc d a => some (execPopc d a s)
  | .sel d a b q => some (execSel d a b q s)
  | .padd d a b => some (execPadd d a b s)
  | .bfx d a b => some (execBfx d a b s)
  | .bfi d a b => some (execBfi d a b s)
  | .addi d a imm => some (execAddi d a imm s)
  | .andi d a imm => some (execAndi d a imm s)
  | .ori d a imm => some (execOri d a imm s)
  | .xori d a imm => some (execXori d a imm s)
  | .shli d a imm => some (execShli d a imm s)
  | .shri d a imm => some (execShri d a imm s)
  | .srai d a imm => some (execSrai d a imm s)
  | .lih d a imm => some (execLih d a imm s)
  | .ptag d a t => some (execPtag d a t s)
  | .fadd t d a b => some (execFadd t d a b s)
  | .fsub t d a b => some (execFsub t d a b s)
  | .fmul t d a b => some (execFmul t d a b s)
  | .fdiv t d a b => some (execFdiv t d a b s)
  | .fmin t d a b => some (execFmin t d a b s)
  | .fmax t d a b => some (execFmax t d a b s)
  | .fminn t d a b => some (execFminn t d a b s)
  | .fmaxn t d a b => some (execFmaxn t d a b s)
  | .fma t d a b => some (execFma t d a b s)
  | .fnma t d a b => some (execFnma t d a b s)
  | .fsqrt t d a => some (execFsqrt t d a s)
  | .fclass t d a => some (execFclass t d a s)
  | .fcvt d a t f r => some (execFcvt d a t f r s)
  | .vadd d a b m l => some (execVadd d a b m l s)
  | .vsub d a b m l => some (execVsub d a b m l s)
  | .vadds d a b m l => some (execVadds d a b m l s)
  | .vsubs d a b m l => some (execVsubs d a b m l s)
  | .vmul d a b m l => some (execVmul d a b m l s)
  | .vmulh d a b m l => some (execVmulh d a b m l s)
  | .vmad d a b m l => some (execVmad d a b m l s)
  | .vmin d a b m l => some (execVmin d a b m l s)
  | .vmax d a b m l => some (execVmax d a b m l s)
  | .vand d a b m l => some (execVand d a b m l s)
  | .vor d a b m l => some (execVor d a b m l s)
  | .vxor d a b m l => some (execVxor d a b m l s)
  | .vshl d a b m l => some (execVshl d a b m l s)
  | .vshr d a b m l => some (execVshr d a b m l s)
  | .vsra d a b m l => some (execVsra d a b m l s)
  | .vcmpEq d a b m l => some (execVcmpEq d a b m l s)
  | .vcmpLt d a b m l => some (execVcmpLt d a b m l s)
  | .vcmpLtu d a b m l => some (execVcmpLtu d a b m l s)
  | .vcmpTst d a b m l => some (execVcmpTst d a b m l s)
  | .vsel d a b m l => some (execVsel d a b m l s)
  | .vshuf d a b m l => some (execVshuf d a b m l s)
  | .vsplat d a m l => some (execVsplat d a m l s)
  | .vext d a k m l => some (execVext d a k m l s)
  | .vins d a k m l => some (execVins d a k m l s)
  | .vnz d a m l => some (execVnz d a m l s)
  | .vredAdd d a m l => some (execVredAdd d a m l s)
  | .vredMin d a m l => some (execVredMin d a m l s)
  | .vredMax d a m l => some (execVredMax d a m l s)
  | .vredMinn d a m l => some (execVredMinn d a m l s)
  | .vredMaxn d a m l => some (execVredMaxn d a m l s)
  | .vredMinu d a m l => some (execVredMinu d a m l s)
  | .vredMaxu d a m l => some (execVredMaxu d a m l s)
  | .vdot d a b m l => some (execVdot d a b m l s)
  | .vcvt d a f r m t => some (execVcvt d a f r m t s)
  | .vfadd d a b m l => some (execVfadd d a b m l s)
  | .vfsub d a b m l => some (execVfsub d a b m l s)
  | .vfmul d a b m l => some (execVfmul d a b m l s)
  | .vfma d a b m l => some (execVfma d a b m l s)
  | .vfmin d a b m l => some (execVfmin d a b m l s)
  | .vfmax d a b m l => some (execVfmax d a b m l s)
  | .vfminn d a b m l => some (execVfminn d a b m l s)
  | .vfmaxn d a b m l => some (execVfmaxn d a b m l s)
  | .vfcmpEq d a b m l => some (execVfcmpEq d a b m l s)
  | .vfcmpLt d a b m l => some (execVfcmpLt d a b m l s)
  | .vfcmpLe d a b m l => some (execVfcmpLe d a b m l s)
  | .vfcmpUn d a b m l => some (execVfcmpUn d a b m l s)
  | _ => none

/-- An immediate of ten bits widened by a prefix (R38). -/
def wide34 (h : Nat) (i : Int) : Int := sext 34 ((h * 1024 + ofSigned 10 i) % 2 ^ 34)

/-- An immediate of seven bits widened by a prefix (R38). -/
def wide31 (h : Nat) (i : Int) : Int := sext 31 ((h * 128 + ofSigned 7 i) % 2 ^ 31)

/-- The meaning of the second word of a pair under the prefix `h` (R38, R39); none where no prefix may stand. -/
def prefixedRun (h : Nat) (i : Instr) (s : State) : Option Out :=
  match i with
  | .cmpiEq q a imm => some (execCmpiEq q a (wide31 h imm) s)
  | .cmpiNe q a imm => some (execCmpiNe q a (wide31 h imm) s)
  | .cmpiLt q a imm => some (execCmpiLt q a (wide31 h imm) s)
  | .cmpiGe q a imm => some (execCmpiGe q a (wide31 h imm) s)
  | .cmpiLtu q a imm => some (execCmpiLtu q a (wide31 h imm) s)
  | .cmpiGeu q a imm => some (execCmpiGeu q a (wide31 h imm) s)
  | .cmpiTst q a imm => some (execCmpiTst q a (wide31 h imm) s)
  | .addi d a imm => some (execAddi d a (wide34 h imm) s)
  | .andi d a imm => some (execAndi d a (wide34 h imm) s)
  | .ori d a imm => some (execOri d a (wide34 h imm) s)
  | .xori d a imm => some (execXori d a (wide34 h imm) s)
  | .lih d a imm => some (execLih d a (wide34 h imm) s)
  | .jalr d a imm => some (execJalr d a (wide34 h imm) s)
  | .ldB d a imm => some (execLdB d a (wide34 h imm) s)
  | .ldBu d a imm => some (execLdBu d a (wide34 h imm) s)
  | .ldH d a imm => some (execLdH d a (wide34 h imm) s)
  | .ldHu d a imm => some (execLdHu d a (wide34 h imm) s)
  | .ldW d a imm => some (execLdW d a (wide34 h imm) s)
  | .ldWu d a imm => some (execLdWu d a (wide34 h imm) s)
  | .ldD d a imm => some (execLdD d a (wide34 h imm) s)
  | .stB d a imm => some (execStB d a (wide34 h imm) s)
  | .stH d a imm => some (execStH d a (wide34 h imm) s)
  | .stW d a imm => some (execStW d a (wide34 h imm) s)
  | .stD d a imm => some (execStD d a (wide34 h imm) s)
  | .ldv d a imm => some (execLdv d a (wide34 h imm) s)
  | .stv d a imm => some (execStv d a (wide34 h imm) s)
  | .lda d a imm => some (execLda d a (wide34 h imm) s)
  | .stl d a imm => some (execStl d a (wide34 h imm) s)
  | .ldc d a imm => some (execLdc d a (wide34 h imm) s)
  | .lds d a imm => some (execLds d a (wide34 h imm) s)
  | .sts d a imm => some (execSts d a (wide34 h imm) s)
  | .pref a imm => some (execPref a (wide34 h imm) s)
  | .ldf d a imm => some (execLdf d a (wide34 h imm) s)
  | .ldfe d a imm => some (execLdfe d a (wide34 h imm) s)
  | .stf d a imm => some (execStf d a (wide34 h imm) s)
  | .sto d a imm => some (execSto d a (wide34 h imm) s)
  | .fest d a imm => some (execFest d a (wide34 h imm) s)
  | _ => none

end Sys2Proof.Machine
end

