-- ==== Sys2Proof/Machine/Control.lean ====
section
/-! DEFINITION. Instruction fetch (02_encoding.md R25), the extension prefix (R38, R39) and the repeat frame (R40 to
R43). -/

namespace Sys2Proof.Machine

/-- A stop of a fetch names the PC's 64-bit address (R25), the tag that translation ignores with it. -/
def Stop.tagged (tag : Word) : Stop → Stop
  | .trap t => .trap { t with tval := tag ||| t.tval }
  | .page va acc h => .page (tag.toNat + va) acc h
  | e => e

/-- The keys of the word at an untagged address. -/
def fetchKeys (va : Nat) : Act (List Nat) := do
  let keys ← transBytes .fetch va 4
  let s ← get
  trapIf (keys.any s.poisoned) cPOISON (wordN va)
  pure keys

/-- The word at a key as the executing agent's fetch reads it now: of a thread, from its spur's instruction buffer where it holds the
word, else from memory and kept there (R363). -/
def readWord (keys : List Nat) : Act Nat := do
  let s ← get
  let k := keys.headD 0
  let w := leNat (memGets s.mem keys)
  if isSlot s.cur then
    let p := s.spur s.mySpurKey
    match p.ibuf.find? fun x => x.1 == k with
    | some x => pure x.2
    | none =>
      set (s.setSpur s.mySpurKey { p with ibuf := p.ibuf ++ [(k, w)] })
      pure w
  else pure w

/-- The word at an untagged address: the next of those fetched ahead, which another address discards (R363), else as a fetch reads
it. -/
def fetchAt (va : Nat) : Act Nat := do
  let keys ← fetchKeys va
  let s ← get
  match s.me.ahead with
  | [] => readWord keys
  | x :: xs =>
    if keys.headD 0 = x.1 then
      set (s.setMe { s.me with ahead := xs })
      pure x.2
    else
      set (s.setMe { s.me with ahead := [] })
      readWord keys

/-- Fetches the instruction word at an address: PC[55:0] is translated (R25), a poisoned word traps POISON (R375). -/
def fetchWord (pc : Word) : Act Nat := fun s =>
  match (fetchAt (vaOf pc)).run s with
  | .ok r => .ok r
  | .error e => .error (e.tagged (pc &&& 0xFF00000000000000))

/-- An instruction that goes on with another word: the fetch and what the word asks for, or the trap. -/
def runFetched (body : Act (State → Out)) (s : State) : Out :=
  match body.run s with
  | .ok (f, t) => f t
  | .error e => .next (settle s (.error e))

/-- XIMM (R38, R39): the pair is one instruction; a misused prefix traps ILLOP with the second word. -/
def execXimm (h : Nat) (s : State) : Out :=
  runFetched (do
    let w ← fetchWord (s.ctx.pc + 4)
    mods fun s => { s with iw := w, mode := .prefixed }
    let bad : State → Out := fun s => .next (takeTrap s ⟨cILLOP, wordN w⟩)
    match decodeLowWord w with
    | .error _ => pure bad
    | .ok i => pure fun s => (prefixedRun h i s).getD (bad s)) s

/-! ### The repeat frame -/

/-- Majors whose fields a, b name scalar registers and, with d, step: format A and I majors of R41. The flag says
whether field b names a register. -/
def strideScalar (w : Nat) : Option Bool :=
  let m := bits w 31 24
  if m = 0x04 ∨ (0x10 ≤ m ∧ m ≤ 0x18) ∨ m = 0x4C then some false
  else if m = 0x01 ∨ m = 0x02 ∨ m = 0x03 ∨ m = 0x05 ∨ m = 0x06 ∨ m = 0x0A ∨ (0x40 ≤ m ∧ m ≤ 0x43) then some true
  else if 0x44 ≤ m ∧ m ≤ 0x47 then some (decide (bits w 2 0 < 2))
  else none

/-- A register number moved within its class of R26: s0 to s95, or g0 to g31. -/
def strideS (x k : Nat) : Option Nat :=
  let y := x + k
  if (if x < 96 then decide (y < 96) else decide (y < 128)) then some y else none

/-- A vector number moved within its class of R28: v0 to v47, or vg0 to vg15. -/
def strideV (x k : Nat) : Option Nat :=
  let y := x + k
  if (if x < 48 then decide (y < 48) else decide (y < 64)) then some y else none

/-- A scalar named in a six-bit field of format V: s0 to s63 (R47). -/
def strideS6 (x k : Nat) : Option Nat := if x + k < 64 then some (x + k) else none

/-- A word with its register fields moved by the strides of a pass (R40); none where a sum leaves its class. -/
def strideWord (w kd ka kb : Nat) : Option Nat := do
  match strideScalar w with
  | some hasB =>
    let d := bits w 23 17
    let a := bits w 16 10
    let b := bits w 9 3
    let d' ← strideS d kd
    let a' ← strideS a ka
    let b' ← if hasB then strideS b kb else some b
    pure (w - d * 2 ^ 17 - a * 2 ^ 10 - b * 2 ^ 3 + d' * 2 ^ 17 + a' * 2 ^ 10 + b' * 2 ^ 3)
  | none =>
    let m := bits w 31 24
    let d := bits w 23 18
    let a := bits w 17 12
    let b := bits w 11 6
    let d' ← if m = 0x76 then strideS6 d kd else strideV d kd
    let a' ← if m = 0x75 ∨ m = 0x77 then strideS6 a ka else strideV a ka
    let b' ← if (0x75 ≤ m ∧ m ≤ 0x79) ∨ m = 0x7B then some b else strideV b kb
    pure (w - d * 2 ^ 18 - a * 2 ^ 12 - b * 2 ^ 6 + d' * 2 ^ 18 + a' * 2 ^ 12 + b' * 2 ^ 6)

/-- A major that a frame may capture (R41). -/
def capturable (w : Nat) : Bool :=
  let m := bits w 31 24
  decide (1 ≤ m ∧ m ≤ 6) || m == 0x0A || decide (0x10 ≤ m ∧ m ≤ 0x18) || decide (0x40 ≤ m ∧ m ≤ 0x47) || m == 0x4C ||
    decide (0x60 ≤ m ∧ m ≤ 0x7B) || decide (0x80 ≤ m ∧ m ≤ 0x8B)

/-- FRAME (R40 to R42): one captured instruction a step, the PC at the frame word; `l` is len - 1, `i` is iter - 1. A first entry
fetches every captured word for its check, so a PAGE, PROT or POISON of any of them is taken before one has run and with FRM not
yet set: the spec sets FRM first and fetches word by word (DESIGN CHOICE, log 24). -/
def execFrame (l i d a b : Nat) (s : State) : Out :=
  runFetched (do
    let len := l + 1
    let iter := i + 1
    let fw := wordN s.iw
    let p := s.ctx.pc
    let at' (n : Nat) : Word := p + 4 + wordN (4 * n)
    if s.ctx.inFrame then
      trapIf (decide (iter ≤ frmPass s.ctx.frm ∨ len ≤ frmIdx s.ctx.frm)) cILLOP fw
    else
      let ws ← (List.range len).mapM fun n => fetchWord (at' n)
      trapIf (ws.any fun w => !capturable w) cILLOP fw
      mods fun s => s.setCtx { s.ctx with frm := frmOf 0 0, inFrame := true }
    let s ← get
    let pass := frmPass s.ctx.frm
    let w ← fetchWord (at' (frmIdx s.ctx.frm))
    let bad (x : Nat) : State → Out := fun s => .next (takeTrap s ⟨cILLOP, wordN x⟩)
    set { s with iw := w, mode := .captured len iter }
    if !capturable w then pure (bad s.iw)
    else
      match strideWord w (pass * d) (pass * a) (pass * b) with
      | none => pure (bad w)
      | some w' =>
        match decodeLowWord w' with
        | .error _ => pure (bad w)
        | .ok i => pure fun s => (capturedRun i s).getD (bad w s)) s

end Sys2Proof.Machine
end

