-- ==== Sys2Proof/Machine/Tile.lean ====
section
/-! DEFINITION. Tiles, accumulators and the matrix instructions that are not gang operations (05_matrix.md R137 to R142,
R153, R157 to R166). -/

namespace Sys2Proof.Machine

/-- A tile's shape (R137). -/
structure Shape where
  fmt : Nat
  cols : Nat
  rows : Nat
  base : Nat
  blg : Nat
  deriving DecidableEq, Repr

/-- The fields of a KSH register. -/
def shapeOf (w : Word) : Shape :=
  let n := w.toNat
  ⟨n % 16, n / 2 ^ 4 % 2 ^ 12, n / 2 ^ 16 % 2 ^ 8, n / 2 ^ 24 % 2 ^ 12, n / 2 ^ 36 % 2 ^ 4⟩

/-- Bytes of n elements of a format. -/
def fmtBytes (f n : Nat) : Nat := n * elemBits f / 8

/-- E, the element footprint (R138). -/
def Shape.eBytes (t : Shape) : Nat := fmtBytes t.fmt (t.rows * t.cols)

/-- S, the scale footprint (R138). -/
def Shape.sBytes (t : Shape) : Nat := if blocked t.fmt then t.rows * t.cols / 2 ^ t.blg else 0

/-- First byte of the tile in TIL. -/
def Shape.start (t : Shape) : Nat := t.base * 256

/-- Bytes of the tile. -/
def Shape.size (t : Shape) : Nat := t.eBytes + t.sBytes

/-- A valid KSH value (R138). -/
def shapeValid (w : Word) : Bool :=
  let t := shapeOf w
  w == 0 ||
  (fmtOk t.fmt t.blg && decide (1 ≤ t.rows ∧ t.rows ≤ 128 ∧ 1 ≤ t.cols ∧ t.cols ≤ 2048) &&
    (!blocked t.fmt || decide (t.cols % 2 ^ t.blg = 0)) && (elemBits t.fmt != 4 || decide (t.cols % 2 = 0)) &&
    decide (t.start + t.size ≤ 1048576))

/-- The writable bits of a KSH register (R137). -/
def kshMask (w : Word) : Word := wordN (w.toNat % 2 ^ 40)

/-- A KSH register of the executing thread. -/
def rdKsh (n : Nat) : Act Word := gets fun s => tabGet s.ctx.ksh n 0

/-- A KSH register written, or ILLFMT with the would-be value (R138): the value with its reserved bits [63:40] cleared; that TVAL
does not hold what they were is the model's choice (DESIGN CHOICE, log 24). -/
def wrKsh (n : Nat) (w : Word) : Act Unit := do
  let v := kshMask w
  trapIf (!shapeValid v) cILLFMT v
  mods fun s => s.setCtx { s.ctx with ksh := tabSet s.ctx.ksh n v }

/-- A tile by its number: unshaped traps ILLFMT with a given TVAL. -/
def shaped (n tval : Nat) : Act Shape := do
  let w ← rdKsh n
  let t := shapeOf w
  trapIf (decide (t.fmt = 0)) cILLFMT (wordN tval)
  pure t

/-- POOLREF at the first byte of a range at or past the end of a role (R140). -/
def roleCheck (r : Role) (o n : Nat) : Act Unit := do
  let p ← gets fun s => s.spur s.mySpurKey
  trapIf (decide (p.size r < o + n) && decide (0 < n)) cPOOLREF (poolTval r (max (p.size r) o))

/-- The tile within TIL (R140). -/
def tileCheck (t : Shape) : Act Unit := roleCheck .til t.start t.size

/-- Byte of element (i, k) (R139). -/
def Shape.elemOff (t : Shape) (i k : Nat) : Nat := t.start + (i * t.cols + k) * elemBits t.fmt / 8

/-- Byte of the scale of the block of element (i, k) (R139). -/
def Shape.scaleOff (t : Shape) (i k : Nat) : Nat := t.start + t.eBytes + i * (t.cols / 2 ^ t.blg) + k / 2 ^ t.blg

/-- The bits of element (i, k) of a tile in a spur's pool. -/
def Spur.elem (p : Spur) (t : Shape) (i k : Nat) : Nat :=
  let x := leNat (p.rd .til (t.elemOff i k) (elemBytes t.fmt))
  if elemBits t.fmt = 4 then x / 16 ^ (k % 2) % 16 else x

/-- The scale byte of element (i, k). -/
def Spur.scale (p : Spur) (t : Shape) (i k : Nat) : Nat := leNat (p.rd .til (t.scaleOff i k) 1)

/-- The bytes of a row of elements, lowest column first (R139). -/
def rowBytes (f : Nat) (xs : List Nat) : List Byte :=
  if elemBits f = 4 then leBytes ((xs.length + 1) / 2) (packNat 4 xs)
  else xs.flatMap fun x => leBytes (elemBytes f) x

/-- Writes bytes of TIL as one pool step. -/
def writeTil (o : Nat) (bs : List Byte) : Act Unit := do
  let k ← gets State.mySpurKey
  poolWrite k .til o bs

/-- n unspecified bytes written into a role of the executing thread's spur. -/
def freePool (r : Role) (o n : Nat) : Act Unit := do
  let k ← gets State.mySpurKey
  poolWrite k r o (← freeBytes n)

/-- An operation that reads a poisoned byte of TIL or ACC traps POISON, and the bytes it would write are unspecified (R166). -/
def poolPoison (r : Role) (o : Nat) (spoil : Act Unit) : Act Fin := do
  spoil
  mods fun s => takeTrap s ⟨cPOISON, poolTval r o⟩
  pure .hold

/-- Reads ranges of a role as one pool step and goes on with their bytes; a poisoned one ends the operation (R166). -/
def readOr (r : Role) (os : List (Nat × Nat)) (spoil : Act Unit) (go : List (List Byte) → Act Fin) : Act Fin := do
  let k ← gets State.mySpurKey
  let p ← gets fun s => s.spur k
  if os.any fun x => p.claimed r x.1 x.2 then throw .stall
  match os.findSome? fun x => p.poisonAt r x.1 x.2 with
  | some o => poolPoison r o spoil
  | none => go (os.map fun x => p.rd r x.1 x.2)

/-- Every page of some ranges of memory is translated before a byte is read or written (R221). -/
def pagesFirst (nd : Need) (rs : List (Nat × Nat)) : Act Unit := do
  for (va, n) in rs do
    let _ ← transBytes nd va n

/-! ### KSHAPE, KZERO, KMOV, KTR (R158, R161, R162) -/

def execKshape (d x : Nat) (s : State) : Out :=
  runInstr .t [.r x] (do
    wrKsh d (← rdS x)
    pure .adv) s

/-- The canonical zero of a format (R161). -/
def zeroElem (f : Nat) : Nat := if f = 9 then 0x88 else 0

def execKzero (d : Nat) (s : State) : Out :=
  runInstr .t [] (do
    let t := shapeOf (← rdKsh d)
    tileCheck t
    let row := rowBytes t.fmt (List.replicate (t.rows * t.cols) (zeroElem t.fmt))
    writeTil t.start (row ++ List.replicate t.sBytes 0x7F#8)
    pure .adv) s

/-- KMOV (R162). Of two tiles beyond the role the source traps first (DESIGN CHOICE, log 24). -/
def execKmov (d a : Nat) (s : State) : Out :=
  runInstr .t [] (do
    let t := shapeOf (← rdKsh d)
    let u := shapeOf (← rdKsh a)
    trapIf (decide (t.fmt ≠ u.fmt ∨ t.rows ≠ u.rows ∨ t.cols ≠ u.cols ∨ t.blg ≠ u.blg)) cILLFMT (wordN d)
    tileCheck u
    tileCheck t
    readOr .til [(u.start, u.size)] (freePool .til t.start t.size) fun bs => do
      writeTil t.start bs.flatten
      pure .adv) s

/-- KTR (R162). Of two tiles beyond the role the source traps first (DESIGN CHOICE, log 24). -/
def execKtr (d a : Nat) (s : State) : Out :=
  runInstr .t [] (do
    let t := shapeOf (← rdKsh d)
    let u := shapeOf (← rdKsh a)
    trapIf (decide (t.fmt ≠ u.fmt ∨ t.rows ≠ u.cols ∨ t.cols ≠ u.rows) || blocked t.fmt) cILLFMT (wordN d)
    tileCheck u
    tileCheck t
    readOr .til [(u.start, u.size)] (freePool .til t.start t.size) fun _ => do
      let p ← gets fun s => s.spur s.mySpurKey
      let xs := (List.range t.rows).flatMap fun k => (List.range t.cols).map fun i => p.elem u i k
      writeTil t.start (rowBytes t.fmt xs)
      pure .adv) s

/-! ### KLD, KST, KLDT (R159, R160) -/

/-- The alignment of a format in memory (R159). -/
def fmtAlign (f : Nat) : Nat := max 1 (elemBits f / 8)

/-- Row i of a base address and a signed stride. -/
def rowVa (base stride : Word) (i : Nat) : Nat := (((vaOf base : Nat) : Int) + (i : Int) * stride.toInt) % 2 ^ 56 |>.toNat

/-- Bytes of a row of elements, and of its scales. -/
def Shape.rowBytesN (t : Shape) : Nat := fmtBytes t.fmt t.cols
def Shape.rowScales (t : Shape) : Nat := if blocked t.fmt then t.cols / 2 ^ t.blg else 0

/-- The rows of a tile in memory, and of its scales: first bytes and lengths (R159). -/
def Shape.memRows (t : Shape) (va st sa ss : Word) : List (Nat × Nat) × List (Nat × Nat) :=
  ((List.range t.rows).map fun i => (rowVa va st i, t.rowBytesN),
   if blocked t.fmt then (List.range t.rows).map fun i => (rowVa sa ss i, t.rowScales) else [])

/-- The scale address and stride of a group, zero for a format without blocks. -/
def scaleArgs (t : Shape) (x : Nat) : Act (Word × Word) := do
  if blocked t.fmt then pure (← rdS (x + 2), ← rdS (x + 3)) else pure (0, 0)

/-- KLD: raw rows from memory, then their scales (R159). -/
def execKld (d x : Nat) (s : State) : Out :=
  let t0 := shapeOf (tabGet s.ctx.ksh d 0)
  runInstr .t [.grp x (if blocked t0.fmt then 4 else 2)] (do
    let t ← shaped d d
    tileCheck t
    let a ← rdS x
    let st ← rdS (x + 1)
    trapIf (decide (a.toNat % fmtAlign t.fmt ≠ 0 ∨ st.toNat % fmtAlign t.fmt ≠ 0)) cALIGN a
    let (sa, ss) ← scaleArgs t x
    let (els, scs) := t.memRows a st sa ss
    pagesFirst .read (els ++ scs)
    let bs ← (els ++ scs).mapM fun r => readMem .read r.1 r.2
    writeTil t.start bs.flatten
    pure .adv) s

/-- KST: raw rows to memory, then their scales (R159). -/
def execKst (a x : Nat) (s : State) : Out :=
  let t0 := shapeOf (tabGet s.ctx.ksh a 0)
  runInstr .t [.grp x (if blocked t0.fmt then 4 else 2)] (do
    let t ← shaped a a
    tileCheck t
    let va ← rdS x
    let st ← rdS (x + 1)
    trapIf (decide (va.toNat % fmtAlign t.fmt ≠ 0 ∨ st.toNat % fmtAlign t.fmt ≠ 0)) cALIGN va
    let (sa, ss) ← scaleArgs t x
    let (els, scs) := t.memRows va st sa ss
    let rs := els ++ scs
    pagesFirst .write rs
    let put (xs : List (List Byte)) : Act Unit := do
      for (r, bs) in rs.zip xs do storeMem r.1 bs
    let junk : Act Unit := do put (← rs.mapM fun r => freeBytes r.2)
    readOr .til [(t.start, t.size)] junk fun bs => do
      let bs := bs.flatten
      put (((List.range t.rows).map fun i => (bs.drop (i * t.rowBytesN)).take t.rowBytesN) ++
        ((List.range t.rows).map fun i => (bs.drop (t.eBytes + i * t.rowScales)).take t.rowScales))
      pure .adv) s

/-- A pointer moved by row i of a stride, its tag kept (R160). -/
def rowPtr (p stride : Word) (i : Nat) : Word :=
  wordN (p.toNat / 2 ^ 56 * 2 ^ 56 + rowVa p stride i)

/-- KLDT (R160). -/
def execKldt (d x : Nat) (s : State) : Out :=
  runInstr .t [.grp x 4] (do
    let p ← rdS x
    let st ← rdS (x + 1)
    let q ← rdS (x + 2)
    let qs ← rdS (x + 3)
    let t := shapeOf (← rdKsh d)
    trapIf (!fmtOk (ptrFmt p) (ptrBlg p)) cILLFMT p
    let same := decide (ptrFmt p = t.fmt ∧ ptrBlg p = t.blg)
    let conv := decide (t.fmt = 1 ∨ t.fmt = 2 ∨ t.fmt = 3 ∨ t.fmt = 12)
    trapIf (!same && !conv) cILLFMT p
    tileCheck t
    let al := fmtAlign (ptrFmt p)
    trapIf (decide (p.toNat % 2 ^ 56 % al ≠ 0 ∨ st.toNat % al ≠ 0)) cALIGN p
    let rows := List.range t.rows
    let pages : Act Unit := for i in rows do typedPages (rowPtr p st i) (rowPtr q qs i) .read (List.range t.cols)
    if same then
      if blocked t.fmt then
        for i in rows do
          let r := rowPtr p st i
          trapIf (decide (typedIndex r 0 % 2 ^ t.blg ≠ 0)) cALIGN r
      pages
      let els ← rows.mapM fun i => do
        let r := rowPtr p st i
        (List.range t.cols).mapM fun j => do
          pure (nibble r j (leNat (← readMem .read (typedAddr r j % 2 ^ 56) (elemBytes t.fmt))))
      let scs ← rows.mapM fun i => do
        if blocked t.fmt then
          (List.range t.rowScales).mapM fun b => do
            pure (leNat (← readMem .read (typedScale (rowPtr p st i) (rowPtr q qs i) (b * 2 ^ t.blg)) 1))
        else pure []
      writeTil t.start (rowBytes t.fmt els.flatten ++ scs.flatten.map (BitVec.ofNat 8))
    else
      pages
      let g := (elemFmt t.fmt).getD fp32
      let v ← gets fun s => { fenvOf s 7 with rm := 0 }
      let rs ← rows.mapM fun i => (List.range t.cols).mapM fun j => do
        pure (convVal g v 0 (← typedRead (rowPtr p st i) (rowPtr q qs i) j))
      let rs := rs.flatten
      writeTil t.start (rowBytes t.fmt (rs.map Prod.fst))
      orFlags (rs.foldl (fun a r => a ||| r.2) 0)
    pure .adv) s

/-! ### Accumulators (R141, R142, R163 to R165) -/

/-- Bytes of an accumulator element of a type AT (R141). -/
def atSize (t : Nat) : Nat := if t = 1 then 8 else 4

/-- Columns of an accumulator of a type AT. -/
def atCols (t : Nat) : Nat := if t = 1 then 64 else 128

/-- The fields of a window word (R142). -/
def winRow (w : Word) : Nat := w.toNat % 128
def winCol (w : Word) : Nat := w.toNat / 2 ^ 8 % 128
def winKlo (w : Word) : Nat := w.toNat / 2 ^ 16 % 2 ^ 12
def winKhi (w : Word) : Nat := w.toNat / 2 ^ 32 % 2 ^ 12
def winRows (w : Word) : Nat := w.toNat / 2 ^ 44 % 256
def winCols (w : Word) : Nat := w.toNat / 2 ^ 52 % 256

/-- Byte of element (row, col) of accumulator n (R141). -/
def accOff (n t row col : Nat) : Nat := n * 65536 + row * 512 + col * atSize t

/-- A window of m rows and k columns from its word lies in the accumulator, and in the ACC role (R142, R140). -/
def winCheck (n t : Nat) (w : Word) (m k : Nat) : Act Unit := do
  let r0 := winRow w
  let c0 := winCol w
  let past (row col : Nat) : Act Unit := trap cPOOLREF (wordN (5 * 2 ^ 60 + accOff n t row col))
  if atCols t < c0 + k ∧ 0 < k ∧ 0 < m then past r0 (max c0 (atCols t))
  if 128 < r0 + m ∧ 0 < k ∧ 0 < m then past 128 c0
  let size ← gets fun s => (s.spur s.mySpurKey).size .acc
  match (List.range m).find? fun i => decide (size < accOff n t (r0 + i) (c0 + k)) with
  | some i => trap cPOOLREF (poolTval .acc (max size (accOff n t (r0 + i) c0)))
  | none => pure ()

/-- AZERO (R163). -/
def execAzero (c : Nat) (s : State) : Out :=
  runInstr .t [] (do
    roleCheck .acc (c * 65536) 65536
    let k ← gets State.mySpurKey
    poolWrite k .acc (c * 65536) (List.replicate 65536 0)
    pure .adv) s

/-- The extent of an ALD or AST window (R142): 0 means the full height or width. -/
def winExtent (t : Nat) (w : Word) : Nat × Nat :=
  (if winRows w = 0 then 128 else winRows w, if winCols w = 0 then atCols t else winCols w)

/-- The checks ALD and AST share (R164). -/
def accMove (c t x : Nat) : Act (Word × Word × Word × Nat × Nat) := do
  let a ← rdS x
  let st ← rdS (x + 1)
  let w ← rdS (x + 2)
  let (m, k) := winExtent t w
  winCheck c t w m k
  trapIf (decide (a.toNat % atSize t ≠ 0 ∨ st.toNat % atSize t ≠ 0)) cALIGN a
  pure (a, st, w, m, k)

/-- ALD (R164). -/
def execAld (c t x : Nat) (s : State) : Out :=
  runInstr .t [.grp x 3] (do
    let (a, st, w, m, k) ← accMove c t x
    let rows := List.range m
    pagesFirst .read (rows.map fun i => (rowVa a st i, k * atSize t))
    let bs ← rows.mapM fun i => readMem .read (rowVa a st i) (k * atSize t)
    let key ← gets State.mySpurKey
    for (i, b) in rows.zip bs do poolWrite key .acc (accOff c t (winRow w + i) (winCol w)) b
    pure .adv) s

/-- AST (R164). -/
def execAst (c t x : Nat) (s : State) : Out :=
  runInstr .t [.grp x 3] (do
    let (a, st, w, m, k) ← accMove c t x
    let rs := (List.range m).map fun i => (rowVa a st i, k * atSize t)
    pagesFirst .write rs
    let put (xs : List (List Byte)) : Act Unit := do
      for (r, bs) in rs.zip xs do storeMem r.1 bs
    let junk : Act Unit := do put (← rs.mapM fun r => freeBytes r.2)
    readOr .acc ((List.range m).map fun i => (accOff c t (winRow w + i) (winCol w), k * atSize t)) junk fun bs => do
      put bs
      pure .adv) s

/-- Whether ACVT converts a source type to a tile format (R165). -/
def acvtPair (t f : Nat) : Bool :=
  if t = 2 then f == 10 || f == 11 || f == 1 || f == 2 || f == 3 || f == 12
  else f != 11 && f != 0

/-- One element of ACVT to a format without blocks (R165). -/
def acvtElem (t f : Nat) (v : FEnv) (u x : Nat) : Nat × Flags :=
  if t = 2 then
    let z := sextN 32 x
    if f = 10 ∨ f = 11 then
      let w := elemBits f
      let lo : Int := -(2 ^ (w - 1) : Int)
      let hi : Int := 2 ^ (w - 1) - 1
      (truncN w (if z < lo then lo else if hi < z then hi else z), 0)
    else ofInt ((elemFmt f).getD fp32) v u z
  else
    let y := (if t = 1 then fp64 else fp32).readFtz v.ftz x
    if f = 10 then
      let (z, fl) := toInt v u (-128) 127 y
      (truncN 8 z, fl)
    else convVal ((elemFmt f).getD fp32) v u y

/-- Consecutive runs of n of a list. -/
def runsOf {α : Type} (n : Nat) : Nat → List α → List (List α)
  | 0, _ => []
  | k + 1, xs => xs.take n :: runsOf n k (xs.drop n)

/-- ACVT (R165). -/
def execAcvt (d c t r x : Nat) (s : State) : Out :=
  runInstr .t [.r x] (do
    let w ← rdS x
    let k := shapeOf (← rdKsh d)
    trapIf (!acvtPair t k.fmt) cILLFMT (wordN d)
    tileCheck k
    winCheck c t w k.rows k.cols
    let v ← gets fun s => fenvOf s r
    let draw (i j : Nat) : Nat := v.draw (winRow w + i) (winCol w + j)
    readOr .acc ((List.range k.rows).map fun i => (accOff c t (winRow w + i) (winCol w), k.cols * atSize t))
      (freePool .til k.start k.size) fun bs => do
      let rows := bs.map fun b => (runsOf (atSize t) k.cols b).map leNat
      if blocked k.fmt then
        let n := 2 ^ k.blg
        let blks := rows.zipIdx.map fun (xs, i) =>
          ((runsOf n (k.cols / n) xs).zipIdx).map fun (ys, b) =>
            encodeBlock k.fmt v (fun j => draw i (b * n + j)) (ys.map ((if t = 1 then fp64 else fp32).readFtz v.ftz))
        let fl := blks.flatten.foldl (fun (a : Flags) b => a ||| b.2.2) 0
        writeTil k.start (rowBytes k.fmt (blks.flatten.flatMap fun b => b.2.1) ++
          blks.flatten.map fun b => BitVec.ofNat 8 b.1)
        orFlags fl
      else
        let rs := rows.zipIdx.flatMap fun (xs, i) => xs.zipIdx.map fun (y, j) => acvtElem t k.fmt v (draw i j) y
        writeTil k.start (rowBytes k.fmt (rs.map Prod.fst))
        orFlags (rs.foldl (fun a r => a ||| r.2) 0)
      if k.fmt ≠ 9 ∧ !(t == 2 && (k.fmt == 10 || k.fmt == 11)) then bumpSeed v
      pure .adv) s

end Sys2Proof.Machine
end

