-- ==== Sys2Proof/Machine/Gang.lean ====
section
/-! DEFINITION. The matrix product (05_matrix.md R143 to R147) and gangs: GANG, KMMA, KMMR (R148 to R156), with the gate on
their starts (11_scheduling.md R305). -/

namespace Sys2Proof.Machine

/-! ### The product -/

/-- The accumulation type and block length of a pair of operand formats (R143), the formats in either order. -/
def pairOf (fa ba fb bb : Nat) : Option (Nat × Nat) :=
  let ps2 (f b : Nat) : Option (Nat × Nat) :=
    if f = 2 ∨ f = 4 ∨ f = 5 then some (0, 2 ^ b) else if f = 6 ∨ f = 7 then some (0, min (2 ^ b) 32) else none
  let both (p : Nat → Bool) : Bool := p fa && p fb
  if both (· == 12) then some (1, 32)
  else if both (· == 1) then some (0, 32)
  else if both (fun f => f == 2 || f == 3) then some (0, 32)
  else if both (fun f => f == 4 || f == 5) then some (0, 32)
  else if both (fun f => f == 6 || f == 7 || f == 8) then some (0, 32)
  else if both (fun f => f == 10 || f == 11) then some (2, 32)
  else if fa = 9 then ps2 fb ba
  else if fb = 9 then ps2 fa bb
  else none

/-- An element as the product reads it: FTZ acts on the formats of R145. -/
def mmaElem (f : Nat) (ftz : Bool) (x : Nat) : FVal :=
  match elemFmt f with
  | some g => g.readFtz ftz x
  | none => elemVal f x

/-- The exact sum of products of a block (R144, R145), before its scales. -/
def blockSum (ps : List FRes) : FRes :=
  let fl := ps.foldl (fun (a : Flags) p => match p with
    | .nan f => a ||| f
    | _ => a) 0
  let nan := ps.any fun p => match p with
    | .nan _ => true
    | _ => false
  let inf (n : Bool) : Bool := ps.any fun p => match p with
    | .inf m _ => m == n
    | _ => false
  if nan then .nan (fl ||| flagIf (inf true && inf false) flagNV)
  else if inf true && inf false then .nan flagNV
  else if inf true then .inf true 0
  else if inf false then .inf false 0
  else
    let xs := ps.filterMap fun p => match p with
      | .val x => some x
      | _ => none
    let e0 := xs.foldl (fun (e : Int) x => min e x.e) (xs.headD ⟨false, 0, 0, false⟩).e
    let z := xs.foldl (fun (t : Int) x => t + scaledInt x.neg x.m x.e e0) 0
    if z = 0 then .val ⟨xs.all fun x => x.m == 0 && x.neg, 0, 0, false⟩
    else .val ⟨decide (z < 0), z.natAbs, e0, false⟩

/-- A block sum under its scales and NEG. -/
def scaleSum (k : Int) (neg : Bool) (t : FRes) : FRes :=
  match t with
  | .nan f => .nan f
  | .inf n f => .inf (n != neg) f
  | .val x => .val ⟨x.neg != neg, x.m, x.e + k, false⟩

/-- An FP accumulator value plus a block sum, rounded once (R144, R145). -/
def accAdd (g : Fmt) (ftz : Bool) (c : Nat) (t : FRes) : Nat × Flags :=
  let v : FEnv := ⟨0, ftz, false, 0, 0⟩
  let x := g.readFtz ftz c
  match t with
  | .nan f => (g.nan, f ||| flagIf x.isSnan flagNV)
  | .inf n _ => finishRes g v 0 (addVal 0 x (.inf n))
  | .val y => finishRes g v 0 (addVal 0 x (.fin y.neg y.m y.e))

/-- What a multiply names: accumulator, AT, Z, NEG, the window word, the shapes, FTZ. -/
structure Mma where
  acc : Nat
  t : Nat
  z : Bool
  neg : Bool
  win : Word
  a : Shape
  b : Shape
  ftz : Bool
  deriving DecidableEq, Repr

/-- One element of the window (R144): its new bits and the flags. -/
def mmaOne (p : Spur) (m : Mma) (blk i j : Nat) : Nat × Flags :=
  let k := m.a.cols
  let lo := winKlo m.win
  let hi := if winKhi m.win = 0 then k else min (winKhi m.win) k
  let g := if m.t = 1 then fp64 else fp32
  let c0 := if m.z then 0 else leNat (p.rd .acc (accOff m.acc m.t (winRow m.win + i) (winCol m.win + j)) (atSize m.t))
  (List.range ((k + blk - 1) / blk)).foldl (fun (c : Nat × Flags) b =>
    let ks := (span (b * blk) blk).filter fun x => decide (x < k ∧ lo ≤ x ∧ x < hi)
    if ks.isEmpty then c
    else if m.t = 2 then
      let t := ks.foldl (fun (t : Int) x =>
        t + sextN (elemBits m.a.fmt) (p.elem m.a i x) * sextN (elemBits m.b.fmt) (p.elem m.b j x)) 0
      (truncN 32 (sextN 32 c.1 + if m.neg then -t else t), c.2)
    else
      let sa := if blocked m.a.fmt then p.scale m.a i (b * blk) else 127
      let sb := if blocked m.b.fmt then p.scale m.b j (b * blk) else 127
      let t := if sa = 255 ∨ sb = 255 then FRes.nan flagNV
        else scaleSum ((sa : Int) + (sb : Int) - 254) m.neg (blockSum (ks.map fun x =>
          mulVal (mmaElem m.a.fmt m.ftz (p.elem m.a i x)) (mmaElem m.b.fmt m.ftz (p.elem m.b j x))))
      let (r, fl) := accAdd g m.ftz c.1 t
      (r, c.2 ||| fl)) (c0, 0)

/-- The unmasked K range of a multiply (R147): its first and the end. -/
def Mma.range (m : Mma) : Nat × Nat := (winKlo m.win, min m.a.cols (if winKhi m.win = 0 then m.a.cols else winKhi m.win))

/-- Whether a multiply leaves its window unchanged (R147): every element is masked and Z is 0. -/
def Mma.idle (m : Mma) : Bool := decide (m.range.2 ≤ m.range.1) && !m.z

/-- The product of a spur's tiles into its accumulator (R144): the pool and the flags. -/
def mmaSpur (p : Spur) (m : Mma) (blk : Nat) : Spur × Flags :=
  if m.idle then (p, 0) else
  (List.range m.a.rows).foldl (fun (q : Spur × Flags) i =>
    let rs := (List.range m.b.rows).map fun j => mmaOne p m blk i j
    let bs := rs.flatMap fun r => leBytes (atSize m.t) r.1
    (q.1.wr .acc (accOff m.acc m.t (winRow m.win + i) (winCol m.win)) bs, rs.foldl (fun (a : Flags) r => a ||| r.2) q.2)) (p, 0)

/-- The bytes of a tile that the product reads (R147): of the elements in the unmasked K range, and of the scales of their
blocks. -/
def mmaBytes (t : Shape) (lo hi : Nat) : List Nat :=
  ((List.range t.rows).flatMap fun i => (span lo (hi - lo)).flatMap fun k =>
    span (t.elemOff i k) (elemBytes t.fmt) ++ if blocked t.fmt then [t.scaleOff i k] else []).eraseDups

/-- The first poisoned byte that an operation reads, of ka, then of kb, then of the window (R166); one that turns its right operands
round a ring of several spurs reads all of kb (R156). -/
def mmaPoison (p : Spur) (m : Mma) (turns : Bool) : Option Word :=
  let (lo, hi) := m.range
  let bytes (t : Shape) : List Nat := if hi ≤ lo then [] else mmaBytes t lo hi
  let rows := if hi ≤ lo ∨ m.z then [] else List.range m.a.rows
  match (bytes m.a ++ if turns then span m.b.start m.b.size else bytes m.b).findSome? fun o => p.poisonAt .til o 1 with
  | some o => some (poolTval .til o)
  | none =>
    (rows.findSome? fun i =>
      p.poisonAt .acc (accOff m.acc m.t (winRow m.win + i) (winCol m.win)) (m.b.rows * atSize m.t)).map (poolTval .acc)

/-! ### Rings (R155, R156) -/

/-- The spurs of a thread's RING in ring order, if the rectangle lies in the mesh: RING zero is a ring of the thread's own spur
`me`. -/
def ringSpurs (me : Nat) (r : Word) : Option (List Nat) :=
  let n := r.toNat
  let w := n / 2 ^ 12 % 16 + 1
  let h := n / 2 ^ 8 % 16 + 1
  let ox := n / 2 ^ 4 % 16
  let oy := n % 16
  if n = 0 then some [me]
  else if 13 < oy + (h - 1) ∨ 15 < ox + (w - 1) then none
  else some ((List.range h).flatMap fun y => (List.range w).map fun x => (oy + y) * 16 + ox + x)

/-- The ring of the executing thread, unless its KMMR traps RINGOUT (R152). -/
def myRing (s : State) : Option (List Nat) :=
  (ringSpurs (spurOf s.cur) s.ctx.ring).filter fun ps =>
    ps.contains (spurOf s.cur) && ps.all fun p => s.myProg.quota.contains p && !(s.spur (dieOf s.cur, p)).fenced

/-- RING.DIR. -/
def ringDir (r : Word) : Bool := r.getLsbD 16

/-- The cycles of 64 in which an operation may start (R305). -/
def mgateOf (level : Nat) : Nat := if 11 ≤ level then 64 else if 3 ≤ level then 64 - 4 * (11 - level) else 32

/-! ### Gang records (R149 to R152) -/

/-- A gang record of a spur under an identifier: the one that spans the spur. -/
def findGang (s : State) (d id : Nat) (spurs : List Nat) : Option Gang :=
  (s.die d).gangs.find? fun g => g.id == id && g.spurs.any spurs.contains

/-- A record replaced, or removed. -/
def putGang (s : State) (d : Nat) (g : Gang) (new : Option Gang) : State :=
  let r := s.die d
  let rest := r.gangs.filter fun x => !(x.id == g.id && x.spurs.any g.spurs.contains)
  s.setDie d { r with gangs := match new with
    | some n => rest ++ [n]
    | none => rest }

/-- The core of an agent within its gang. -/
def coreAt : AgentId → Nat × Nat
  | .slot _ p c _ => (p, c)
  | _ => (0, 0)

/-- The cores a record accounts for: of its parked members, and of those gone. -/
def Gang.cores (g : Gang) : List (Nat × Nat) := g.members.map (fun m => coreAt m.who) ++ g.gone

/-- Whether every core of every spur of a record is accounted. -/
def Gang.full (g : Gang) : Bool := g.spurs.all fun p => (List.range 4).all fun c => g.cores.contains (p, c)

/-- TVAL of GANGBRK, and of a gang member's WLIMIT (R152). -/
def gangTval (id code : Nat) : Word := wordN (id * 256 + code)

/-- A record that closes: a slot stalled for a 17th record finds room (R150). -/
def closeGang (s : State) (d : Nat) (g : Gang) : State := putGang s d g none

/-- A broken record as it stands: closed once every core is accounted and no member is parked (R151). -/
def settleGang (s : State) (d : Nat) (g : Gang) : State :=
  if g.members.isEmpty && g.full then closeGang s d g else putGang s d g (some g)

/-- Members of a record trap GANGBRK. -/
def trapMembers (s : State) (id code : Nat) (ms : List GangMember) : State :=
  ms.foldl (fun t m => trapWait m.who ⟨cGANGBRK, gangTval id code⟩ t) s

/-- A record breaks: the core that caused it is accounted, and parked members without a limit trap at once (R151). -/
def breakGang (s : State) (d : Nat) (g : Gang) (gone : List (Nat × Nat)) : State :=
  let out := g.members.filter fun m => !bounded s m.who
  let keep := g.members.filter fun m => bounded s m.who
  let g := { g with state := .broken, members := keep, gone := g.gone ++ gone ++ out.map fun m => coreAt m.who }
  trapMembers (settleGang s d g) g.id 0 out

/-- An empty record. -/
def Gang.new (id : Nat) (spurs : List Nat) : Gang :=
  { id := id, spurs := spurs, state := .opened, members := [], gone := [], begun := false, claim := 0, fl := 0, bad := none }

/-- Records of a spur that are OPEN or BROKEN (R150). -/
def openRecords (s : State) (d p : Nat) : Nat :=
  ((s.die d).gangs.filter fun g => g.spurs.contains p && g.state != .started).length

/-- Whether every spur of some has room for one more record. -/
def gangRoom (s : State) (d : Nat) (spurs : List Nat) : Bool := spurs.all fun p => decide (openRecords s d p < 16)

/-- Whether a pair that stalled for a 17th record stalls still: there is no room, and none of its gang has opened the record meanwhile
(R150). -/
def gangStalls (s : State) (d id : Nat) (spurs : List Nat) : Bool := !gangRoom s d spurs && (findGang s d id spurs).isNone

/-- The spurs whose cores a pair's record counts: for KMMR those of its ring (R151), and its own spur alone where the ring is refused
as RINGOUT: the spec does not say which spurs that record spans (DESIGN CHOICE, log 24). -/
def pairSpurs (ring : Bool) (s : State) : List Nat :=
  if ring then (myRing s).getD [spurOf s.cur] else [spurOf s.cur]

/-- A pair traps in its own checks: the trap, and the record of its GANGID breaks (R151). A started record is left as it is. That such
a pair counts as its core's participant at a record that is BROKEN already, and that it breaks none where one of its spurs holds
16, is the model's choice: no row of R151's table covers either (DESIGN CHOICE, log 24). -/
def pairTrap (s : State) (t : Trap) (spurs : List Nat) : State :=
  let d := dieOf s.cur
  let id := s.ctx.gangid.toNat % 256
  let me := coreAt s.cur
  let u := takeTrap s t
  match findGang s d id spurs with
  | some g =>
    match g.state with
    | .opened => breakGang u d g [me]
    | .broken => settleGang u d { g with gone := me :: g.gone }
    | .started => u
  | none => if gangRoom s d spurs then breakGang u d (Gang.new id spurs) [me] else u

/-! ### The operation -/

/-- The multiply a member's word names. -/
def mmaOf (c n z t : Nat) (win ka kb : Word) (ftz : Bool) : Mma :=
  { acc := c, t := t, z := z == 1, neg := n == 1, win := win, a := shapeOf ka, b := shapeOf kb, ftz := ftz }

/-- The multiply of a member, read from its word (R154). -/
def memberMma (x : GangMember) : Mma :=
  let w := x.word
  mmaOf (bits w 23 21) (bits w 10 10) (bits w 9 9) (bits w 8 7) x.win x.ksa x.ksb x.ftz

/-- Whether a member's word is KMMR. -/
def memberRing (x : GangMember) : Bool := bits x.word 31 24 == 0xB9

/-- The pool bytes an operation reads and writes (R153). -/
def mmaClaims (m : Mma) (id : Nat) : List PoolClaim :=
  [⟨.til, m.a.start, m.a.size, id⟩, ⟨.til, m.b.start, m.b.size, id⟩] ++
  (List.range m.a.rows).map fun i => ⟨.acc, accOff m.acc m.t (winRow m.win + i) (winCol m.win), m.b.rows * atSize m.t, id⟩

/-- Whether an operation in progress, or an engine, holds a byte that the operation needs on a spur. -/
def mmaBlocked (p : Spur) (m : Mma) : Bool :=
  (mmaClaims m 0).any fun c => decide (0 < c.len) && p.claimed c.role c.first c.len

/-- The operation of a full record performed at the pools (R144, R153, R156): every spur's product, then the rotation of kb;
poison leaves what it would write unspecified (R166). A ring of one spur leaves kb unchanged. -/
def runGang (s : State) (d : Nat) (g : Gang) : State × Gang :=
  match g.members with
  | [] => (s, g)
  | x :: _ =>
    let m := memberMma x
    let blk := ((pairOf m.a.fmt m.a.blg m.b.fmt m.b.blg).getD (0, 32)).2
    let turns := memberRing x && decide (1 < g.spurs.length)
    let bad := g.spurs.findSome? fun n => mmaPoison (s.spur (d, n)) m turns
    let kbs := g.spurs.map fun n => (s.spur (d, n)).rd .til m.b.start m.b.size
    let turn (i : Nat) : List Byte :=
      let n := g.spurs.length
      kbs.getD (if ringDir x.ring then (i + 1) % n else (i + n - 1) % n) []
    let junk (s : State) (n : Nat) (r : Role) (o len : Nat) : State :=
      ({ s with free := s.free + len }).setSpur (d, n) ((s.spur (d, n)).wr r o ((span s.free len).map Config.freeByte))
    let one (q : State × Flags) (ni : Nat × Nat) : State × Flags :=
      let (n, i) := ni
      match bad with
      | some _ =>
        let t := (if m.idle then [] else List.range m.a.rows).foldl (fun t r =>
          junk t n .acc (accOff m.acc m.t (winRow m.win + r) (winCol m.win)) (m.b.rows * atSize m.t)) q.1
        (if turns then junk t n .til m.b.start m.b.size else t, q.2)
      | none =>
        let (p, fl) := mmaSpur (q.1.spur (d, n)) m blk
        (q.1.setSpur (d, n) (if turns then p.wr .til m.b.start (turn i) else p), q.2 ||| fl)
    let (s, fl) := g.spurs.zipIdx.foldl one (s, 0)
    let id := s.nextEng
    let s := g.spurs.foldl (fun t n =>
      let p := t.spur (d, n)
      t.setSpur (d, n) { p with claims := p.claims ++ mmaClaims m id }) { s with nextEng := id + 1 }
    (s, { g with begun := true, fl := fl, bad := bad, claim := id })

/-- The records of a list before one. -/
def gangsBefore (gs : List Gang) (g : Gang) : List Gang := gs.takeWhile fun x => !(x.id == g.id && x.spurs == g.spurs)

/-- Whether the operation of a started record may begin: operations of one spur run in the order of their starts, one at a time, its
bytes are free, and the cycle is an allowed one (R150, R153, R305). -/
def mayStart (s : State) (d : Nat) (g : Gang) : Bool :=
  let gs := (s.die d).gangs
  g.state == .started && !g.begun &&
  !(gs.any fun x => x.begun && x.spurs.any g.spurs.contains) &&
  !((gangsBefore gs g).any fun x => x.state == .started && x.spurs.any g.spurs.contains) &&
  decide ((s.die d).cycle % 64 < mgateOf (s.die d).level) &&
  (match g.members with
    | [] => false
    | x :: _ => g.spurs.all fun n => !mmaBlocked (s.spur (d, n)) (memberMma x))

/-- The operation of a started record begins. -/
def startGang (s : State) (d : Nat) (g : Gang) : State :=
  let (s, g') := runGang s d g
  putGang s d g (some g')

/-- The operation completes: its bytes are free, its members go on with its flags, or trap POISON (R150, R166). -/
def finishGang (s : State) (d : Nat) (g : Gang) : State :=
  let s := g.spurs.foldl (fun t n =>
    let p := t.spur (d, n)
    t.setSpur (d, n) { p with claims := p.claims.filter fun c => c.unit ≠ g.claim }) s
  let s := closeGang s d g
  g.members.foldl (fun t m =>
    match g.bad with
    | some v => trapWait m.who ⟨cPOISON, v⟩ t
    | none => asAgent m.who .ganged (fun u => retire (u.setCtx { u.ctx with fcsr := fcsrRaise u.ctx.fcsr g.fl })) t) s

/-! ### GANG, KMMA and KMMR -/

/-- The checks of R166 that a pair makes before it arrives, and the member it arrives as. Of several POOLREF the first is raised of ka
beyond TIL, kb beyond TIL, the window beyond the accumulator, the window beyond ACC: R140 and R142 give no order (DESIGN CHOICE,
log 24). -/
def pairChecks (ring : Bool) (c a b t x : Nat) : Act (GangMember × List Nat) := do
  let w ← rdS x
  let ka ← rdKsh a
  let kb ← rdKsh b
  let s ← get
  let sa := shapeOf ka
  let sb := shapeOf kb
  let bad : Bool := sa.fmt == 0 || sb.fmt == 0 || sa.cols != sb.cols ||
    (match pairOf sa.fmt sa.blg sb.fmt sb.blg with
      | some (at1, _) => at1 != t
      | none => true)
  trapIf bad cILLFMT (wordN (0x100 + sa.fmt * 16 + sb.fmt))
  tileCheck sa
  tileCheck sb
  winCheck c t w sa.rows sb.rows
  let m : GangMember := ⟨s.cur, s.iw, w, ka, kb, fcsrFtz s.ctx.fcsr, if ring then s.ctx.ring else 0⟩
  trapIf (ring && (myRing s).isNone) cGANGBRK (gangTval (s.ctx.gangid.toNat % 256) 3)
  pure (m, pairSpurs ring s)

/-- A member arrives at its record (R149 to R151). At a started one it stalls, which its WLIM does not count. -/
def arrivePair (m : GangMember) (spurs : List Nat) (s : State) : State :=
  let d := dieOf s.cur
  let id := s.ctx.gangid.toNat % 256
  let me := coreAt s.cur
  let brk (s : State) (code : Nat) : State := takeTrap s ⟨cGANGBRK, gangTval id code⟩
  let park (s : State) (g : Gang) : State :=
    let s := s.setMe { s.me with wait := .gang id, wmode := .ganged }
    let g' := { g with members := g.members ++ [m] }
    let g' := if g'.full then { g' with state := .started } else g'
    let s := putGang s d g (some g')
    if !s.defer && mayStart s d g' then
      let s := startGang s d g'
      match findGang s d id spurs with
      | some h => finishGang s d h
      | none => s
    else s
  match findGang s d id spurs with
  | none =>
    if gangRoom s d spurs then park s (Gang.new id spurs)
    else s.setMe { s.me with wait := .gangRoom id spurs, wmode := .plain }
  | some g =>
    match g.state with
    | .started => s.setMe { s.me with wait := .none }
    | .broken =>
      if g.cores.contains me then brk s 2
      else settleGang (brk s 0) d { g with gone := me :: g.gone }
    | .opened =>
      if g.cores.contains me then brk s 2
      else if g.members.all (fun x => x.word == m.word && x.win == m.win && x.ksa == m.ksa && x.ksb == m.ksb &&
          x.ftz == m.ftz && x.ring == m.ring) && g.spurs == spurs then park s g
      else trapMembers (closeGang (brk s 1) d g) id 1 g.members

/-- A pair (R149): the checks, then the arrival. -/
def ganged (ring : Bool) (c a b t x : Nat) (s : State) : Out :=
  if ridgeWaits .t [.r x] s then .next (deliverRidge s)
  else
    match precheck .t [.r x] s with
    | some tr => .next (pairTrap s tr (pairSpurs ring s))
    | none =>
      match (pairChecks ring c a b t x).run s with
      | .ok ((m, ps), u) => .next (arrivePair m ps u)
      | .error (.trap tr) => .next (pairTrap s tr (pairSpurs ring s))
      | .error e => .next (settle s (.error e))

/-- KMMA (R149, R154): the second word of a GANG pair; without GANG before it, it traps ILLOP. -/
def execKmma (c a b _n _z t x : Nat) (s : State) : Out :=
  if s.mode = .ganged then ganged false c a b t x s else .next (takeTrap s ⟨cILLOP, wordN s.iw⟩)

/-- KMMR, as KMMA, with the rotation of its right operand round the gang (R154 to R156). -/
def execKmmr (c a b _n _z t x : Nat) (s : State) : Out :=
  if s.mode = .ganged then ganged true c a b t x s else .next (takeTrap s ⟨cILLOP, wordN s.iw⟩)

/-- GANG (R149): the word after it must be KMMA or KMMR, which then runs as the gang's. A fault on the fetch of either word comes before
ILLOP, that of a master included (R54). -/
def execGang (s : State) : Out :=
  runFetched (do
    let gw := s.iw
    let w ← fetchWord (s.ctx.pc + 4)
    if !isSlot s.cur ∨ (bits w 31 24 ≠ 0xB8 ∧ bits w 31 24 ≠ 0xB9) then pure fun s => .next (takeTrap s ⟨cILLOP, wordN gw⟩)
    else
      mods fun s => { s with iw := w, mode := .ganged }
      match decodeLowWord w with
      | .ok (.kmma c a b n z t x) => pure fun s => execKmma c a b n z t x s
      | .ok (.kmmr c a b n z t x) => pure fun s => execKmmr c a b n z t x s
      | _ => pure fun s => .next (pairTrap s ⟨cILLOP, wordN w⟩ (pairSpurs (bits w 31 24 == 0xB9) s))) s

/-! ### Events -/

/-- A full record's operation starts in an allowed cycle (R305). -/
def execMatrixOpStart (die spur gang : Nat) (s : State) : Out :=
  match findGang s die gang [spur] with
  | some g => when (mayStart s die g) (fun s => startGang s die g) s
  | none => .next s

/-- An operation completes (R150). -/
def execMatrixOpComplete (die spur gang : Nat) (s : State) : Out :=
  match findGang s die gang [spur] with
  | some g => when (g.begun) (fun s => finishGang s die g) s
  | none => .next s

/-- A parked member's WLIM expires (R151, R152). -/
def execGangParkExpiry (who : AgentId) (s : State) : Out :=
  match (s.agent who).wait with
  | .gang id =>
    let d := dieOf who
    match findGang s d id [spurOf who] with
    | some g =>
      when (due s who && g.state != .started && g.members.any (fun m => m.who == who)) (fun s =>
        let g' := { g with members := g.members.filter fun m => m.who ≠ who }
        match g.state with
        | .opened => breakGang (trapWait who ⟨cWLIMIT, gangTval id 0x10⟩ s) d g' [coreAt who]
        | _ => settleGang (trapWait who ⟨cGANGBRK, gangTval id 0⟩ s) d { g' with gone := coreAt who :: g'.gone }) s
    | none => .next s
  | _ => .next s

/-- A pair stalled for a 17th record: its WLIM expires (R150, R152). -/
def execGangRecordStallExpiry (who : AgentId) (s : State) : Out :=
  match (s.agent who).wait with
  | .gangRoom id spurs => when (due s who && gangStalls s (dieOf who) id spurs) (trapWait who ⟨cWLIMIT, gangTval id 0x11⟩) s
  | _ => .next s

end Sys2Proof.Machine
end

