-- ==== Sys2Proof/Machine/Cairn.lean ====
section
/-! DEFINITION. Cairn, the tree-search engine of a die (09_cairn.md R248 to R266). -/

namespace Sys2Proof.Machine

/-- The codes of R251 beyond those of R167. -/
def kTREEFULL : Nat := 11
def kEXPANDED : Nat := 12
def kTERMINAL : Nat := 13
def kDEPTH : Nat := 14
def kSTALE : Nat := 15

/-- The index that means no node (R248). -/
def noNode : Nat := 2 ^ 32 - 1

/-! ### Nodes and headers -/

/-- A node's fields (R249). -/
structure Node where
  n : Nat
  w : Nat
  p : Nat
  vl : Nat
  first : Nat
  parent : Nat
  action : Nat
  nch : Nat
  state : Nat
  rsv : Nat
  user : Nat
  deriving DecidableEq, Repr

/-- A node from its 32 bytes. -/
def Node.ofNat (x : Nat) : Node :=
  { n := bits x 31 0, w := bits x 63 32, p := bits x 79 64, vl := bits x 95 80, first := bits x 127 96
    parent := bits x 159 128, action := bits x 191 160, nch := bits x 207 192, state := bits x 209 208
    rsv := bits x 223 210, user := bits x 255 224 }

/-- A node as 32 bytes. -/
def Node.toNat (x : Node) : Nat :=
  x.n + x.w * 2 ^ 32 + x.p * 2 ^ 64 + x.vl * 2 ^ 80 + x.first * 2 ^ 96 + x.parent * 2 ^ 128 + x.action * 2 ^ 160 +
  x.nch * 2 ^ 192 + x.state * 2 ^ 208 + x.rsv * 2 ^ 210 + x.user * 2 ^ 224

/-- The states of a node (R249). -/
def nLEAF : Nat := 0
def nPENDING : Nat := 1
def nEXPANDED : Nat := 2
def nTERMINAL : Nat := 3

/-- A header's fields that Cairn maintains (R248). -/
def hUsed (h : Nat) : Nat := bits h 63 32
def hRoot (h : Nat) : Nat := bits h 95 64
def hEpoch (h : Nat) : Nat := bits h 127 96
def hHalf (h : Nat) : Nat := bits h 224 224
def hBusy (h : Nat) : Nat := bits h 227 227

/-- A bit field of a number replaced. -/
def setField (x hi lo v : Nat) : Nat := x - bits x hi lo * 2 ^ lo + v % 2 ^ (hi - lo + 1) * 2 ^ lo

/-- The address of a node of a half (R248). -/
def Tree.node (t : Tree) (half i : Nat) : Nat := (t.region + 64 + (half * t.cap + i) * 32) % 2 ^ 56

/-- The tree of a number of the executing program. -/
def findTree (s : State) (n : Nat) : Option Tree :=
  (s.die (dieOf s.cur)).trees.find? fun t => t.core == s.myKey.2 && t.num == n

/-- A binding replaced, or released. -/
def putTree (s : State) (t : Tree) (new : Option Tree) : State :=
  let d := dieOf s.cur
  let r := s.die d
  s.setDie d { r with trees := r.trees.flatMap fun y => if y.core = t.core ∧ y.num = t.num then new.toList else [y] }

/-! ### Atomic steps at the home (R262) -/

/-- The bytes of an atomic step: the issuer's earlier accesses to them are performed first (R195), the step waits behind
claims and owners, and poison stops it. -/
def stepKeys (va n : Nat) : Act (List Nat) := do
  let g ← gets unitAt
  let keys ← engTrans g .atomic va n
  awaitOwner keys
  orderAfter keys
  poisonTrap va keys
  let s ← get
  if claimedWord s keys then throw .stall
  pure keys

/-- The master L1 copies of a step's lines go first (R206, R262). -/
def stepRecall (keys : List Nat) : Act Unit := mods fun s => touchL1 s (.slot (dieOf s.cur) 0 0 0) false false keys

/-- Reads bytes in a step. -/
def stepRead (va n : Nat) : Act Nat := do
  let keys ← stepKeys va n
  stepRecall keys
  gets fun s => leNat (memGets s.mem keys)

/-- Writes bytes in a step: Cairn's own write, which spoils no tree (R250). -/
def stepWrite (va n v : Nat) : Act Unit := do
  let keys ← stepKeys va n
  stepRecall keys
  mods fun s =>
    let s := countWrites s (dieOf s.cur) keys
    { s with mem := memSets s.mem keys (leBytes n v) }

/-- A node read, and written. -/
def readNode (t : Tree) (half i : Nat) : Act Node := do pure (Node.ofNat (← stepRead (t.node half i) 32))
def writeNode (t : Tree) (half i : Nat) (x : Node) : Act Unit := stepWrite (t.node half i) 32 x.toNat

/-- The header read, and written. -/
def readHdr (t : Tree) : Act Nat := stepRead t.region 64
def writeHdr (t : Tree) (h : Nat) : Act Unit := stepWrite t.region 64 h

/-! ### The choice of a child (R256) -/

/-- Round-to-nearest-even without FTZ. -/
def cairnEnv : FEnv := ⟨0, false, false, 0, 0⟩

/-- The score of a child and its flags. -/
def puctScore (t : Tree) (sq : Nat) (c : Node) : Nat × Flags :=
  let r (x : Nat × Flags) (f : Nat → Nat × Flags) : Nat × Flags := let y := f x.1; (y.1, x.2 ||| y.2)
  let n := c.n + c.vl
  let fn := ofInt fp32 cairnEnv 0 (n : Int)
  let q : Nat × Flags :=
    if n = 0 then (t.fpu, 0)
    else
      let a := r (ofInt fp32 cairnEnv 0 (c.vl : Int)) fun v => fMul fp32 cairnEnv 0 v t.vlw
      let b := r a fun v => fSub fp32 cairnEnv 0 c.w v
      let y := r b fun v => fDiv fp32 cairnEnv 0 v fn.1
      (y.1, y.2 ||| fn.2)
  let p := c.p * 2 ^ 16
  let n1 := ofInt fp32 cairnEnv 0 ((n + 1 : Nat) : Int)
  let u := r (r (fMul fp32 cairnEnv 0 t.cpuct p) fun v => fMul fp32 cairnEnv 0 v sq) fun v => fDiv fp32 cairnEnv 0 v n1.1
  let s := fAdd fp32 cairnEnv 0 q.1 u.1
  (s.1, q.2 ||| n1.2 ||| u.2 ||| s.2)

/-- Whether a score is above another: +0 and -0 equal, a NaN below every number. -/
def scoreAbove (x y : Nat) : Bool :=
  let a := fp32.read x
  let b := fp32.read y
  !a.isNan && (b.isNan || decide (cmpVal a b > 0))

/-- The child of a list that PUCT chooses, and the flags of every score. -/
def puctChoose (t : Tree) (cs : List Node) : Nat × Flags :=
  let sum := cs.foldl (fun k c => k + c.n + c.vl) 0
  let s0 := ofInt fp32 cairnEnv 0 ((max sum 1 : Nat) : Int)
  let sq := fSqrt fp32 cairnEnv 0 s0.1
  let scores := cs.map (puctScore t sq.1)
  let best := scores.zipIdx.foldl (fun (b : Option (Nat × Nat)) x =>
    match b with
    | none => some (x.1.1, x.2)
    | some (v, _) => if scoreAbove x.1.1 v then some (x.1.1, x.2) else b) none
  ((best.map (·.2)).getD 0, scores.foldl (fun (f : Flags) x => f ||| x.2) (s0.2 ||| sq.2))

/-! ### Path records (R254) -/

/-- Reads a path record or a batch at its place: SCR in a thread, memory on the master. -/
def placeRead (loc n : Nat) : Act (List Byte) := do
  let s ← get
  if isSlot s.cur then poolRead s.mySpurKey .scr loc n else readMem .read (loc % 2 ^ 56) n

/-- The checks of a place: POOLREF in a thread (R266). -/
def placeRange (loc n : Nat) : Act Unit := do
  let s ← get
  let p := s.spur s.mySpurKey
  trapIf (isSlot s.cur && decide (p.size .scr < loc + n)) cPOOLREF (poolTval .scr (max (p.size .scr) loc))

/-- Writes a path record: one pool step, or plain stores. A shrink that has completed since its issue may have taken its place away
(R329). -/
def placeWrite (loc : Nat) (bs : List Byte) : Act Unit := do
  let s ← get
  placeRange loc bs.length
  if isSlot s.cur then poolWrite s.mySpurKey .scr loc bs else storeMem (loc % 2 ^ 56) bs

/-- A path header word. -/
def pathWord (epoch tree len : Nat) (claim : Bool) : Nat :=
  epoch * 2 ^ 32 + tree * 2 ^ 16 + (if claim then 2 ^ 8 else 0) + len

/-- The path header of a request's bytes. -/
def reqHdr (r : UnitReq) : Nat := leNat (r.bytes.take 8)
def pathLen (h : Nat) : Nat := h % 2 ^ 8
def pathClaim (h : Nat) : Bool := h.testBit 8
def pathTree (h : Nat) : Nat := bits h 19 16
def pathEpoch (h : Nat) : Nat := bits h 63 32

/-- Entry j of a request's path. -/
def reqEntry (r : UnitReq) (j : Nat) : Nat := leNat ((r.bytes.drop (8 + 4 * j)).take 4)

/-- Entry j of a request's batch, which follows the path's bytes: P and ACTION (R257). -/
def reqChild (r : UnitReq) (j : Nat) : Nat × Nat :=
  let x := leNat ((r.bytes.drop (264 + 8 * j)).take 8)
  (bits x 15 0, bits x 63 32)

/-- Operand i of a request. -/
def UnitReq.arg (r : UnitReq) (i : Nat) : Word := r.xs.getD i 0

/-! ### Operations in progress -/

/-- The operation of an agent. -/
def findOp (s : State) (who : AgentId) : Option CairnOp := (s.die (dieOf who)).cairn.find? fun o => o.who == who

/-- An operation replaced, or removed. -/
def putOp (s : State) (who : AgentId) (new : Option CairnOp) : State :=
  let r := s.die (dieOf who)
  s.setDie (dieOf who) { r with cairn := (r.cairn.filter fun o => o.who ≠ who) ++ new.toList }

/-- The other operations that Cairn has accepted on a tree of the executing program: those through its number, not those through a second
binding of the same region, of which R252 and R261 say nothing (DESIGN CHOICE, log 40). -/
def otherOps (s : State) (n : Nat) : List CairnOp :=
  (s.die (dieOf s.cur)).cairn.filter fun o =>
    o.who != s.cur && o.tree == n && decide (0 < o.phase) && decide ((s.progKey o.who).2 = s.myKey.2)

/-- Whether another accepted operation on a tree is of a kind and not over. -/
def hasOp (s : State) (n : Nat) (k : UnitOp) : Bool :=
  (otherOps s n).any fun o =>
    match (s.agent o.who).wait with
    | .unit r => decide (r.op = k) && !o.done
    | _ => false

/-- An operation over with a code and a VALUE. -/
def CairnOp.fin (o : CairnOp) (code value : Nat) : CairnOp := { o with done := true, code := code, value := value }

/-- VL raised at a node and a LEAF turned PENDING (R253, R255). -/
def raiseVl (x : Node) : Node :=
  { x with vl := min (x.vl + 1) 65535, state := if x.state = nLEAF then nPENDING else x.state, rsv := 0 }

/-- What a descent does when it has reached a node in a state. -/
def CairnOp.reach (o : CairnOp) (x st : Nat) : CairnOp :=
  let o := { o with x := x, path := o.path ++ [x], claim := o.claim || st == nLEAF, phase := o.phase + 1 }
  if st = nLEAF then o.fin kOK x
  else if st = nPENDING then o.fin kPENDING x
  else if st = nTERMINAL then o.fin kTERMINAL x
  else if o.path.length = 64 then o.fin kDEPTH x
  else o

/-- A step of CDESC (R255). -/
def cdescStep (t : Tree) (r : UnitReq) (o : CairnOp) : Act CairnOp := do
  let h ← readHdr t
  if o.phase = 0 then
    let a := (r.arg 1).toNat % 2 ^ 32
    let x := if a = noNode then hRoot h else a
    if hUsed h ≤ x then pure (o.fin kRANGE 0)
    else
      let nd ← readNode t (hHalf h) x
      writeNode t (hHalf h) x (raiseVl nd)
      pure ({ o with epoch := hEpoch h }.reach x nd.state)
  else
    let nd ← readNode t (hHalf h) o.x
    if nd.nch = 0 ∨ t.cap < nd.first + nd.nch then pure { o with done := true, junk := true }
    else
      let cs ← (List.range nd.nch).mapM fun i => readNode t (hHalf h) (nd.first + i)
      let (k, fl) := puctChoose t cs
      let c := nd.first + k
      let cn ← readNode t (hHalf h) c
      writeNode t (hHalf h) c (raiseVl cn)
      pure ({ o with fl := o.fl ||| fl }.reach c cn.state)

/-- The checks of a path record that CEXP and CBACK share, before EPOCH is compared (R257, R259). -/
def pathBad (r : UnitReq) : Bool :=
  let h := reqHdr r
  decide ((r.arg 0).toNat ≠ pathTree h ∨ pathLen h = 0 ∨ 64 < pathLen h)

/-- Whether an entry from `first` on that the instruction reads names a node that no half can hold: after STALE it is RANGE
(log 40). -/
def pathWild (t : Tree) (r : UnitReq) (first : Nat) : Bool :=
  (span first (pathLen (reqHdr r) - first)).any fun j => decide (t.cap ≤ reqEntry r j)

/-- A step of CEXP (R257, R258): the checks; the header; each child; the commit. One that finds its node expanded at the commit returns
EXPANDED and its allocation stays, as that of a stopped CEXP does (R264): R251 says that nothing is performed, and R257, which allocates
before the commit, does not say what becomes of the loser's nodes (DESIGN CHOICE, log 40). -/
def cexpStep (t : Tree) (r : UnitReq) (o : CairnOp) : Act CairnOp := do
  let h ← readHdr t
  let ph := reqHdr r
  let n := (r.arg 3).toNat
  let v := reqEntry r (pathLen ph - 1)
  let half := hHalf h
  if o.phase = 0 then
    if pathBad r ∨ 256 < n then pure (o.fin kRANGE 0)
    else if pathEpoch ph ≠ hEpoch h then pure (o.fin kSTALE 0)
    else if pathWild t r (pathLen ph - 1) then pure (o.fin kRANGE 0)
    else
      let nd ← readNode t half v
      if nd.state = nEXPANDED ∨ nd.state = nTERMINAL then pure (o.fin kEXPANDED 0)
      else if nd.state = nPENDING ∧ pathClaim ph = false then pure (o.fin kPENDING 0)
      else if n = 0 then
        writeNode t half v { nd with state := nTERMINAL, rsv := 0 }
        pure (o.fin kOK v)
      else pure { o with phase := 1 }
  else if o.phase = 1 then
    let used := hUsed h
    if t.cap < used + n then
      trapIf t.tft cTREEFULL (wordN (n * 2 ^ 32 + v))
      pure (o.fin kTREEFULL (t.cap - used))
    else
      writeHdr t (setField h 63 32 (used + n))
      pure { o with phase := 2, x := used }
  else if o.phase < n + 2 then
    let (p, a) := reqChild r (o.phase - 2)
    writeNode t half (o.x + (o.phase - 2))
      { n := 0, w := 0, p := p, vl := 0, first := noNode, parent := v, action := a, nch := 0, state := nLEAF, rsv := 0, user := 0 }
    pure { o with phase := o.phase + 1 }
  else
    let nd ← readNode t half v
    if nd.state = nEXPANDED ∨ nd.state = nTERMINAL then pure (o.fin kEXPANDED 0)
    else if nd.state = nPENDING ∧ pathClaim ph = false then pure (o.fin kPENDING 0)
    else
      writeNode t half v { nd with first := o.x, nch := n, state := nEXPANDED, rsv := 0 }
      pure (o.fin kOK o.x)

/-- A step of CBACK at one node (R259). -/
def cbackStep (t : Tree) (r : UnitReq) (o : CairnOp) : Act CairnOp := do
  let h ← readHdr t
  let ph := reqHdr r
  let len := pathLen ph
  let mode := (r.arg 3).toNat
  if o.phase = 0 ∧ (pathBad r ∨ 1 < mode) then pure (o.fin kRANGE 0)
  else if o.phase = 0 ∧ pathEpoch ph ≠ hEpoch h then pure (o.fin kSTALE 0)
  else if o.phase = 0 ∧ pathWild t r 0 then pure (o.fin kRANGE 0)
  else
    let j := len - 1 - o.phase
    let i := reqEntry r j
    let nd ← readNode t (hHalf h) i
    let v := (r.arg 2).toNat % 2 ^ 32
    let sg := if t.alt ∧ (len - 1 - j) % 2 = 1 then v ^^^ 2 ^ 31 else v
    let (w, fl) := if mode = 0 then fAdd fp32 cairnEnv 0 nd.w sg else (nd.w, 0)
    let last := j + 1 == len && pathClaim ph && nd.state == nPENDING
    writeNode t (hHalf h) i { nd with
      vl := nd.vl - 1
      n := if mode = 0 then min (nd.n + 1) (2 ^ 32 - 1) else nd.n
      w := w
      state := if last then nLEAF else nd.state
      rsv := 0 }
    let o := { o with fl := o.fl ||| fl, phase := o.phase + 1 }
    pure (if j = 0 then o.fin kOK len else o)

/-- CREAD's step (R260); reserved fields read as zero (R3). -/
def creadStep (t : Tree) (r : UnitReq) (o : CairnOp) : Act CairnOp := do
  let i := (r.arg 1).toNat % 2 ^ 32
  let h ← readHdr t
  let out (x : Nat) : List Word := (List.range 4).map fun k => wordN (x / 2 ^ (64 * k))
  if i = noNode then pure { o.fin kOK i with out := out (bits h 227 0) }
  else if hUsed h ≤ i then pure (o.fin kRANGE 0)
  else
    let x ← stepRead (t.node (hHalf h) i) 32
    pure { o.fin kOK i with out := out { Node.ofNat x with rsv := 0 }.toNat }

/-- A step of CREUSE (R261): BUSY; the copies in breadth-first order once the earlier operations are over; the switch. -/
def creuseStep (t : Tree) (r : UnitReq) (o : CairnOp) : Act CairnOp := do
  let h ← readHdr t
  let root := (r.arg 1).toNat % 2 ^ 32
  if o.phase = 0 then
    if hUsed h ≤ root then pure (o.fin kRANGE 0)
    else
      writeHdr t (setField h 227 227 1)
      pure { o with phase := 1, path := [root], par := [noNode] }
  else
    let s ← get
    if o.phase = 1 ∧ (otherOps s t.num) ≠ [] then throw .stall
    let k := o.phase - 1
    match o.path[k]? with
    | some i =>
      let nd ← readNode t (hHalf h) i
      let kids := if nd.first = noNode ∨ nd.state ≠ nEXPANDED then [] else span nd.first nd.nch
      if t.cap < o.path.length + kids.length ∨ kids.any (fun c => decide (t.cap ≤ c)) then pure { o with done := true, junk := true }
      else
        writeNode t (1 - hHalf h) k { nd with
          vl := 0
          state := if nd.state = nPENDING then nLEAF else nd.state
          first := if kids = [] then noNode else o.path.length
          parent := o.par.getD k noNode
          rsv := 0 }
        pure { o with phase := o.phase + 1, path := o.path ++ kids, par := o.par ++ kids.map fun _ => k }
    | none =>
      let h1 := setField (setField h 224 224 (1 - hHalf h)) 227 227 0
      let h2 := setField (setField h1 63 32 o.path.length) 95 64 0
      writeHdr t (setField h2 127 96 (hEpoch h + 1))
      mods fun s => putTree s t (some { t with epoch := (hEpoch h + 1) % 2 ^ 32 })
      pure (o.fin kOK o.path.length)

/-- UNBIND's step: it waits for the operations accepted on the tree (R252). -/
def unbindStep (t : Tree) (o : CairnOp) : Act CairnOp := do
  let s ← get
  if o.phase = 0 then pure { o with phase := 1 }
  else if otherOps s t.num ≠ [] then throw .stall
  else
    set (putTree s t none)
    pure (o.fin kOK 0)

/-- One atomic step of a Cairn instruction: a step finds its tree bound and not compacting (R252, R261), and not changed by
software where only Cairn may write (R250); one that comes after an UNBIND waits for it. -/
def cairnStep (r : UnitReq) (o : CairnOp) : Act CairnOp := do
  let s ← get
  match findTree s o.tree with
  | none => pure (o.fin kNOSESS 0)
  | some t =>
    if o.phase = 0 ∧ hasOp s o.tree .creuse then pure (o.fin kBUSY 0)
    else if o.phase = 0 ∧ hasOp s o.tree .ctree then throw .stall
    else if r.op ≠ .ctree ∧ t.bad then
      let g := unitAt s
      mods fun s => putTree (spoil g r.id [(t.region, 64 + 64 * t.cap)] s) t (some { t with bad := true })
      pure { o with done := true, junk := true }
    else
      match r.op with
      | .cdesc => cdescStep t r o
      | .cexp => cexpStep t r o
      | .cback => cbackStep t r o
      | .cread => creadStep t r o
      | .creuse => creuseStep t r o
      | _ => unbindStep t o

/-- An instruction that is over: its path record, its registers, its status (R251). -/
def cairnFinish (r : UnitReq) (o : CairnOp) : Act Fin := do
  mods fun s => putOp s s.cur none
  if o.junk then
    if r.op = .cdesc then placeWrite (r.arg 2).toNat (← freeBytes 264)
    if r.op = .cread then
      for i in List.range 4 do wrS ((r.arg 2).toNat + i) (Config.freeWord (← freshFree))
    wrS r.d (Config.freeWord (← freshFree))
  else
    if r.op = .cdesc ∧ o.path ≠ [] then
      placeWrite (r.arg 2).toNat (leBytes 8 (pathWord o.epoch o.tree o.path.length o.claim) ++ words4 o.path)
    if r.op = .cread ∧ o.out ≠ [] then
      for i in List.range 4 do wrS ((r.arg 2).toNat + i) (o.out.getD i 0)
    wrS r.d (status o.code o.value o.fl)
  pure .adv

/-- The path record of an instruction that Cairn stops (R264). -/
def stopPath (r : UnitReq) (o : CairnOp) : Act Unit := do
  if r.op = .cdesc then
    placeWrite (r.arg 2).toNat (leBytes 8 (pathWord o.epoch o.tree o.path.length o.claim) ++ words4 o.path)
  if r.op = .cback then
    let h := reqHdr r
    placeWrite (r.arg 1).toNat (leBytes 8 (pathWord (pathEpoch h) (pathTree h) (pathLen h - o.phase) (pathClaim h)))

/-- The BUSY bit cleared after a compaction that stopped (R264). -/
def stopBusy (r : UnitReq) (o : CairnOp) : Act Unit := do
  let s ← get
  match r.op, findTree s (r.arg 0).toNat with
  | .creuse, some t => if o.phase ≠ 0 then writeHdr t (setField (← readHdr t) 227 227 0)
  | _, _ => pure ()

/-- A write that Cairn makes when it stops: where it traps, or `skip` and its page is refused, it is not made. -/
def tryWrite (skip : Bool) (x : Act Unit) : Act Unit := fun s =>
  match x.run s with
  | .error (.trap _) => .ok ((), s)
  | .error (.page va w h) => if skip then .ok ((), s) else .error (.page va w h)
  | y => y

/-- An instruction's place before Cairn kept, at a page or none. -/
def cairnHold (r : UnitReq) (o : CairnOp) (s : State) : State :=
  (putOp s s.cur (some o)).setMe { (putOp s s.cur (some o)).me with wait := .unit r, wmode := s.mode }

/-- A page fault that Cairn meets for an instruction: it goes on from there (R366). -/
def cairnPage (r : UnitReq) (o : CairnOp) (va w : Nat) (h : Bool) (s : State) : State :=
  addFault (cairnHold { r with page := some va } o s) s.myKey s.myProg.asid va w h [s.waiter]

/-- An instruction that Cairn has stopped on PROT, poison or a refused page (R264, R373): its path record, its BUSY bit, the log and
ENGERR, once none of these writes need wait (R208). -/
def cairnStopped (r : UnitReq) (o : CairnOp) (cause addr : Nat) (skip : Bool) (s : State) : State :=
  let r := { r with page := none, dead := some (cause, addr) }
  if logReady (unitAt s) s then
    match (do tryWrite skip (stopPath r o); tryWrite skip (stopBusy r o) : Act Unit).run s with
    | .ok (_, u) => takeTrap (unitLog 4 cause addr (putOp u u.cur none)) ⟨cENGERR, wordN addr⟩
    | .error (.page va w h) => cairnPage r o va w h s
    | .error _ => cairnHold r o s
  else cairnHold r o s

/-- Runs up to `fuel` steps of the executing agent's instruction and, when it is over and `finish`, completes it. A page
fault is met by Cairn, and the instruction goes on from the step that faulted. TREEFULL is the tree's own trap (R258), POOLREF that of a
path record whose place a shrink has taken away (R329). -/
def cairnRun (r : UnitReq) (finish : Bool) : Nat → CairnOp → Act Fin
  | 0, o => fun s => .ok (.hold, cairnHold { r with page := none } o s)
  | fuel + 1, o => fun s =>
    let err (e : Stop) : Except Stop (Fin × State) :=
      match e with
      | .page va w h => .ok (.hold, cairnPage r o va w h s)
      | .trap t =>
        .ok (.hold, if t.cause = cTREEFULL ∨ t.cause = cPOOLREF then takeTrap (putOp s s.cur none) t
          else cairnStopped r o t.cause (t.tval.toNat % 2 ^ 56) false s)
      | _ => .ok (.hold, cairnHold { r with page := none } o s)
    match r.dead, s.me.refused with
    | some (cause, addr), x => .ok (.hold, cairnStopped r o cause addr x.isSome (s.setMe { s.me with refused := none }))
    | none, some va => .ok (.hold, cairnStopped r o cPAGE va false (s.setMe { s.me with refused := none }))
    | none, none =>
      if o.done then
        if finish then
          match (cairnFinish r o).run s with
          | .ok x => .ok x
          | .error e => err e
        else .ok (.hold, cairnHold { r with page := none } o s)
      else
        match (cairnStep r o).run s with
        | .ok (o', t) => cairnRun r finish fuel o' t
        | .error e => err e

/-- Steps enough for an instruction of a tree. -/
def cairnFuel (s : State) (n : Nat) : Nat :=
  match findTree s n with
  | some t => t.cap + 400
  | none => 4

/-- A tree on a page marked RO_SPAWN traps PROT at issue during a spawn (R262). -/
def treeRo (t : Tree) : Act Unit := do
  let s ← get
  if s.myProg.spawning then
    let last := t.region + 64 + 64 * t.cap - 1
    for k in List.range (last / 4096 + 1 - t.region / 4096) do
      let va := max t.region ((t.region / 4096 + k) * 4096)
      match (transE .none (va % 2 ^ 56)).run s with
      | .ok ((e, _), _) => trapIf (pteRoSpawn e) cPROT (wordN va)
      | .error _ => pure ()

/-- A Cairn instruction after its own operand checks: the tree number, then the reads at issue, then its first step or its
place before Cairn. -/
def cairnIssue (op : UnitOp) (d : Nat) (xs : List Word) (bs : Act (List Byte)) : Act Fin := do
  let s ← get
  let n := (xs.headD 0).toNat
  let done (c : Nat) : Act Fin := do
    markSide
    wrS d (status c 0 0)
    pure .adv
  if 15 < n then done kRANGE
  else
    match findTree s n with
    | none => done kNOSESS
    | some t =>
      if op ≠ .ctree then treeRo t
      let bytes ← bs
      let r : UnitReq := ⟨op, ← freshEng, d, xs, bytes, none, none⟩
      let o : CairnOp := { who := s.cur, tree := n, phase := 0, x := 0, path := [], par := [], epoch := t.epoch, claim := false,
                           done := false, code := 0, value := 0, fl := 0, out := [], junk := false }
      markSide
      cairnRun r true (if s.defer then 0 else cairnFuel s n) o

/-! ### The instructions -/

/-- Whether an FP32 pattern is finite. -/
def finite32 (x : Nat) : Bool := !(fp32.read x).isNan && !(fp32.read x).isInf

/-- BIND (R252): the header read by the issuer and checked. -/
def bindTree (d : Nat) (n region : Word) : Act Fin := do
  trapIf (decide (vaOf region % 64 ≠ 0)) cALIGN region
  let done (c v : Nat) : Act Fin := do
    wrS d (status c v 0)
    pure .adv
  markSide
  if 15 < n.toNat then done kRANGE 0
  else
    let va := vaOf region
    let (e, _) ← transE .read va
    let s ← get
    trapIf (pteRoSpawn e && s.myProg.spawning) cPROT (wordN va)
    let h := leNat (← readMem .read va 64)
    let s ← get
    let r := s.die (dieOf s.cur)
    let cap := bits h 31 0
    if (findTree s n.toNat).isSome then done kBUSY 0
    else if 16 ≤ r.trees.length then done kNOFREE 0
    else if cap = 0 ∨ 2 ^ 30 < cap ∨ hUsed h = 0 ∨ cap < hUsed h ∨ hUsed h ≤ hRoot h ∨ hBusy h = 1 ∨
        !(finite32 (bits h 159 128) && finite32 (bits h 191 160) && finite32 (bits h 223 192)) then done kRANGE 0
    else
      let t : Tree := { core := s.myKey.2, num := n.toNat, region := va, cap := cap, cpuct := bits h 159 128
                        fpu := bits h 191 160, vlw := bits h 223 192, alt := h.testBit 225, tft := h.testBit 226
                        epoch := hEpoch h, bad := false }
      set (s.setDie (dieOf s.cur) { r with trees := r.trees ++ [t] })
      done kOK (hUsed h)

/-- CTREE: its operation is a register (R252), so the two rows share one word. -/
def ctree (d a b : Nat) (s : State) : Out :=
  runInstr .tm [.w d, .grp a 2, .r b] (do
    let n ← rdS a
    let region ← rdS (a + 1)
    let op ← rdS b
    if op = 0 then bindTree d n region
    else if op ≠ 1 then do
      markSide
      wrS d (status kRANGE 0 0)
      pure .adv
    else cairnIssue .ctree d [n] (pure [])) s

def execCtreeBind (d a b : Nat) (s : State) : Out := ctree d a b s
def execCtreeUnbind (d a b : Nat) (s : State) : Out := ctree d a b s

/-- The master's path must be writable (R266). -/
def pathWritable (loc : Word) : Act Unit := do
  let s ← get
  if !isSlot s.cur then
    let _ ← transBytes .write (vaOf loc) 264

/-- CDESC (R255). -/
def execCdesc (d a b : Nat) (s : State) : Out :=
  runInstr .tm [.w d, .grp a 2, .r b] (do
    let n ← rdS a
    let start ← rdS (a + 1)
    let loc ← rdS b
    placeRange loc.toNat 264
    trapIf (decide (loc.toNat % 8 ≠ 0)) cALIGN loc
    cairnIssue .cdesc d [n, start, loc] (do
      pathWritable loc
      pure [])) s

/-- CEXP (R257). -/
def execCexp (d a b : Nat) (s : State) : Out :=
  runInstr .tm [.w d, .grp a 2, .grp b 2] (do
    let n ← rdS a
    let loc ← rdS (a + 1)
    let batch ← rdS b
    let k ← rdS (b + 1)
    placeRange loc.toNat 264
    placeRange batch.toNat (8 * k.toNat)
    trapIf (decide (loc.toNat % 8 ≠ 0)) cALIGN loc
    trapIf (decide (batch.toNat % 8 ≠ 0)) cALIGN batch
    cairnIssue .cexp d [n, loc, batch, k] (do
      let p ← placeRead loc.toNat 264
      let c ← if 256 < k.toNat then pure [] else placeRead batch.toNat (8 * k.toNat)
      pure (p ++ c))) s

/-- CBACK: its mode is a register (R259), so the two rows share one word. -/
def cback (d a b : Nat) (s : State) : Out :=
  runInstr .tm [.w d, .grp a 2, .grp b 2] (do
    let n ← rdS a
    let loc ← rdS (a + 1)
    let v ← rdS b
    let mode ← rdS (b + 1)
    placeRange loc.toNat 264
    trapIf (decide (loc.toNat % 8 ≠ 0)) cALIGN loc
    cairnIssue .cback d [n, loc, v, mode] (placeRead loc.toNat 264)) s

def execCbackBackup (d a b : Nat) (s : State) : Out := cback d a b s
def execCbackCancel (d a b : Nat) (s : State) : Out := cback d a b s

/-- CREAD (R260): a thread's group that names g registers traps PRIV. -/
def execCread (d a b : Nat) (s : State) : Out :=
  runInstr .tm [.w d, .grp a 2, .wgrp b 4] (do
    let n ← rdS a
    let i ← rdS (a + 1)
    cairnIssue .cread d [n, i, wordN b] (pure [])) s

/-- CREUSE (R261). -/
def execCreuse (d a : Nat) (s : State) : Out :=
  runInstr .tm [.w d, .grp a 2] (do
    let n ← rdS a
    let r ← rdS (a + 1)
    cairnIssue .creuse d [n, r] (pure [])) s

/-! ### Events -/

/-- Whether an operation is Cairn's. -/
def isCairn (op : UnitOp) : Bool := [UnitOp.ctree, .cdesc, .cexp, .cback, .cread, .creuse].contains op

/-- Cairn performs one step of an agent's instruction (R262). -/
def execCairnAtomicStep (who : AgentId) (s : State) : Out :=
  match (s.agent who).wait, findOp s who with
  | .unit r, some o =>
    if isCairn r.op && !o.done then
      unitEvent who r (fun t => settle t ((cairnRun { r with page := none } false 1 o).run t)) s
    else .next s
  | _, _ => .next s

/-- An instruction whose last step is performed completes (R262). -/
def execCairnOperationComplete (who : AgentId) (s : State) : Out :=
  match (s.agent who).wait, findOp s who with
  | .unit r, some o =>
    if isCairn r.op && o.done then
      unitEvent who r (fun t => settle t ((cairnRun { r with page := none } true 1 o).run t)) s
    else .next s
  | _, _ => .next s

end Sys2Proof.Machine
end

