-- ==== Sys2Proof/Machine/System.lean ====
section
/-! DEFINITION. Traps by instruction, the return from a handler, the control and status registers, FENCEI, HALT, TLBINV and
PROBE (02_encoding.md R55, 13_translation.md R345 to R347, 14_recovery.md R352 to R364). -/

namespace Sys2Proof.Machine

/-! ### TRAP, BKPT and TRET -/

/-- TRAP (R360): TPC holds the next word. -/
def execTrap (i : Nat) (s : State) : Out :=
  .next (takeTrapAt s ⟨cSWTRAP, wordN i⟩ (s.ctx.pc + 4))

/-- BKPT (R360). -/
def execBkpt (s : State) : Out := .next (takeTrap s ⟨cSWTRAP, 0x400⟩)

/-- TRET (R361, R42): TPC aligned; a frame to resume must stand at TPC. -/
def execTret (s : State) : Out :=
  runInstr .tm [] (do
    let c := s.ctx
    trapIf (decide (c.tpc.toNat % 4 ≠ 0)) cALIGN c.tpc
    if c.frm.getLsbD 12 then
      let w ← fetchWord c.tpc
      trapIf (decide (bits w 31 24 ≠ 0xFC)) cILLOP (wordN w)
    mods fun s =>
      let c := returnFromTrap s.ctx
      s.setMe { s.me with ctx := { c with instret := c.instret + 1 }, wait := .none }
    pure .hold) s

/-! ### The registers (R55, R362) -/

/-- The numbers of R55's table that program code may name or that only firmware may. -/
def csrListed (c : Nat) : Bool :=
  decide (c ≤ 0x00C) || decide (0x100 ≤ c ∧ c ≤ 0x106) || decide (0x108 ≤ c ∧ c ≤ 0x111) || decide (0x118 ≤ c ∧ c ≤ 0x11E) ||
    decide (0x200 ≤ c ∧ c ≤ 0x207) || decide (0x210 ≤ c ∧ c ≤ 0x212) || decide (0x300 ≤ c ∧ c ≤ 0x3FF)

/-- KSH0 to KSH7, RING, GANGID, POOLOCC0 to POOLOCC4 and POOLST, which a master does not have (R55). -/
def csrThreadOnly (c : Nat) : Bool := decide (0x108 ≤ c ∧ c ≤ 0x111) || decide (0x118 ≤ c ∧ c ≤ 0x11D)

/-- The RW fields of a register; none where it has none. No register has a W1C field. -/
def csrMask (c : Nat) : Option Word :=
  match c with
  | 0x100 => some 0x7F0FF
  | 0x101 => some (BitVec.allOnes 64)
  | 0x102 => some 0xFFFFFFFFFFFF
  | 0x103 => some (~~~3#64)
  | 0x104 => some 0x1FF
  | 0x105 => some (BitVec.allOnes 64)
  | 0x106 => some (BitVec.allOnes 64)
  | 0x110 => some 0x1FFFF
  | 0x111 => some 0xFF
  | 0x11D => some 0x20000
  | 0x11E => some 0x1FFF
  | 0x210 => some 0xFFF00000
  | 0x212 => some 0x1F
  | 0x300 => some 0xFFFFFFFFFF
  | _ =>
    if 0x108 ≤ c ∧ c ≤ 0x10F then some (BitVec.allOnes 64)
    else if 0x118 ≤ c ∧ c ≤ 0x11C then some (wordN (0x7FFF * 2 ^ 37))
    else if 0x200 ≤ c ∧ c ≤ 0x207 then some (BitVec.allOnes 64)
    else none

/-- The trap of naming a register (R44, R55): ILLOP before PRIV (R54). A service core has the registers of R377 and those
of every agent's own. -/
def csrTrap (who : AgentId) (c : Nat) (write : Bool) : Option Nat :=
  if !csrListed c || (write && (csrMask c).isNone && decide (c < 0x300)) then some cILLOP
  else
    match who with
    | .master .. => if csrThreadOnly c then some cILLOP else if 0x300 ≤ c then some cPRIV else none
    | .slot .. => if 0x200 ≤ c then some cPRIV else none
    | .service .. => if csrThreadOnly c ∨ (0x200 ≤ c ∧ c ≠ 0x300) then some cILLOP else none

/-- A thread's value, zero on the master (R55). -/
def threadOnly (s : State) (v : Nat) : Word := if isSlot s.cur then wordN v else 0

/-- BUDGET (R307). -/
def csrBudget (s : State) : Word :=
  let r := s.die (dieOf s.cur)
  let p := s.myProg
  let zone := if isSlot s.cur then zoneOf (spurOf s.cur) else 0
  let held := if isSlot s.cur then p.heldZones.contains zone else !p.heldZones.isEmpty
  wordN (fieldAt (min (r.power / 8) 255) 40 + fieldAt zone 32 + fieldAt (mgateOf r.level) 16 + fieldAt (if held then 1 else 0) 8 +
    fieldAt r.level 4 + p.eclass)

/-- POOLST (R324). -/
def csrPoolst (s : State) : Word :=
  let p := s.spur s.mySpurKey
  let n := p.notice
  wordN (fieldAt n.seq 48 + fieldAt n.target 42 + fieldAt (min n.unack 4095) 24 + poolstBits p s.me.outer s.me.frames s.ctx.wake +
    fieldAt (p.outBanks.length % 64) 2 + if n.pending then 1 else 0)

/-- POOLOCC of a role code 1 to 5 (R332). -/
def csrPoolocc (s : State) (r : Nat) : Word :=
  let p := s.spur s.mySpurKey
  wordN (fieldAt (tabGet p.hwm r 0) 37 + fieldAt (p.live (roleOf r)) 22 + (p.banksOf (roleOf r)).length)

/-- QUOTA (R303). -/
def csrQuota (s : State) : Word :=
  let p := s.myProg
  let held := p.quota.filter fun n => !(s.spur (dieOf s.cur, n)).fenced
  wordN (fieldAt (p.quota.headD 0) 48 + fieldAt held.length 40 + fieldAt p.qmax 32 + fieldAt p.qmin 24)

/-- SPST (R269). -/
def csrSpst (s : State) : Word :=
  let p := s.myProg
  wordN (fieldAt (p.lost.getD p.lostix 0) 32 + fieldAt p.lostix 20 + fieldAt p.jval 12 + fieldAt p.rcode 8 +
    fieldAt (if p.lostov then 1 else 0) 2 + p.sstate)

/-- The value of a register of the executing agent. -/
def csrRead (s : State) (c : Nat) : Word :=
  let x := s.ctx
  let slot : Nat × Nat := match s.cur with
    | .slot _ _ co k => (co, k)
    | _ => (0, 0)
  let r := s.die (dieOf s.cur)
  match c with
  | 0x000 => threadOnly s x.tid.toNat
  | 0x001 => threadOnly s x.tcount.toNat
  | 0x002 => threadOnly s x.spwid.toNat
  | 0x003 => threadOnly s x.parent.toNat
  | 0x004 => threadOnly s x.nlevel.toNat
  | 0x005 => wordN slot.2
  | 0x006 => wordN slot.1
  | 0x007 => wordN (spurOf s.cur)
  | 0x008 => wordN (dieOf s.cur)
  | 0x009 => Config.serial ++ BitVec.ofNat 32 (s.node % 2 ^ 18)
  | 0x00A => wordN (if isMaster s.cur then r.mcycle else r.cycle)
  | 0x00B => x.instret
  | 0x00C => csrBudget s
  | 0x100 => x.fcsr
  | 0x101 => x.srseed
  | 0x102 => x.wlim
  | 0x103 => x.tvec
  | 0x104 => x.tcause
  | 0x105 => x.tval
  | 0x106 => x.tpc
  | 0x110 => x.ring
  | 0x111 => x.gangid
  | 0x11D => csrPoolst s
  | 0x11E => x.frm
  | 0x210 => csrSpst s
  | 0x211 => csrQuota s
  | 0x212 => wordN s.myProg.spflags.toNat
  | 0x300 => wordN (fieldAt r.errLimit 32 + r.errWindow)
  | _ =>
    if 0x108 ≤ c ∧ c ≤ 0x10F then tabGet x.ksh (c - 0x108) 0
    else if 0x118 ≤ c ∧ c ≤ 0x11C then csrPoolocc s (c - 0x117)
    else if 0x200 ≤ c ∧ c ≤ 0x207 then tabGet s.myProg.jres (c - 0x200) 0
    else 0

/-- The state with the RW fields of a register holding those of a value. -/
def csrSet (s : State) (c : Nat) (v : Word) : State :=
  let x := s.ctx
  let p := s.myProg
  match c with
  | 0x100 => s.setCtx { x with fcsr := v }
  | 0x101 => s.setCtx { x with srseed := v }
  | 0x102 => s.setCtx { x with wlim := v }
  | 0x103 => s.setCtx { x with tvec := v }
  | 0x104 => s.setCtx { x with tcause := v }
  | 0x105 => s.setCtx { x with tval := v }
  | 0x106 => s.setCtx { x with tpc := v }
  | 0x110 => s.setCtx { x with ring := v }
  | 0x111 => s.setCtx { x with gangid := v }
  | 0x11D => s.setCtx { x with wake := v.getLsbD 17 }
  | 0x11E => s.setCtx { x with frm := v }
  | 0x210 => s.setMyProg { p with lostix := bits v.toNat 31 20 }
  | 0x212 => s.setMyProg { p with spflags := BitVec.ofNat 5 v.toNat }
  | 0x300 =>
    s.setDie (dieOf s.cur) { s.die (dieOf s.cur) with errLimit := bits v.toNat 39 32, errWindow := v.toNat % 2 ^ 32 }
  | _ =>
    if 0x118 ≤ c ∧ c ≤ 0x11C then
      let q := s.spur s.mySpurKey
      s.setSpur s.mySpurKey { q with hwm := tabSet q.hwm (c - 0x117) (bits v.toNat 51 37) }
    else if 0x200 ≤ c ∧ c ≤ 0x207 then s.setMyProg { p with jres := tabSet p.jres (c - 0x200) v }
    else s

/-- A write of the RW fields (R362): FCSR refuses RM 6 and 7 (R78), a KSH register an invalid shape (R138). -/
def csrWrite (c : Nat) (f : Word → Word) : Act Unit := do
  let s ← get
  match csrMask c with
  | none => trap cILLOP (wordN s.iw)
  | some m =>
    let old := csrRead s c
    let v := (old &&& ~~~m) ||| (f old &&& m)
    trapIf (decide (c = 0x100 ∧ 6 ≤ bits v.toNat 7 5)) cILLOP (wordN s.iw)
    if 0x108 ≤ c ∧ c ≤ 0x10F then wrKsh (c - 0x108) v else set (csrSet s c v)

/-- A CSR instruction: the traps of its number, then those of its register, then its effect. -/
def csrInstr (c : Nat) (write : Bool) (os : List Opd) (body : Act Fin) (s : State) : Out :=
  match csrTrap s.cur c write with
  | some t => .next (takeTrap s ⟨t, wordN s.iw⟩)
  | none => runInstr .tm os body s

def execCsrr (d c : Nat) (s : State) : Out :=
  csrInstr c false [.w d] (do
    wrS d (csrRead s c)
    pure .adv) s

def execCsrw (a c : Nat) (s : State) : Out :=
  csrInstr c true [.r a] (do
    let x ← rdS a
    csrWrite c fun _ => x
    pure .adv) s

def execCsrs (a c : Nat) (s : State) : Out :=
  csrInstr c true [.r a] (do
    let x ← rdS a
    csrWrite c fun old => old ||| x
    pure .adv) s

def execCsrc (a c : Nat) (s : State) : Out :=
  csrInstr c true [.r a] (do
    let x ← rdS a
    csrWrite c fun old => old &&& ~~~x
    pure .adv) s

/-! ### FENCEI and HALT -/

/-- FENCEI (R363): the earlier stores of the issuer are performed; then the words it has fetched ahead are discarded, and in a thread
those of the spur's instruction buffer. -/
def execFencei (s : State) : Out :=
  runInstr .tm [] (do
    drainFor fun p => match p.kind with
      | .store _ => true
      | .red .. => false
    mods fun s =>
      let s := s.setMe { s.me with ahead := [] }
      if isSlot s.cur then s.setSpur s.mySpurKey { s.spur s.mySpurKey with ibuf := [] } else s
    pure .adv) s

/-- HALT (R364): it waits for an outstanding spawn as JOIN does, then the program ends. -/
def execHalt (s : State) : Out :=
  runInstr .m [] (do
    let p ← gets State.myProg
    if p.spawning && !joinReady p then mods fun s => s.setMe { s.me with wait := .halt, wmode := s.mode }
    else mods fun s => startEnd s s.myKey haltEnd
    pure .hold) s

/-! ### TLBINV and PROBE -/

/-- The control word of TLBINV (R346). -/
structure InvCtl where
  wbl1 : Bool
  allas : Bool
  allva : Bool
  asid : Nat
  deriving DecidableEq, Repr

/-- Its fields. -/
def invCtl (w : Nat) : InvCtl := ⟨w.testBit 18, w.testBit 17, w.testBit 16, w % 2 ^ 16⟩

/-- Whether an invalidation covers an address of an address space, in a page of 2^size bytes: the address it names lies in
the page. -/
def InvCtl.covers (c : InvCtl) (va asid page size : Nat) : Bool :=
  (c.allas || asid == c.asid) && (c.allva || decide (va % 2 ^ 48 / 2 ^ size = page % 2 ^ 48 / 2 ^ size))

/-- Whether an access of some bytes may have used a removed entry: one of them may lie in a page named, of whatever size. -/
def InvCtl.coversBytes (c : InvCtl) (va asid at' n : Nat) : Bool := c.covers va asid at' 30 || c.covers va asid (at' + n - 1) 30

/-- Whether an outstanding access of an agent may. -/
def InvCtl.coversPend (c : InvCtl) (s : State) (who : AgentId) (va : Nat) (p : Pend) : Bool :=
  c.coversBytes va (s.prog (s.progKey who)).asid (vaOf p.ea) p.keys.length

/-- Outstanding accesses that a removed entry may have served are performed (R346): those of every agent to the pages. -/
def drainCovered (s : State) (c : InvCtl) (va : Nat) : State :=
  s.agents.foldl (fun t (who, _) => drainWhere t who (c.coversPend t who va)) s

/-- Whether an atomic or a full-empty operation that an agent waits for at its home may (R233). -/
def InvCtl.coversWait (c : InvCtl) (s : State) (who : AgentId) (va : Nat) : Bool :=
  let asid := (s.prog (s.progKey who)).asid
  match (s.agent who).wait with
  | .claim r => c.coversBytes va asid (vaOf r.ea) 8
  | .granule r => c.coversBytes va asid (vaOf r.tval) 8
  | _ => false

/-- Whether something that used a removed entry is not performed yet (R346): an outstanding access, a line an engine owns, a request in
the queue of a claimed word. -/
def stillUsed (s : State) (c : InvCtl) (va : Nat) : Bool :=
  (s.agents.any fun (who, a) => a.pend.any (c.coversPend s who va)) || (s.owned.any fun o => c.coversBytes va o.asid (o.va * 64) 64) ||
    s.claims.any fun x => x.2.any fun e => match e with
      | .amo who => c.coversWait s who va
      | .fe who => c.coversWait s who va
      | .op _ _ => false

/-- Whether a physical key lies in the page of one of some entries. -/
def inPages (gone : List TlbEntry) (key : Nat) : Bool :=
  gone.any fun t => key / 2 ^ t.size == leafKey t.entry t.size t.page / 2 ^ t.size

/-- The waiters of granules in the pages named issue again, to be translated afresh, but for one whose address still has the same page
and no removed entry. -/
def retranslate (c : InvCtl) (va : Nat) (gone : List TlbEntry) (s : State) : State :=
  let out (x : Granule × AgentId) : Bool :=
    match x.1, (s.agent x.2).wait with
    | .mem k, .granule r =>
      c.coversWait s x.2 va && (inPages gone k || keyAt s (s.prog (s.progKey x.2)).asid (vaOf r.tval) != some k)
    | _, _ => false
  ((s.feWait.filter out).map (·.2)).foldl (fun t who => (feWithdraw t who).setAgent who { t.agent who with wait := .again }) s

/-- The L1 copies of the lines of the named pages written back and dropped (R346): those of the pages the entries map now. -/
def dropL1 (s : State) (c : InvCtl) (va : Nat) : State :=
  if c.allva then { s with l1 := [] }
  else
    let spaces := if c.allas then s.roots.map (·.1) else [c.asid]
    let pages := spaces.filterMap fun a =>
      match walk s a (va % 2 ^ 48) with
      | .leaf e size => some (leafKey e size (va % 2 ^ 48), size)
      | _ => none
    { s with l1 := s.l1.filter fun l => !(pages.any fun p => l.line * 64 / 2 ^ p.2 == p.1 / 2 ^ p.2) }

/-- TLBINV's effect (R346), once everything that used a removed entry is performed. -/
def tlbInv (c : InvCtl) (va : Nat) (gone : List TlbEntry) (s : State) : State :=
  let s := retranslate c va gone s
  let s := if c.wbl1 then dropL1 s c va else s
  { s with
    tlb := s.tlb.filter fun t => !c.covers va t.asid t.page t.size
    l1 := if c.wbl1 then s.l1.filter fun l => !inPages gone (l.line * 64) else s.l1 }

/-- An invalidation of an address under a control word (R346): it waits until every access and engine that used a removed entry has
been performed. -/
def invalidate (va w : Nat) : Act Unit := do
  let c := invCtl w
  let gone ← gets fun s => s.tlb.filter fun t => c.covers va t.asid t.page t.size
  mods fun s => drainCovered s c va
  let s ← get
  if stillUsed s c va then throw .stall
  mods (tlbInv c va gone)

/-- TLBINV (R346). -/
def execTlbinv (a b : Nat) (s : State) : Out :=
  runInstr .p [.r a, .r b] (do
    let va := (← rdS a).toNat
    invalidate va (← rdS b).toNat
    pure .adv) s

/-- SIZE of a leaf (R347). -/
def probeSize (size : Nat) : Nat :=
  match size with
  | 12 => 0
  | 16 => 1
  | 21 => 2
  | _ => 3

/-- The word PROBE gives for a leaf (R347). -/
def probeWord (e size : Nat) : Word :=
  let b (x : Bool) (k : Nat) : Nat := if x then 2 ^ k else 0
  wordN (fieldAt (pteSpace e) 12 + (if pteSpace e = 0 then fieldAt (pteHome e) 10 else 0) + fieldAt (probeSize size) 7 +
    b (pteMigrating e) 6 + b (pteStream e) 5 + b (pteRoSpawn e) 4 + b (pteX e) 3 + b (pteW e) 2 + b (pteR e) 1 + 1)

/-- PROBE (R347): no access, no trap of its own. A walk that meets poison gives an unspecified word (log 10). -/
def execProbe (d a : Nat) (s : State) : Out :=
  runInstr .tm [.w d, .r a] (do
    let va := vaOf (← rdS a)
    let s ← get
    let who := s.cur
    let asid := s.myProg.asid
    if 2 ^ 48 ≤ va then wrS d 0
    else
      match tlbFind s (dieOf who) (tlbSpur who) asid va with
      | some t => wrS d (probeWord t.entry t.size)
      | none =>
        match walk s asid va with
        | .leaf e size =>
          if !pteMigrating e then set (tlbFill s (dieOf who) (tlbSpur who) asid va e size)
          wrS d (probeWord e size)
        | .poison => wrS d (Config.freeWord (← freshFree))
        | _ => wrS d 0
    pure .adv) s

end Sys2Proof.Machine
end

