-- ==== Sys2Proof/Machine/Answer.lean ====
section
/-! DEFINITION. Answers of the mailbox (15_firmware_links.md R388), and the end of the waits for a context save
(14_recovery.md R365). -/

namespace Sys2Proof.Machine

/-- Whether a mailbox request is outstanding (R388). -/
def mbPending (s : State) : Bool := s.mailbox.busy

/-- n bytes of the request from an offset, as a number. -/
def mbArg (s : State) (o n : Nat) : Nat := leNat ((s.mailbox.sub.drop o).take n)

/-- CODE of the request. -/
def mbCode (s : State) : Nat := mbArg s 0 2

/-- The answers of R388. -/
def aOK : Nat := 0
def aREFUSED : Nat := 1
def aRETRY : Nat := 2
def aBUSY : Nat := 3
def aRANGE : Nat := 4
def aVERSION : Nat := 5
def aABORTED : Nat := 6
def aUNKNOWN : Nat := 7

/-- The request answered: MBRSP, MBDONE and vector 0 (R388). -/
def mbAnswer (ans : Nat) (res : List Byte) (s : State) : State :=
  let rsp := leBytes 2 (mbCode s) ++ leBytes 1 ans ++ List.replicate 5 0 ++ res
  { s with
    mailbox := { s.mailbox with
      rsp := (rsp ++ List.replicate 256 0).take 256, done := s.mailbox.tag, busy := false, taken := false }
    msix := s.msix ++ [0] }

/-- Whether the outstanding request is a CTXSAVE of a master core. -/
def mbSaves (s : State) (k : Nat × Nat) : Bool :=
  mbPending s && mbCode s == 0x09 && mbArg s 8 1 == k.1 && mbArg s 9 1 == k.2

/-- A KILL of a program that firmware has taken up is answered once the program has ended (R389). -/
def killOver (k : Nat × Nat) (s : State) : State :=
  if mbPending s && s.mailbox.taken && mbCode s == 0x08 && mbArg s 8 1 == k.1 && mbArg s 9 1 == k.2 then mbAnswer aOK [] s else s

/-- The answer for an outcome of R323. -/
def codeAnswer (code : Nat) : Nat := if code = kOK then aOK else if code = kRANGE then aRANGE else aBUSY

/-- A context save is over, with a code of R323: the service core that waits for it goes on, a CTXSAVE is answered. -/
def saveOver (k : Nat × Nat) (code : Nat) (s : State) : State :=
  let ws := (s.agents.filter fun (a, r) => isService a && dieOf a == k.1 && r.live && r.wait == .save k.2).map (·.1)
  let s := ws.foldl (fun t a => asAgent a .plain retire t) s
  if mbSaves s k then mbAnswer (codeAnswer code) (leBytes 1 code) s else s

end Sys2Proof.Machine
end

