-- ==== Sys2Proof/Machine/Packets.lean ====
section
/-! DEFINITION. Started packets of the host queues: their accesses, their completion signals, and the errors of their queues
(11_scheduling.md R295 to R298, 15_firmware_links.md R390). -/

namespace Sys2Proof.Machine

/-- A host queue by its die and number. -/
def State.queue (s : State) (k : Nat × Nat) : Queue := tabGet s.queues k Queue.blank

/-- The state with a host queue replaced. -/
def State.setQueue (s : State) (k : Nat × Nat) (q : Queue) : State := { s with queues := tabSet s.queues k q }

/-- Translates bytes for the command processor of a die in an address space (R297, R298, R348, R391): without a root it ends in PROT,
whatever a TLB holds (R338). -/
def qTrans (d asid : Nat) (n : Need) (va len : Nat) : Act (List Nat) := do
  let root ← gets fun s => tabGet s.roots asid 0
  trapIf (decide (root % 2 = 0)) cPROT (wordN (va % 2 ^ 56))
  (span va len).mapM fun a => do
    let (e, k) ← transFor d none asid false n (a % 2 ^ 56)
    let s ← get
    trapIf (!s.reach (homeOf e k)) cLINKERR (wordN (a % 2 ^ 56))
    pure k

/-- Reads bytes for the command processor. -/
def qRead (d asid va len : Nat) : Act (List Byte) := do
  let keys ← qTrans d asid .read va len
  awaitOwner keys
  poisonTrap va keys
  let s ← get
  let (bs, s) := maskSpill s keys (memGets s.mem keys)
  set (touchL1 s (.slot d 0 0 0) false false keys)
  pure bs

/-- Writes bytes for the command processor, as one write at their homes; a claimed word is waited for (R233). -/
def qWrite (d asid va : Nat) (bs : List Byte) : Act Unit := do
  let keys ← qTrans d asid .write va bs.length
  awaitOwner keys
  let s ← get
  if claimedWord s keys then throw .stall
  let s := touchL1 s (.slot d 0 0 0) false true keys
  set { s with mem := memSets s.mem keys bs }

/-- A queue enters ERROR (R296): ESTAT, and the QERROR entry, with the cause and the address of a failed access (R390). -/
def qError (k : Nat × Nat) (estat cause addr : Nat) (s : State) : State :=
  let q := s.queue k
  pushRing (s.setQueue k { q with state := .error, estat := estat, held := none }) k.1
    (ringEntry 0x11 estat k.2 k.1 0 q.head addr q.asid 0 cause)

/-- A started packet's access failed beyond the fault service: the packet stops and never completes, and its queue, unless DISABLED,
enters ERROR with ESTAT 5 (R296, R298). -/
def packetFault (k : Nat × Nat) (num cause addr : Nat) (s : State) : State :=
  let q := s.queue k
  let s := s.setQueue k { q with started := q.started.map fun p =>
    if p.num = num then { p with failed := true, page := none, refused := none } else p }
  let s := s.logWalk k.1 q.asid cause addr
  match q.state with
  | .ready => qError k 5 cause addr s
  | .blocked => qError k 5 cause addr s
  | .fetchFault => qError k 5 cause addr s
  | _ => s

/-- A packet replaced. -/
def putPacket (k : Nat × Nat) (p : Packet) (s : State) : State :=
  let q := s.queue k
  s.setQueue k { q with started := q.started.map fun x => if x.num = p.num then p else x }

/-- The completion signal (R297): ST.D, or RED.ADD.D, which host memory refuses (R237). -/
def signal (d : Nat) (p : Packet) : Act Unit := do
  if p.scope ≠ 0 then
    if p.add then
      let keys ← qTrans d p.asid .atomic p.sigAddr 8
      trapIf (keys.any fun k => keySpace k == 1) cPROT (wordN p.sigAddr)
      poisonTrap p.sigAddr keys
      awaitOwner keys
      let s ← get
      if claimedWord s keys then throw .stall
      let s := touchL1 s (.slot d 0 0 0) false true keys
      set { s with mem := memSets s.mem keys (leBytes 8 ((leNat (memGets s.mem keys) + p.sigVal) % 2 ^ 64)) }
    else qWrite d p.asid p.sigAddr (leBytes 8 p.sigVal)

/-- The packets that a queue's reset leaves: those that run to their end by themselves (R296, R298). A failed one is forgotten, and so is
a wait that is not over. -/
def resetStarted (l : List Packet) : List Packet := l.filter fun p => !p.failed && (decide (p.kind < 4) || p.done)

/-- The packets a queue that is enabled again still has: behind a failed one no wait can end. -/
def enabledStarted (l : List Packet) : List Packet := if l.any (·.failed) then resetStarted l else l

/-- A queue whose wait is over is READY again (R296). -/
def unblock (k : Nat × Nat) (s : State) : State :=
  let q := s.queue k
  match q.state with
  | .blocked => if q.started.any fun p => decide (4 ≤ p.kind) then s else s.setQueue k { q with state := .ready }
  | _ => s

/-- What becomes of an access of a started packet: on a page fault it waits, on a trap it fails (R298). -/
def packetAct (k : Nat × Nat) (p : Packet) (act : Act Unit) (go : State → State) (s : State) : State :=
  match p.refused with
  | some va => packetFault k p.num cPAGE va s
  | none =>
    if p.page.isSome || p.failed then s
    else
      match act.run s with
      | .ok (_, t) => go t
      | .error (.page va acc h) => addFault (putPacket k { p with page := some va } s) (k.1, 0) p.asid va acc h [.queue k.1 k.2]
      | .error (.trap t) => packetFault k p.num t.cause (t.tval.toNat % 2 ^ 56) s
      | .error _ => s

/-- A packet whose work is done completes when its signal is written (R297, R298). -/
def signalPacket (k : Nat × Nat) (p : Packet) (s : State) : State :=
  let p := { p with done := true }
  let s := putPacket k p s
  packetAct k p (signal k.1 p) (fun t =>
    let q := t.queue k
    unblock k (t.setQueue k { q with started := q.started.filter fun x => x.num ≠ p.num })) s

/-- A FENCE or COMPLETE that every earlier packet has completed before completes, a COMPLETE once its message is sent
(R298). It blocks its queue, so it is the last packet started. -/
def settleQueue (k : Nat × Nat) (s : State) : State :=
  match (s.queue k).started with
  | [p] =>
    if p.done ∨ p.failed then s
    else if p.kind = 5 then signalPacket k p s
    else if p.kind = 6 then signalPacket k p { s with msix := s.msix ++ [p.x] }
    else s
  | _ => s

/-- A packet's work is done: its signal, then what waits for it. -/
def finishPacket (k : Nat × Nat) (num : Nat) (s : State) : State :=
  match (s.queue k).started.find? fun p => p.num == num with
  | some p => settleQueue k (signalPacket k p s)
  | none => s

/-- Packets of a queue whose work is done try their signals again. -/
def retrySignals (k : Nat × Nat) (s : State) : State :=
  (s.queue k).started.foldl (fun t p => if p.done && !p.failed && p.page.isNone then finishPacket k p.num t else t) s

end Sys2Proof.Machine
end

