-- ==== Sys2Proof/Machine/End.lean ====
section
/-! DEFINITION. The end of a program (14_recovery.md R364, R370). -/

namespace Sys2Proof.Machine

/-- Whether an agent is a program's: its master, or a thread of it in a slot. -/
def inProgram (k : Nat × Nat) (x : AgentId × Agent) : Bool :=
  x.2.live && (x.1 == .master k.1 k.2 || (isSlot x.1 && dieOf x.1 == k.1 && x.2.core == k.2))

/-- The agents of a program. -/
def agentsOf (s : State) (k : Nat × Nat) : List AgentId := (s.agents.filter (inProgram k)).map (·.1)

/-- Whether a granted claim is an agent's (R234). -/
def holdsClaim (s : State) (who : AgentId) : Bool :=
  s.claims.any fun (w, q) => s.granted.contains w && (match q with
    | .amo a :: _ => a == who
    | _ => false)

/-- What a stop of an agent waits for (R265, R234, R233): its granted claim, its stores in a claimed word's queue, its
instruction at Cairn. -/
def agentBusy (s : State) (who : AgentId) : Bool :=
  holdsClaim s who || (s.agent who).pend.any Pend.queued || (s.die (dieOf who)).cairn.any fun o => o.who == who

/-- Requests of agents leave the queues of claimed words (R234) and of granules (R231), and wait no more before a full table (R246). -/
def withdrawQueues (s : State) (ws : List AgentId) : State :=
  let keep (e : ClaimEntry) : Bool := match e with
    | .amo a => !ws.contains a
    | .fe a => !ws.contains a
    | .op _ _ => true
  { s with
    claims := (s.claims.map fun (w, q) => (w, q.filter keep)).filter fun x => !x.2.isEmpty
    feWait := s.feWait.filter fun x => !ws.contains x.2
    ports := s.ports.filter fun x => !ws.contains x.2 }

/-- The destinations of an agent's merge or gate instruction (R208). -/
def unitDests (s : State) (who : AgentId) (r : UnitReq) : List (Nat × Nat) :=
  match r.op with
  | .mgfin =>
    match (s.die (dieOf who)).arete.find? fun x => x.core == (s.progKey who).2 && x.num == (r.xs.headD 0).toNat with
    | some x =>
      match finArrays x r.bytes with
      | some (rp, ci, vs, n) => mergeDests x rp ci vs n
      | none => []
    | none => []
  | .gtopk => gateDests r
  | .ghist => gateDests r
  | .gperm => gateDests r
  | _ => []

/-- A unit's operation of an agent stopped (R210): its destination lines released, their bytes unspecified. -/
def stopUnit (s : State) (who : AgentId) : State :=
  match (s.agent who).wait with
  | .unit r =>
    let g : EngAt := ⟨dieOf who, none, (s.progKey who).2, none⟩
    let dests := unitDests s who r
    let s := if r.dead.isSome then s else disown r.id (spoil g r.id dests s)
    let d := s.die (dieOf who)
    s.setDie (dieOf who) { d with gateQ := d.gateQ.filter (· ≠ who) }
  | _ => s

/-- The commands of a program's copy and gather engines, those left on a fenced spur with them (R379). -/
def cmdsOf (s : State) (k : Nat × Nat) : List EngCmd :=
  ((s.spurs.filter fun x => x.1.1 == k.1).flatMap fun x => x.2.copyQ ++ x.2.gathQ).filter fun c => c.core == k.2

/-- A command stopped with its program (R210): it leaves its queue, its destination unspecified unless it is written. -/
def stopCmd (s : State) (c : EngCmd) : State := c.leave (if c.data then s else c.spoil s)

/-- What a program holds in a die's units given up: sessions (R175), bindings (R252), descriptors, gang records. -/
def abandonUnits (s : State) (k : Nat × Nat) : State :=
  let r := s.die k.1
  let q := (s.prog k).quota
  s.setDie k.1 { r with
    scree := r.scree.filter fun d => d.core ≠ k.2
    arete := r.arete.filter fun x => x.core ≠ k.2
    trees := r.trees.filter fun t => t.core ≠ k.2
    cairn := r.cairn.filter fun o => s.progKey o.who ≠ k
    gangs := r.gangs.filter fun g => !(g.spurs.any q.contains)
    extents := r.extents.filter fun x => x.core ≠ k.2 }

/-- The exit record (R364, R370) over the first four words of the header; reserved bits are zero (R3). -/
def exitWords (r : EndRec) (w0 w1 w2 w3 : Nat) : List Nat :=
  let w0 := setField (setField (setField (setField w0 15 0 1) 23 16 3) 39 32 r.reason) 63 56 0
  if r.reason = 1 ∨ r.reason = 2 ∨ r.reason = 5 then
    [setField w0 47 40 r.cause, r.tval.toNat, r.tpc.toNat, r.tid + r.spur * 2 ^ 32]
  else [w0, w1, w2, setField w3 63 40 0]

/-- The exit record written through a program's translation. -/
def writeExit (k : Nat × Nat) (r : EndRec) : Act Unit := do
  let ctx ← gets fun s => (s.prog k).ctx
  let ws ← (List.range 4).mapM fun i => do pure (leNat (← partRead k (ctx + 8 * i) 8))
  partWrite k ctx ((exitWords r (ws.getD 0 0) (ws.getD 1 0) (ws.getD 2 0) (ws.getD 3 0)).flatMap (leBytes 8))

/-- The program's master core and spurs freed; its agents gone. The weight of one that requested in the governor's window stays in W
(R306). -/
def freeProgram (s : State) (k : Nat × Nat) : State :=
  let s := settleFences k s
  let p := s.prog k
  let r := s.die k.1
  let s := if p.winAsked then s.setDie k.1 { r with goneWeight := r.goneWeight + p.weight } else s
  let s := takeSpurs s k p.quota
  let s := { s with agents := s.agents.map fun x => if inProgram k x then (x.1, Agent.blank) else x }
  s.setProg k Prog.blank

/-- The program gone: its resources freed, its LAUNCH complete, the host told unless it halted (R364, R390). -/
def leaveProgram (s : State) (k : Nat × Nat) (r : EndRec) : State :=
  let p := s.prog k
  let s := freeProgram s k
  let s := if p.saving.isSome then saveOver k kBUSY s else s
  let s := if r.reason = 0 then s else pushRing s k.1 (ringEntry 0x03 0 0 k.1 0 0 p.ctx p.asid k.2 r.reason)
  killOver k (finishPacket (p.qdie, p.queue) p.ticket s)

/-- Everything of an ending program brought to rest (R364): stores performed, queues left, units and engines stopped. -/
def quietProgram (s : State) (k : Nat × Nat) : State :=
  let ws := agentsOf s k
  let s := withdrawQueues s ws
  let s := ws.foldl stopUnit s
  let s := (cmdsOf s k).foldl stopCmd s
  let s := ws.foldl drainAll s
  abandonUnits s k

/-- Whether every access of a program at rest is performed (R203): none waits for another program's engine or claim. -/
def atRest (s : State) (k : Nat × Nat) : Bool :=
  (agentsOf s k).all (fun a => (s.agent a).pend.isEmpty) && (s.prog k).runList.all fun x => x.agent.pend.isEmpty

/-- The die whose fault service takes a fault of an exit record: the program's own, or the lowest in service where that is out of
service (DESIGN CHOICE, log 28). -/
def serviceDie (s : State) (d : Nat) : Nat :=
  if (s.die d).state = .up then d else ((List.range 4).find? fun x => (s.die x).state == .up).getD d

/-- The end of a program goes on (R364): it waits for what its agents may not leave, for the last of their accesses, and for the page of
its record; until all of it can be done nothing of it is. -/
def concludeEnd (k : Nat × Nat) (s : State) : State :=
  match (s.prog k).ending with
  | none => s
  | some r =>
    if r.page.isSome ∨ (s.die k.1).state = .lost ∨ (agentsOf s k).any (agentBusy s) then s
    else
      let t := quietProgram s k
      if !atRest t k then s
      else if r.skip then leaveProgram t k r
      else
        match (writeExit k r).run t with
        | .ok (_, u) => leaveProgram u k r
        | .error (.page va acc h) =>
          addFault (s.setProg k { s.prog k with ending := some { r with page := some va } }) (serviceDie s k.1, k.2)
            (s.prog k).asid va acc h [.ending k.1 k.2]
        | .error .stall => s
        | .error _ => leaveProgram t k r

end Sys2Proof.Machine
end

