-- ==== Sys2Proof/Machine/Queues.lean ====
section
/-! DEFINITION. The command processor: fetching, choosing and starting the packets of host queues (11_scheduling.md R295 to
R301, 15_firmware_links.md R391). -/

namespace Sys2Proof.Machine

/-! ### Fetching -/

/-- The packet at the head of a queue (R295), as its 512 bits: fetched once, and kept until it starts (R391). -/
def fetchPacket (k : Nat × Nat) : Act Nat := do
  let q ← gets fun s => s.queue k
  match q.held with
  | some w => pure w
  | none =>
    let w := leNat (← qRead k.1 q.asid ((q.base + 64 * (q.head % 2 ^ q.lsize)) % 2 ^ 56) 64)
    mods fun s => s.setQueue k { s.queue k with held := some w }
    pure w

/-- Fields of a packet (R297). -/
def pkKind (w : Nat) : Nat := bits w 7 0
def pkBarrier (w : Nat) : Bool := w.testBit 10

/-- Whether a program runs, or a queue has a packet to start (R400). -/
def busy (s : State) : Bool :=
  s.progs.any (fun p => p.2.running) || s.queues.any fun q => q.2.state == .ready && q.2.tail != q.2.head

/-- Whether a die's command processor works: the device is on, the die in service. -/
def servesDie (s : State) (d : Nat) : Bool :=
  decide (d < 4) && (s.die d).state == .up && (s.power == .active || s.power == .idle)

/-- Whether a queue has a head packet that its state lets the command processor fetch (R296, R298). -/
def canFetch (s : State) (k : Nat × Nat) : Bool :=
  let q := s.queue k
  servesDie s k.1 && decide (k.2 < 64) && (q.state == .ready || q.state == .blocked) && q.tail != q.head && q.page.isNone &&
    q.refused.isNone && q.started.all fun p => decide (p.kind < 4)

/-- The head packet of a queue, where it can be fetched now. -/
def headPacket (s : State) (k : Nat × Nat) : Option Nat :=
  if canFetch s k then
    match (fetchPacket k).run s with
    | .ok (w, _) => some w
    | .error _ => none
  else none

/-! ### Validity (R297 to R299) -/

/-- The bank counts a LAUNCH asks for (R299). -/
def pkBanks (w : Nat) : List Nat :=
  if w.testBit 382 then [8, 8, 4, 8, 4] else [bits w 357 352, bits w 363 358, bits w 369 364, bits w 375 370, bits w 381 376]

/-- The unfenced spurs of a die that could count for a LAUNCH (R300). -/
def countable (s : State) (d : Nat) (counts : List Nat) : Nat :=
  ((List.range 224).filter fun n => (s.spur (d, n)).fits counts).length

/-- Whether a LAUNCH payload is invalid with ESTAT 2 (R299, R338). -/
def launchBad (s : State) (asid w : Nat) : Bool :=
  decide (bits w 351 348 ≠ 0) || w.testBit 383 || decide (bits w 193 192 ≠ 0) || decide (bits w 327 320 = 0) ||
  decide (bits w 335 328 < bits w 327 320) || decide (224 < bits w 335 328) ||
  (!w.testBit 382 && (decide (32 < (pkBanks w).sum) || decide (bits w 381 376 % 2 = 1))) || decide (bits w 511 448 % 4096 ≠ 0) ||
  decide (tabGet s.roots asid 0 % 2 = 0)

/-- ESTAT of a packet (R297 to R299, R387): 0 valid, 1 BADKIND, 2 BADFIELD, 3 NOSPURS. -/
def pkEstat (s : State) (k : Nat × Nat) (w : Nat) : Nat :=
  let q := s.queue k
  let bad : Bool :=
    match pkKind w with
    | 1 => launchBad s q.asid w
    | 2 => decide (bits w 511 384 ≠ 0) || decide (2 ^ 32 < bits w 383 320)
    | 3 => decide (bits w 511 192 ≠ 0)
    | 4 => decide (bits w 511 322 ≠ 0) || decide (bits w 194 192 ≠ 0) || decide (bits w 321 320 = 3)
    | 5 => decide (bits w 511 192 ≠ 0)
    | _ => decide (bits w 511 208 ≠ 0) || decide (bits w 207 192 < 16) || decide (2048 ≤ bits w 207 192)
  if pkKind w = 0 ∨ 6 < pkKind w then 1
  else if bits w 63 12 ≠ 0 ∨ bits w 66 64 ≠ 0 ∨ bad then 2
  else if pkKind w = 1 ∧ countable s k.1 (pkBanks w) < bits w 327 320 then 3
  else 0

/-- The packet as it starts. -/
def packetOf (num asid w : Nat) : Packet :=
  { num := num, asid := asid, kind := pkKind w, scope := bits w 9 8, add := w.testBit 11, sigAddr := bits w 127 64 % 2 ^ 56
    sigVal := bits w 191 128, x := if pkKind w = 6 then bits w 207 192 else bits w 255 192, y := bits w 319 256
    z := if pkKind w = 4 then bits w 321 320 else bits w 383 320, pos := 0, done := false, failed := false, page := none, refused := none }

/-! ### Choosing (R300, R301) -/

/-- Whether BARRIER holds a packet back (R297). -/
def barred (q : Queue) (w : Nat) : Bool := pkBarrier w && !q.started.isEmpty

/-- The queues of a die with a valid head packet that nothing bars. -/
def heads (s : State) (d : Nat) : List (Nat × Nat) :=
  (List.range 64).filterMap fun n =>
    match headPacket s (d, n) with
    | some w => if pkEstat s (d, n) w = 0 ∧ !barred (s.queue (d, n)) w then some (n, w) else none
    | none => none

/-- Those of a list with the greatest value. -/
def greatest (f : Nat × Nat → Nat) (l : List (Nat × Nat)) : List (Nat × Nat) :=
  l.filter fun x => l.all fun y => decide (f y ≤ f x)

/-- The next of some queues in the weighted round robin (R301): the first that may still start packets in this round, else
the first of a new round. A round serves the queues in ascending number. -/
def nextInRound (s : State) (d : Nat) (ns : List Nat) : Option Nat :=
  match ns.find? fun n => decide ((s.queue (d, n)).served < (s.queue (d, n)).weight) with
  | some n => some n
  | none => ns.head?

/-- The queue whose packet other than LAUNCH is served next (R301). -/
def nextOther (s : State) (d : Nat) : Option Nat :=
  let c := (heads s d).filter fun x => pkKind x.2 ≠ 1
  nextInRound s d ((greatest (fun x => (s.queue (d, x.1)).prio) c).map (·.1))

/-- The queue whose LAUNCH is chosen (R300). -/
def nextLaunch (s : State) (d : Nat) : Option Nat :=
  let c := (heads s d).filter fun x => pkKind x.2 = 1 && decide (bits x.2 327 320 ≤ (freeSpurs s d (pkBanks x.2)).length)
  let level := (s.die d).level
  let ecl (x : Nat × Nat) : Nat := bits x.2 339 338
  let c := if level ≤ 11 ∧ c.any (fun x => 1 ≤ ecl x) then c.filter fun x => ecl x ≠ 0 else c
  let c := greatest (fun x => bits x.2 337 336) c
  let c := if level < 15 then greatest ecl c else c
  nextInRound s d ((greatest (fun x => (s.queue (d, x.1)).prio) c).map (·.1))

/-- A packet counted in its queue's round, a new round begun where the queue's share of the last is used up (R301). -/
def countServed (k : Nat × Nat) (s : State) : State :=
  let q := s.queue k
  let s := if q.served < q.weight then s
    else { s with queues := s.queues.map fun (x, r) =>
      if x.1 = k.1 ∧ r.prio = q.prio then (x, { r with served := 0 }) else (x, r) }
  let q := s.queue k
  s.setQueue k { q with served := q.served + 1 }

/-! ### Starting -/

/-- A packet starts: HEAD moves on, the queue is READY (R296), the package ACTIVE (R400). -/
def startPacket (k : Nat × Nat) (w : Nat) (s : State) : State :=
  let s := countServed k { s with power := .active }
  let q := s.queue k
  s.setQueue k { q with
    state := if 4 ≤ pkKind w then .blocked else .ready
    head := (q.head + 1) % 2 ^ 32
    next := q.next + 1
    held := none
    started := q.started ++ [packetOf q.next q.asid w] }

/-- The fetch of a queue meets a page fault: it waits for the fault service (R391). -/
def fetchWaits (k : Nat × Nat) (va acc : Nat) (h : Bool) (s : State) : State :=
  let q := s.queue k
  addFault (s.setQueue k { q with page := some va }) (k.1, 0) q.asid va acc h [.queue k.1 k.2]

/-- The command processor takes up the head packet of a queue for a packet of some kind: an invalid one puts its queue in
ERROR, one that must wait leaves it BLOCKED (R296), and one that is chosen starts. -/
def startEvent (kind : Nat) (k : Nat × Nat) (go : Nat → State → State) (s : State) : Out :=
  if !canFetch s k then .next s
  else
    match (fetchPacket k).run s with
    | .error (.page va acc h) => .next (fetchWaits k va acc h s)
    | .error _ => .next s
    | .ok (w, t) =>
      let e := pkEstat s k w
      let q := t.queue k
      if e ≠ 0 then .next (qError k e 0 0 t)
      else if pkKind w ≠ kind then .next s
      else if barred q w then .next (t.setQueue k { q with state := .blocked })
      else if (if kind = 1 then nextLaunch s k.1 else nextOther s k.1) ≠ some k.2 then
        .next (if kind = 1 then t.setQueue k { q with state := .blocked } else s)
      else .next (go w t)

/-- The lowest free master core of a die. -/
def freeMaster (s : State) (d : Nat) : Option Nat := (List.range 8).find? fun c => !(s.prog (d, c)).running

/-- g0 to g31 of a LAUNCH (R299). -/
def readGinit (k : Nat × Nat) (w : Nat) : Act (List Word) := do
  let a := bits w 319 256
  if a = 0 then pure (List.replicate 32 0)
  else
    let asid ← gets fun s => (s.queue k).asid
    (List.range 32).mapM fun i => do pure (wordN (leNat (← qRead k.1 asid ((a + 8 * i) % 2 ^ 56) 8)))

/-- The header of a context area at a launch: VERSION 1, STATE RUNNING (R370). An area that cannot be written is left (log 28). -/
def launchHeader (k : Nat × Nat) (s : State) : State :=
  let act : Act Unit := do
    let ctx ← gets fun s => (s.prog k).ctx
    let w0 := leNat (← partRead k ctx 8)
    partWrite k ctx (leBytes 8 (setField (setField (setField w0 15 0 1) 23 16 1) 63 56 0))
  match act.run s with
  | .ok (_, t) => t
  | .error _ => s

/-- The cached leaves of an address space dropped where no program of it runs: a changed root takes effect now (R346). -/
def freshRoot (asid : Nat) (s : State) : State :=
  if s.progs.any fun x => x.2.running && x.2.asid == asid then s else { s with tlb := s.tlb.filter fun t => t.asid ≠ asid }

/-- The program of a LAUNCH as it starts on a master core (R299, R300, R316), held where the governor holds its class (R305). -/
def launchOn (k : Nat × Nat) (c w : Nat) (g : List Word) (s : State) : State :=
  let q := s.queue k
  let pk := (k.1, c)
  let p : Prog := { Prog.blank with
    running := true, asid := q.asid, prio := bits w 337 336, eclass := bits w 339 338, weight := bits w 347 340
    qmin := bits w 327 320, qmax := bits w 335 328, banks := pkBanks w, ctx := bits w 511 448 % 2 ^ 56
    qdie := k.1, queue := k.2, ticket := q.next }
  let free := freeSpurs s k.1 (pkBanks w)
  let s := giveSpurs ((freshRoot q.asid s).setProg pk p) pk (free.take (bits w 335 328))
  let s := launchHeader pk (s.setProg pk { s.prog pk with heldZones := heldZonesOf s pk })
  let x : Ctx := { Ctx.blank with
    pc := wordN (bits w 255 192), regs := gRegs g, wlim := wordN (bits w 431 384) }
  let s := s.setAgent (.master k.1 c) { Agent.blank with live := true, ctx := x, core := c }
  startPacket k w s

/-- A LAUNCH packet starts on a free master core (R299, R300). -/
def execLaunch (die q : Nat) (s : State) : Out :=
  startEvent 1 (die, q) (fun w t =>
    match freeMaster t die with
    | none => t.setQueue (die, q) { t.queue (die, q) with state := .blocked }
    | some c =>
      match (readGinit (die, q) w).run t with
      | .ok (g, u) => launchOn (die, q) c w g u
      | .error (.page va acc h) => fetchWaits (die, q) va acc h t
      | .error _ => t) s

/-- A COPY packet starts (R298). -/
def execCopy (die q : Nat) (s : State) : Out := startEvent 2 (die, q) (startPacket (die, q)) s

/-- A SIGNAL_SET packet starts and completes (R298). -/
def execSignalSet (die q : Nat) (s : State) : Out :=
  startEvent 3 (die, q) (fun w t => finishPacket (die, q) (t.queue (die, q)).next (startPacket (die, q) w t)) s

/-- The condition of a SIGNAL_WAIT (R298). -/
def signalCond (cond x y : Nat) : Bool :=
  match cond with
  | 0 => decide (y ≤ x)
  | 1 => x == y
  | _ => x != y

/-- A SIGNAL_WAIT reads its word, and completes where the condition holds. -/
def signalWait (k : Nat × Nat) (num : Nat) (s : State) : State :=
  match (s.queue k).started.find? fun p => p.num == num with
  | none => s
  | some p =>
    if p.kind ≠ 4 ∨ p.done ∨ p.failed then s
    else
      match p.refused with
      | some va => packetFault k num cPAGE va s
      | none =>
        if p.page.isSome then s
        else
          match (qRead k.1 p.asid (p.x % 2 ^ 56) 8).run s with
          | .ok (bs, t) => if signalCond p.z (leNat bs) p.y then finishPacket k num t else t
          | .error (.page va acc h) => addFault (putPacket k { p with page := some va } s) (k.1, 0) p.asid va acc h [.queue k.1 k.2]
          | .error (.trap t) => packetFault k num t.cause (t.tval.toNat % 2 ^ 56) s
          | .error _ => s

/-- A SIGNAL_WAIT packet starts (R298). -/
def execSignalWait (die q : Nat) (s : State) : Out :=
  startEvent 4 (die, q) (fun w t => signalWait (die, q) (t.queue (die, q)).next (startPacket (die, q) w t)) s

/-- A FENCE packet starts, and completes once every earlier packet has (R298). -/
def execFence (die q : Nat) (s : State) : Out :=
  startEvent 5 (die, q) (fun w t => settleQueue (die, q) (startPacket (die, q) w t)) s

/-- A COMPLETE packet starts, and completes once every earlier packet has (R298). -/
def execComplete (die q : Nat) (s : State) : Out :=
  startEvent 6 (die, q) (fun w t => settleQueue (die, q) (startPacket (die, q) w t)) s

/-! ### Started packets -/

/-- A line of memory that one COPY has written whole loses its poison with its last byte (R375). -/
def cleanCopied (k : Nat × Nat) (p : Packet) (pos : Nat) : Act Unit := do
  if 63 ≤ pos ∧ (p.x + pos) % 64 = 63 then
    cleanLines (← qTrans k.1 p.asid .write ((p.x + pos - 63) % 2 ^ 56) 64)

/-- A COPY moves its bytes from `pos` on, in ascending order, until one cannot be moved. -/
def copyBytes (k : Nat × Nat) (p : Packet) : Nat → Nat → State → Nat × State × Option Stop
  | 0, pos, s => (pos, s, none)
  | n + 1, pos, s =>
    let act : Act Unit := do
      let bs ← qRead k.1 p.asid ((p.y + pos) % 2 ^ 56) 1
      qWrite k.1 p.asid ((p.x + pos) % 2 ^ 56) bs
      cleanCopied k p pos
    match act.run s with
    | .ok (_, t) => copyBytes k p n (pos + 1) t
    | .error e => (pos, s, some e)

/-- A COPY that stops leaves the bytes it has not written unspecified (R298). -/
def copySpoil (k : Nat × Nat) (p : Packet) (s : State) : State :=
  (span p.pos (p.z - p.pos)).foldl (fun t i =>
    match (do qWrite k.1 p.asid ((p.x + i) % 2 ^ 56) (← freeBytes 1) : Act Unit).run t with
    | .ok (_, u) => u
    | .error _ => t) s

/-- A COPY packet's bytes are written, and it completes; or it waits, or stops (R298). -/
def execCopyPacketDone (die q k : Nat) (s : State) : Out :=
  let key := (die, q)
  match (s.queue key).started[k]? with
  | none => .next s
  | some p =>
    if p.kind ≠ 2 ∨ p.failed ∨ p.page.isSome ∨ !servesDie s die then .next s
    else if p.done then .next (finishPacket key p.num s)
    else
      match p.refused with
      | some va => .next (packetFault key p.num cPAGE va (copySpoil key p s))
      | none =>
        let (pos, t, e) := copyBytes key p (p.z - p.pos) p.pos s
        let p' := { p with pos := pos }
        let t := putPacket key p' t
        match e with
        | none => .next (finishPacket key p.num t)
        | some (.page va acc h) => .next (addFault (putPacket key { p' with page := some va } t) (die, 0) p.asid va acc h [.queue die q])
        | some (.trap x) => .next (packetFault key p.num x.cause (x.tval.toNat % 2 ^ 56) (copySpoil key p' t))
        | some _ => .next t

/-- The word a SIGNAL_WAIT waits for satisfies its condition, and it completes (R298). -/
def execSignalWaitSatisfied (die q k : Nat) (s : State) : Out :=
  match (s.queue (die, q)).started[k]? with
  | none => .next s
  | some p => if servesDie s die then .next (retrySignals (die, q) (signalWait (die, q) p.num s)) else .next s

/-! ### Fetch faults (R391) -/

/-- A queue enters FETCH_FAULT: HEAD unchanged, the FETCH entry (R391). -/
def fetchFault (k : Nat × Nat) (cause addr : Nat) (s : State) : State :=
  let q := s.queue k
  let s := s.logWalk k.1 q.asid cause addr
  pushRing (s.setQueue k { q with state := .fetchFault, page := none, refused := none, held := none }) k.1
    (ringEntry 0x10 cause k.2 k.1 0 q.head addr 0 0 0)

/-- What the fetch of a head packet reads: the packet, and a LAUNCH's GINIT block (R391). -/
def fetchAll (k : Nat × Nat) : Act Unit := do
  let w ← fetchPacket k
  let s ← get
  if pkKind w = 1 ∧ pkEstat s k w = 0 then
    let _ ← readGinit k w

/-- A ring packet's fetch faults (R391): refused by the fault service, PROT or POISON. -/
def execPacketFetchFault (die q : Nat) (s : State) : Out :=
  let key := (die, q)
  let r := s.queue key
  match r.refused with
  | some va => when (r.state == .ready || r.state == .blocked) (fetchFault key cPAGE va) s
  | none =>
    if canFetch s key then
      match (fetchAll key).run s with
      | .error (.trap t) => .next (fetchFault key t.cause (t.tval.toNat % 2 ^ 56) s)
      | .error (.page va acc h) => .next (fetchWaits key va acc h s)
      | _ => .next s
    else .next s

/-- Whether some bytes of a queue's address space lie in host memory. -/
def inHost (s : State) (k : Nat × Nat) (va len : Nat) : Bool :=
  match (qTrans k.1 (s.queue k).asid .read va len).run s with
  | .ok (keys, _) => keys.any fun x => keySpace x == 1
  | .error _ => false

/-- The fetch of a head packet, or of its GINIT block, from host memory ends in a PCIe completion error: CAUSE 0x05 (R391). -/
def pcieFault (k : Nat × Nat) (s : State) : State :=
  let q := s.queue k
  let at' := (q.base + 64 * (q.head % 2 ^ q.lsize)) % 2 ^ 56
  if !canFetch s k then s
  else if inHost s k at' 64 then fetchFault k cPAGE at' s
  else
    match headPacket s k with
    | some w =>
      let g := bits w 319 256 % 2 ^ 56
      if pkKind w = 1 ∧ g ≠ 0 ∧ inHost s k g 256 then fetchFault k cPAGE g s else s
    | none => s

/-! ### The doorbell (R295, R387) -/

/-- A write of TAIL: more than the ring holds puts the queue in ERROR with ESTAT 4 (R295, R296, R392). -/
def writeTail (k : Nat × Nat) (v : Nat) (s : State) : State :=
  let q := { s.queue k with tail := v % 2 ^ 32 }
  let s := s.setQueue k q
  let past := decide (2 ^ q.lsize < (q.tail + 2 ^ 32 - q.head) % 2 ^ 32)
  if past && (q.state == .ready || q.state == .blocked || q.state == .fetchFault) then qError k 4 0 0 s else s

/-- A doorbell write (R387); one for a die out of service is ignored. -/
def execQdoorWrite (die q value : Nat) (s : State) : Out :=
  when (decide (die < 4) && decide (q < 64) && (s.die die).state == .up && s.power != .off && s.power != .stopped)
    (writeTail (die, q) value) s

end Sys2Proof.Machine
end

