-- ==== Sys2Proof/Machine/Faults.lean ====
section
/-! DEFINITION. The fault service (14_recovery.md R366), the fault ring (15_firmware_links.md R390), and page moves
(07_ordering_rules.md R213 to R215). -/

namespace Sys2Proof.Machine

/-! ### The fault ring -/

/-- The active firmware complex (R383). -/
def Firmware.active (f : Firmware) : Complex := if f.aActive then f.a else f.b

/-- The standby complex. -/
def Firmware.standby (f : Firmware) : Complex := if f.aActive then f.b else f.a

/-- Whether firmware runs: the device is on, the active complex works. -/
def fwRuns (s : State) : Bool := s.fw.active.alive && s.power != .off && s.power != .stopped

/-- The bytes of a ring's next entry. -/
def ringKeys (r : Ring) : List Nat := span (physKey (r.base + 32 * (r.tail % 2 ^ r.lsize))) 32

/-- Firmware writes the oldest entry waiting for a die's ring, where the ring is bound and has room, and raises the die's
vector (R390); a line of the entry that an engine owns, or a word of it that is claimed, is waited for (R208, R233). -/
def execFaultRingWrite (die : Nat) (s : State) : Out :=
  let r := (s.die die).ring
  match r.out with
  | [] => .next s
  | e :: rest =>
    when (!(ringKeys r).any s.ownedLine && !claimedWord s (ringKeys r) && r.bound && fwRuns s && decide ((r.tail + 2 ^ 32 - r.head) % 2 ^ 32 < 2 ^ r.lsize)) (fun s =>
      let keys := ringKeys r
      let s := touchL1 s (.slot die 0 0 0) false true keys
      let s := { s with mem := memSets s.mem keys (leBytes 32 e), msix := s.msix ++ [1 + die] }
      s.setDie die { s.die die with ring := { r with out := rest, tail := (r.tail + 1) % 2 ^ 32 } }) s

/-- The host writes FRHEAD (R387, R390). -/
def execFrheadWrite (die value : Nat) (s : State) : Out :=
  when (decide (die < 4)) (fun s => s.setDie die { s.die die with ring := { (s.die die).ring with head := value % 2 ^ 32 } }) s

/-! ### Answers to a fault -/

/-- Whether an address waited for lies in a fault's page. -/
def FaultRec.on (f : FaultRec) (va : Option Nat) : Bool :=
  match va with
  | some x => f.holds x
  | none => false

/-- The page an agent waits for, itself or in a unit. -/
def waitsPage (a : Agent) : Option Nat :=
  match a.wait with
  | .page va => some va
  | .unit r => r.page
  | _ => none

/-- An agent whose fault is answered: it goes on, with the page refused to it or not; a unit goes on with its operation. -/
def answerAgent (ref : Bool) (a : Agent) : Agent :=
  let a := { a with refused := if ref then waitsPage a else a.refused }
  match a.wait with
  | .page _ => { a with wait := .none }
  | .unit r => { a with wait := .unit { r with page := none } }
  | _ => a

/-- A parked thread whose fault is answered is runnable (R310). -/
def answerParked (f : FaultRec) (ref : Bool) (x : Parked) : Parked :=
  if !x.runnable && f.holds (x.page * 4096) then { x with agent := answerAgent ref x.agent, runnable := true } else x

/-- Whether a refusal is one of an agent's or a command's destination page: it waits for that page from issue on (R208). -/
def FaultRec.refuses (f : FaultRec) (ref : Bool) (w : Waiter) : Bool := ref && f.dest && f.waiters.contains w

/-- A command whose fault is answered; a refused destination page stops it (R208). -/
def answerCmd (f : FaultRec) (ref : Bool) (c : EngCmd) : EngCmd :=
  if f.on c.wait then { c with wait := none, refused := if ref then c.wait else none }
  else if f.refuses ref (.engine c.id) && !c.data then { c with wait := none, refused := some f.va }
  else c

/-- An agent as a fault's waiter. -/
def waiterOf (s : State) (who : AgentId) : Waiter := ({ s with cur := who } : State).waiter

/-- An agent whose instruction was withdrawn while its unit waited for a page: a page refused since is refused to the instruction when
it executes again (R366). -/
def answerUnit (f : FaultRec) (ref : Bool) (a : Agent) : Agent :=
  match a.unitPage with
  | some (va, false) => if f.holds va then { a with unitPage := if ref then some (va, true) else none } else a
  | _ => a

/-- An agent that waits for a unit whose destination page is refused: the unit stops (R208). -/
def refuseUnit (f : FaultRec) (a : Agent) : Agent :=
  match a.wait with
  | .unit r => { a with wait := .unit { r with page := none }, refused := some f.va }
  | _ => a

/-- A host queue whose fault is answered. -/
def answerQueue (f : FaultRec) (ref : Bool) (q : Queue) : Queue :=
  let q := { q with started := q.started.map fun p =>
    if p.asid = f.asid ∧ f.on p.page then { p with page := none, refused := if ref then p.page else none } else p }
  if q.asid = f.asid ∧ f.on q.page then { q with page := none, refused := if ref then q.page else none } else q

/-- A program whose fault is answered: its run list, the page its exit record or its save waits for. -/
def answerProg (f : FaultRec) (ref : Bool) (p : Prog) : Prog :=
  let p := { p with runList := p.runList.map (answerParked f ref) }
  let p := match p.ending with
    | some e => if f.on e.page then { p with ending := some { e with page := none, skip := e.skip || ref } } else p
    | none => p
  match p.saving with
  | some e => if f.on e.page then { p with saving := some { e with page := none } } else p
  | none => p

/-- The commands of the engines of a die's programs in an address space, those left on a fenced spur with them (R379). -/
def cmdsIn (s : State) (d asid : Nat) : List EngCmd :=
  ((s.spurs.filter fun x => x.1.1 = d).flatMap fun x => x.2.copyQ ++ x.2.gathQ).filter fun c => (s.prog (d, c.core)).asid == asid

/-- Lines of a served page that engine commands and units of a die own from now on (R208). -/
def ownServed (s : State) (d : Nat) (f : FaultRec) : State :=
  let fromCmds := ((cmdsIn s d f.asid).filter fun c => !c.data).flatMap fun c => c.ownsOf s
  let fromUnits := (s.agents.filter fun (a, _) => dieOf a = d ∧ (s.prog (s.progKey a)).asid = f.asid).flatMap fun (a, r) =>
    match r.wait with
    | .unit u => if u.dead.isSome then [] else ownLines s ⟨d, none, (s.progKey a).2, none⟩ u.id (unitDests s a u)
    | _ => []
  takeLines d ((fromCmds ++ fromUnits).eraseDups.filter fun x => !s.owned.contains x) s

/-- A fault answered (R366): every waiter on the die resumes. -/
def answerFault (d : Nat) (f : FaultRec) (ref : Bool) (s : State) : State :=
  let r := s.die d
  let s := s.setDie d { r with faults := r.faults.filter fun x => x.id ≠ f.id }
  let s := if ref then s else ownServed s d f
  let here (a : AgentId) : Bool := dieOf a == d && (s.prog (s.progKey a)).asid == f.asid
  let cmd (c : EngCmd) : EngCmd := if (s.prog (d, c.core)).asid = f.asid then answerCmd f ref c else c
  { s with
    agents := s.agents.map fun x =>
      if here x.1 && f.on (waitsPage x.2) then (x.1, answerAgent ref x.2)
      else if f.refuses ref (waiterOf s x.1) then (x.1, refuseUnit f x.2)
      else if here x.1 then (x.1, answerUnit f ref x.2) else x
    spurs := s.spurs.map fun x =>
      if x.1.1 = d then (x.1, { x.2 with copyQ := x.2.copyQ.map cmd, gathQ := x.2.gathQ.map cmd }) else x
    progs := s.progs.map fun x =>
      if x.2.asid = f.asid ∧ (x.1.1 = d ∨ f.waiters.contains (.ending x.1.1 x.1.2)) then (x.1, answerProg f ref x.2) else x
    queues := s.queues.map fun x => if x.1.1 = d then (x.1, answerQueue f ref x.2) else x
    saved := s.saved.map fun x =>
      if x.asid = f.asid then
        { x with
          prog := answerProg f ref x.prog
          spurs := x.spurs.map fun (n, q) => (n, { q with copyQ := q.copyQ.map (answerCmd f ref), gathQ := q.gathQ.map (answerCmd f ref) })
          threads := x.threads.map fun (a, r) => (a, answerUnit f ref r)
          master := if f.on (waitsPage x.master) then answerAgent ref x.master else answerUnit f ref x.master }
      else x }

/-! ### The service's decision (R366) -/

/-- The invalid entry that a walk ends in: its key. -/
def invalidSlot (s : State) : Nat → Nat → Nat → Option Nat
  | 0, _, _ => none
  | n + 1, table, va =>
    let key := table + va / 2 ^ (12 + 9 * n) % 512 * 8
    let e := s.rdN key 8
    if !pteV e then some key
    else if pteLeaf e then none
    else invalidSlot s n (pteFrame e) va

/-- The memory key of the leaf entry that maps an address, with the entry and the page's size. -/
def leafSlot (s : State) : Nat → Nat → Nat → Option (Nat × Nat × Nat)
  | 0, _, _ => none
  | n + 1, table, va =>
    let key := table + va / 2 ^ (12 + 9 * n) % 512 * 8
    let e := s.rdN key 8
    if !pteV e then none
    else if pteLeaf e then some (key, e, leafSize (n + 1) e)
    else leafSlot s n (pteFrame e) va

/-- The waiters of held accesses are replayed next, in their order (R215). -/
def replayNext (ws : List Waiter) (s : State) : State := { s with agenda := ws.map Move.replay ++ s.agenda }

/-- Whether a walk finds a page that does not migrate. -/
def settledPage (s : State) (asid va : Nat) : Bool :=
  match walk s asid va with
  | .leaf e _ => !pteMigrating e
  | _ => false

/-- A frame of 4 KiB zero-filled: its poison is gone (R375), its granules EMPTY (R229). -/
def zeroFrame (d key : Nat) (s : State) : State :=
  let keys := span key 4096
  let s := touchL1 s (.slot d 0 0 0) false true keys
  let here (x : Nat) : Bool := decide (key ≤ x ∧ x < key + 4096)
  { s with
    mem := memSets s.mem keys (List.replicate 4096 0)
    bad := s.bad.filter fun l => !here (l * 64)
    full := s.full.filter fun w => !here (w * 8) }

/-- The fault service decides the k-th fault of a die (R366): an access held for a move goes on once its page no longer moves
(R215); for choice 0 firmware maps the page, writing `frame` as the entry the walk found invalid, for choice 2 after zero-filling
its frame; else the fault goes to the host. -/
def execPageFaultService (die k choice frame : Nat) (s : State) : Out :=
  match (s.die die).faults[k]? with
  | none => .next s
  | some f =>
    if !servesDie s die ∨ f.sent then .next s
    else if f.held then when (settledPage s f.asid f.va) (fun s => replayNext f.waiters (answerFault die f false s)) s
    else if choice = 0 ∨ choice = 2 then
      match invalidSlot s 4 (rootTable (tabGet s.roots f.asid 0)) f.va with
      | some key => when (fwRuns s && frame.testBit 0 && !retiredFrame s (pteFrame frame / 4096)) (fun s =>
          let s := if choice = 2 then zeroFrame die (pteFrame frame) s else s
          answerFault die f false (s.wrN key 8 frame)) s
      | none => .next (answerFault die f false s)
    else
      let r := s.die die
      let t := s.setDie die { r with faults := listSet r.faults k { f with sent := true } }
      .next (pushRing t die (ringEntry 0x01 cPAGE 0 die f.acc f.id f.va f.asid f.core 0))

/-! ### Page moves (R213, R214) -/

/-- The entries of a page: one, or the sixteen of a 64 KiB page (R339). -/
def pageEntries (key size : Nat) : List Nat :=
  if size = 16 then (List.range 16).map fun i => key / 128 * 128 + 8 * i else [key]

/-- Entries of a page changed. -/
def mapEntries (s : State) (keys : List Nat) (f : Nat → Nat → Nat) : State :=
  keys.zipIdx.foldl (fun t (key, i) => t.wrN key 8 (f i (t.rdN key 8))) s

/-- Whether the frames of a page include one that is retired, with its pseudo-channel or by itself: the page is relocated, whatever its
size, pinned or not (R378). -/
def relocates (s : State) (frame size : Nat) : Bool := (span (frame / 4096) (2 ^ (size - 12))).any (retiredFrame s)

/-- The fault service accepts a move of a page (R213, R214): from a page in HBM that does not move, of at most 64 KiB and not pinned,
towards a die that writes it more often, or any page of a retired frame, its home unchanged (R378); never to a retired frame. The entry
is marked MIGRATING. -/
def execPageMoveAccept (die asid page dest frame : Nat) (s : State) : Out :=
  let va := page * 4096
  match walk s asid va, leafSlot s 4 (rootTable (tabGet s.roots asid 0)) va with
  | .leaf e size, some (key, _, _) =>
    let base := va / 2 ^ size * 2 ^ size
    let old := pteFrame e / 2 ^ size * 2 ^ size
    let n (d : Nat) : Nat := ((span (old / 4096) (2 ^ (size - 12))).map fun x => tabGet s.writes (x, d) 0).sum
    let ok := servesDie s die && servesDie s dest && fwRuns s && pteSpace e == 0 && !pteMigrating e &&
      decide (va < 2 ^ 48) && decide (frame < 2 ^ 40) && decide (frame * 4096 % 2 ^ size = 0) &&
      (if dest == pteHome e then relocates s old size || (!ptePin e && decide (size ≤ 16))
        else !ptePin e && decide (size ≤ 16) && decide (n (pteHome e) < n dest)) && decide (frame * 4096 + 2 ^ size ≤ hbmBytes) &&
      !((span frame (2 ^ (size - 12))).any (retiredFrame s))
    when ok (fun s =>
      let s := mapEntries s (pageEntries key size) fun _ e => e ||| 2 ^ 7
      { s with moves := s.moves ++ [⟨die, asid, base, size, old, dest, frame * 4096, .fencing⟩] }) s
  | _, _ => .next s

/-- Writes that have left the sliding window of a frame's count for a die (R213). -/
def slideWrites (frame d n : Nat) (s : State) : State :=
  { s with writes := tabSet s.writes (frame, d) (tabGet s.writes (frame, d) 0 - n) }

/-- The move's state replaced. -/
def setMove (s : State) (k : Nat) (m : PageMove) : State := { s with moves := listSet s.moves k m }

/-- Every die has invalidated the page in its TLBs (R214). -/
def execMigrationInvalAck (k : Nat) (s : State) : Out :=
  match s.moves[k]? with
  | none => .next s
  | some m =>
    when (m.state == .fencing) (fun s =>
      setMove { s with tlb := s.tlb.filter fun t => !(t.asid == m.asid && decide (t.page / 2 ^ m.size = m.va / 2 ^ m.size)) } k
        { m with state := .draining }) s

/-- Whether a key lies in a move's old frame. -/
def PageMove.has (m : PageMove) (key : Nat) : Bool := decide (m.frame ≤ key ∧ key < m.frame + 2 ^ m.size)

/-- The accesses in flight to the page are performed, and one that must wait at its home is waited for; its L1 copies dropped;
ownerships and claims of it are over (R214). -/
def execMigrationDrainDone (k : Nat) (s : State) : Out :=
  match s.moves[k]? with
  | none => .next s
  | some m =>
    if m.state ≠ .draining ∨ s.owned.any (fun x => m.has (x.line * 64)) ∨ s.claims.any (fun x => m.has (x.1 * 8) && !x.2.isEmpty) then .next s
    else
      let s := s.agents.foldl (fun t x => drainWhere t x.1 fun p => p.keys.any m.has) s
      if s.agents.any fun x => x.2.pend.any fun p => p.keys.any m.has then .next s
      else .next (setMove { s with l1 := s.l1.filter fun l => !m.has (l.line * 64) } k { m with state := .copying })

/-- A granule at the new frame. -/
def PageMove.granule (m : PageMove) (g : Granule) : Granule :=
  match g with
  | .mem k => if m.has k then .mem (k - m.frame + m.dframe) else g
  | g => g

/-- An agent that waits at a granule of the page waits at it in the new frame. -/
def PageMove.waiter (m : PageMove) (a : Agent) : Agent :=
  match a.wait with
  | .granule r => { a with wait := .granule { r with g := m.granule r.g } }
  | _ => a

/-- The lines of the page at the new frame: bytes, poison, granule states and their waiters (R214, R229). -/
def copyPage (m : PageMove) (s : State) : State :=
  if m.frame = m.dframe then s
  else
    let shift (x : Nat) : Nat := x - m.frame + m.dframe
    let gone (x : Nat) : Bool := decide (m.dframe ≤ x ∧ x < m.dframe + 2 ^ m.size)
    let mem := (s.mem.filter fun c => m.has c.1).foldl (fun t c => memSet t (shift c.1) c.2) (s.mem.filter fun c => !gone c.1)
    { s with
      mem := mem
      feWait := s.feWait.map fun x => (m.granule x.1, x.2)
      agents := s.agents.map fun x => (x.1, m.waiter x.2)
      bad := (s.bad.filter fun l => !gone (l * 64)) ++ (s.bad.filter fun l => m.has (l * 64)).map fun l => shift (l * 64) / 64
      full := (s.full.filter fun w => !gone (w * 8)) ++ (s.full.filter fun w => m.has (w * 8)).map fun w => shift (w * 8) / 8 }

/-- The held accesses of a move's page are answered, and replayed in the order of their arrival (R215). -/
def releaseHeld (m : PageMove) (s : State) : State :=
  let held (d : Nat) : List FaultRec := (s.die d).faults.filter fun f =>
    f.held && f.asid == m.asid && decide (f.page * 4096 / 2 ^ m.size = m.va / 2 ^ m.size)
  let ws := (List.range 4).flatMap fun d => (held d).flatMap FaultRec.waiters
  let s := (List.range 4).foldl (fun t d => (held d).foldl (fun u f => answerFault d f false u) t) s
  replayNext ws s

/-- A move is over: the entries changed, the move gone, the held accesses replayed. -/
def endMove (k : Nat) (m : PageMove) (f : Nat → Nat → Nat) (s : State) : State :=
  let s := match leafSlot s 4 (rootTable (tabGet s.roots m.asid 0)) m.va with
    | some (key, _, _) => mapEntries s (pageEntries key m.size) f
    | none => s
  releaseHeld m { s with moves := listDel s.moves k }

/-- The new home of a page known (R212): the entries of the home-lookup tables stay, and the former home keeps a forwarding pointer
while one of them is older. -/
def rehome (m : PageMove) (old : Nat) (s : State) : State :=
  let s := { s with homes := (m.dframe, m.size, m.dest) :: s.homes.filter fun h => h.1 ≠ m.frame ∧ h.1 ≠ m.dframe }
  if old ≠ m.dest ∧ s.lookups.any (fun l => l.is m.asid m.va m.size) then
    { s with forwards := s.forwards.filter (fun f => !(f.is m.asid m.va m.size && f.old == m.dest)) ++ [⟨m.asid, m.va, m.size, old, m.dest⟩] }
  else s

/-- The copy is complete: HOME and FRAME change, MIGRATING is cleared, the write counters too, and H keeps a forwarding pointer
(R212, R214). -/
def execMigrationCommit (k : Nat) (s : State) : Out :=
  match s.moves[k]? with
  | none => .next s
  | some m =>
    when (m.state == .copying) (fun s =>
      let old := match walk s m.asid m.va with
        | .leaf e _ => pteHome e
        | _ => m.dest
      let s := rehome m old (copyPage m s)
      let s := { s with writes := s.writes.filter fun x => !(m.has (x.1.1 * 4096)) }
      endMove k m (fun i e =>
        let e := setField (setField e 51 12 (m.dframe / 4096 + i)) 53 52 m.dest
        setField e 7 7 0) s) s

/-- An uncorrectable error ends the move: the page stays where it was (R214). -/
def execMigrationAbort (k : Nat) (s : State) : Out :=
  match s.moves[k]? with
  | none => .next s
  | some m => when (m.state == .copying) (endMove k m fun _ e => setField e 7 7 0) s

end Sys2Proof.Machine
end

