-- ==== Sys2Proof/Machine/Governor.lean ====
section
/-! DEFINITION. The budget governor (11_scheduling.md R304 to R306, 15_firmware_links.md R401). -/

namespace Sys2Proof.Machine

/-- Whether a die runs: it is in service, and the package is ACTIVE or IDLE. -/
def dieRuns (s : State) (d : Nat) : Bool := servesDie s d

/-- The package stopped, as under the device row of R376: it reports a PCIe uncorrectable error. -/
def stopDevice (s : State) : State := { s with power := .stopped, pcieErrors := s.pcieErrors + 1 }

/-- LEVEL after a sample (R304). -/
def levelNext (level b watts : Nat) : Nat :=
  if b < watts then level - 1 else if watts + 25 < b then min (level + 1) 15 else level

/-- The lowest zone with the highest reading (R304). -/
def hottestZone (temps : List Nat) : Nat :=
  let t (z : Nat) : Nat := temps.getD z 0
  ((List.range 8).find? fun z => (List.range 8).all fun y => decide (t y ≤ t z)).getD 0

/-- The programs of a die after a sample (R306): the interval that ends is counted where the program requested in it and was held; a
window may begin; then the zones held in the next interval. -/
def holdPrograms (d : Nat) (fresh : Bool) (s : State) : State :=
  let count (c : Nat) (t : State) : State :=
    let p := t.prog (d, c)
    t.setProg (d, c) { p with
      winHeld := if fresh then 0 else if p.heldNow then p.winHeld + 1 else p.winHeld
      winAsked := requesting t (d, c) || (p.winAsked && !fresh)
      heldNow := false }
  let s := if fresh then s.setDie d { s.die d with goneWeight := 0 } else s
  decideHolds d ((runningCores s d).foldl (fun t c => count c t) s)

/-- A sample of the governor of a die (R304 to R306), and firmware's limits of temperature (R401). -/
def execGovernorSample (die watts : Nat) (temps : List Nat) (s : State) : Out :=
  when (dieRuns s die) (fun s =>
    let r := s.die die
    let hot := hottestZone temps
    let top := temps.getD hot 0
    let level := if fwRuns s ∧ 105 < top then 0 else levelNext r.level r.newBudget watts
    let s := s.setDie die { r with
      level := level, budget := r.newBudget, power := watts, hottest := hot, sample := r.sample + 1 }
    let s := holdPrograms die (r.sample % 100 == 0) s
    if fwRuns s ∧ 115 ≤ top then stopDevice s else s) s

end Sys2Proof.Machine
end

