-- ==== Sys2Proof/Machine/Errors.lean ====
section
/-! DEFINITION. Detected errors: counting, poison, fenced spurs and lost threads, lost dies, the device's reset
(14_recovery.md R374 to R382, 12_pool.md R334). -/

namespace Sys2Proof.Machine

/-! ### Counting (R377) -/

/-- Whether a unit's counted events make a lasting fault (R377): LIMIT of them within WINDOW, in samples of 10 µs counted over
the die's resets. -/
def lasting (r : Die) (unit index : Nat) : Bool :=
  let w := 100 * max 1 r.errWindow
  decide (0 < r.errLimit) && decide (r.errLimit ≤ (r.events.filter fun e =>
    decide (e.unit = unit ∧ e.index = index ∧ r.era + r.sample < e.time + w)).length)

/-- One corrected event counted, with its notice in the firmware's log. -/
def countEvent (d unit index : Nat) (s : State) : State :=
  let r := s.die d
  let e : ErrorEvent := ⟨unit, index, r.era + r.sample⟩
  s.setDie d { r with events := r.events ++ [e], notices := r.notices ++ [e] }

/-- Whether a unit is fenced already. -/
def isFenced (s : State) (d unit index : Nat) : Bool := s.fences.contains ⟨unit, d, index⟩

/-- Whether the program that holds a spur has an outstanding spawn. -/
def spurSpawning (s : State) (k : Nat × Nat) : Bool :=
  match (s.spur k).owner with
  | some c => (s.prog (k.1, c)).spawning
  | none => false

/-- A lasting fault fences its unit, at once or at the next spawn boundary (R334, R378); a lane leaves at the next retrain
(R396). -/
def fenceUnit (d unit index : Nat) (s : State) : State :=
  match unit with
  | 1 =>
    let k := (d, index / 32)
    let p := s.spur k
    let b := index % 32
    if p.role b == .free ∨ p.role b == .rdc ∨ !spurSpawning s k then fenceBank k b s
    else if p.badBanks.contains b then s
    else s.setSpur k { p with badBanks := p.badBanks ++ [b] }
  | 3 =>
    let l := index / 64
    let r := tabGet s.links l Link.blank
    noteFence d 3 index 0 { s with links := tabSet s.links l { r with bad := r.bad ++ [index % 64] } }
  | 4 =>
    let k := (d, index)
    if spurSpawning s k then s.setSpur k { s.spur k with worn := true } else fenceIdle k s
  | _ => noteFence d unit index 0 s

/-- An event that may prove a lasting fault. -/
def countAndFence (d unit index : Nat) (s : State) : State :=
  let s := countEvent d unit index s
  if lasting (s.die d) unit index && !isFenced s d unit index then fenceUnit d unit index s else s

/-- Whether a unit of a class exists on a die: a bank, an HBM pseudo-channel, a link lane, a spur. -/
def unitExists (unit index : Nat) : Bool :=
  match unit with
  | 1 => decide (index < 7168)
  | 2 => true
  | 3 => decide (index / 64 < 44)
  | 4 => decide (index < 224)
  | _ => false

/-- A corrected error (R374, R377). -/
def execCorrectedError (die unit index : Nat) (s : State) : Out :=
  when (servesDie s die && unitExists unit index) (countAndFence die unit index) s

/-! ### Fenced spurs (R379 to R382) -/

/-- An outstanding access of a lost thread is performed or not (R202, R379). -/
def loseStores (s : State) (who : AgentId) : State :=
  ((s.agent who).pend).foldl (fun t p =>
    let n := t.free
    let t := { t with free := n + 1 }
    let t := if Config.freeBit n then performPend t who p else t
    let t := dropPend t who p.id
    { t with claims := t.claims.map fun (k, q) => (k, q.filter fun e => e != ClaimEntry.op who p.id) }) s

/-- A claim granted to a lost thread is released with the word unchanged (R234). -/
def loseClaims (s : State) (who : AgentId) : State :=
  let ws := (s.claims.filter fun (w, q) => s.granted.contains w && q.head? == some (ClaimEntry.amo who)).map (·.1)
  let s := ws.foldl popClaim s
  let s := withdrawQueues s [who]
  ws.foldl (fun t w => serveClaims (tabGet t.claims w []).length w t) s

/-- The merge that a lost thread began, or is to continue, stops (R186, R187, R210): the session is back in ENDED. -/
def loseMerge (s : State) (who : AgentId) : State :=
  let a := s.agent who
  let k := s.progKey who
  let mine (x : Session) : Bool := x.core == k.2 && (x.merge.map MergeRun.thread) == some (some (a.tag, a.ctx.tid.toNat))
  let d := s.die (dieOf who)
  (d.arete.filter mine).foldl (fun t x =>
    match x.merge with
    | some m =>
      let t := match finArrays x m.bytes with
        | some (rp, ci, vs, n) => spoil ⟨k.1, none, k.2, none⟩ m.id (mergeDests x rp ci vs n) t
        | none => t
      disown m.id t
    | none => t)
    (s.setDie (dieOf who) { d with arete := d.arete.map fun x => if mine x then { x with state := .ended, merge := none } else x })

/-- A lost thread's instruction at a unit: Cairn's goes through its remaining steps, any other stops (R210, R265). -/
def loseUnit (s : State) (who : AgentId) : State :=
  match (s.agent who).wait, findOp s who with
  | .unit r, some o =>
    let k := s.progKey who
    let t := asAgent who (s.agent who).wmode (fun t =>
      settle t ((cairnRun { r with page := none } true (cairnFuel t o.tree) o).run t)) s
    let t := t.setProg k { t.prog k with ending := (s.prog k).ending }
    let d := t.die (dieOf who)
    t.setDie (dieOf who) { d with cairn := d.cairn.filter fun o => o.who != who }
  | _, _ => loseMerge (stopUnit s who) who

/-- The gang records of a fenced spur break, its cores accounted (R151, R379); an operation in progress goes on for the others. -/
def loseGangs (s : State) (k : Nat × Nat) : State :=
  let gs := (s.die k.1).gangs.filter fun g => g.spurs.contains k.2
  let cores := (List.range 4).map fun c => (k.2, c)
  gs.foldl (fun t g =>
    let g := { g with members := g.members.filter fun m => spurOf m.who ≠ k.2 }
    match g.state with
    | .started => putGang t k.1 g (some g)
    | _ => breakGang t k.1 g cores) s

/-- A lost thread's place in the re-run list: ascending TID, then push order (R380). -/
def insertRerun (l : List Start) (x : Start) : List Start :=
  let before (y : Start) : Bool := decide (y.ctx.tid.toNat < x.ctx.tid.toNat) || (y.ctx.tid == x.ctx.tid && decide (y.tag ≤ x.tag))
  l.filter before ++ [x] ++ l.filter fun y => !before y

/-- Whether a lost thread is run again (R380, R381): no member of a resident spawn, no side effect. -/
def canRerun (a : Agent) : Option Start :=
  if a.resident ∨ a.ctx.side ∨ !a.frames.isEmpty then none else a.start

/-- A lost thread put on the re-run list or recorded lost (R380, R382), its arrivals withdrawn. -/
def loseThread (s : State) (who : AgentId) : State :=
  let a := s.agent who
  let k := s.progKey who
  let p := s.prog k
  let out (x : Nat × Bar) : Nat × Bar := (x.1, { x.2 with arrived := x.2.arrived.filter (· ≠ who) })
  let p := { p with bars := p.bars.map out }
  let p := match canRerun a with
    | some st => { p with rerun := insertRerun p.rerun st }
    | none => { p with l := p.l - 1, lostNow := p.lostNow ++ [a.anc] }
  (s.setProg k p).setAgent who Agent.blank

/-- Lost members of a resident spawn leave its barriers and its live count (R381). -/
def loseMembers (s : State) (k : Nat × Nat) (n : Nat) : State :=
  if n = 0 then s
  else
    let p := s.prog k
    let less (x : Nat × Bar) : Nat × Bar := (x.1, { x.2 with c := x.2.c - n, cNext := x.2.cNext.map (· - n) })
    let p := { p with liveCount := p.liveCount - n, bars := p.bars.map less }
    (p.bars.map (·.1)).foldl (fun t i => barTry t k i) (s.setProg k p)

/-- A command of a fenced spur stops, its counter marked (R210, R242, R379): one whose counter must wait stays in its queue until the
mark is made. -/
def loseCmd (s : State) (c : EngCmd) : State :=
  if c.data then c.advance s
  else { c with data := true, failed := true, wait := none, refused := none }.finish (c.fail none s)

/-- Remote accesses under way to a fenced spur trap PROT, as later ones do (R245). -/
def loseRemotes (s : State) (k : Nat × Nat) : State :=
  let ws := s.agents.filterMap fun (a, r) =>
    match r.wait with
    | .remote x => if x.die = k.1 ∧ x.spur = k.2 then some a else none
    | _ => none
  ws.foldl (fun t a => trapWait a ⟨cPROT, wordN k.2⟩ (feWithdraw t a)) s

/-- A spur fenced at once (R379), for the life of the device, and reported (R24, R390). -/
def fenceSpur (k : Nat × Nat) (s : State) : State :=
  let p := s.spur k
  let core := (p.owner).getD 0
  let ws := (s.agents.filter fun x => isSlot x.1 && dieOf x.1 == k.1 && spurOf x.1 == k.2 && x.2.live).map (·.1)
  let members := (ws.filter fun w => (s.agent w).resident).length
  let s := ws.foldl loseUnit s
  let s := ws.foldl loseStores s
  let s := ws.foldl loseClaims s
  let s := loseGangs s k
  let s := (p.copyQ ++ p.gathQ).foldl loseCmd s
  let s := ws.foldl loseThread s
  let s := loseMembers s (k.1, core) members
  let s := loseRemotes s k
  let s := { s with tlb := s.tlb.filter fun t => !(t.die == k.1 && t.spur == some k.2) }
  let g := s.prog (k.1, core)
  let out (l : List Nat) : List Nat := l.filter (· ≠ k.2)
  let s := if p.owner.isSome then s.setProg (k.1, core) { g with
      quota := out g.quota, spawn := { g.spawn with quota := out g.spawn.quota } }
    else s
  let q := s.spur k
  (noteFence k.1 4 k.2 core s).setSpur k { Spur.blank with
    fenced := true, fencedBanks := p.fencedBanks, heldOut := p.heldOut, copyQ := q.copyQ, gathQ := q.gathQ }

/-! ### Lost dies and the device (R376) -/

/-- The lines that a lost die's directory, or its own masters and engines, held Modified or owned. -/
def lostLines (s : State) (d : Nat) : List Nat :=
  let l1 := (s.l1.filter fun l => l.mesi == .modified && (dieOf l.who == d || s.homeDie (l.line * 64) == d)).map L1Line.line
  let engs := (s.spurs.filter fun x => x.1.1 = d).flatMap fun x => (x.2.copyQ ++ x.2.gathQ).map EngCmd.id
  let units := (s.agents.filter fun x => dieOf x.1 = d).filterMap fun x => match x.2.wait with
    | .unit r => some r.id
    | _ => none
  let mine (x : OwnedLine) : Bool := engs.contains x.id || units.contains x.id || s.homeDie (x.line * 64) == d
  (l1 ++ (s.owned.filter mine).map OwnedLine.line).eraseDups

/-- The programs of a lost die end (R364, R376), their records waiting for their pages and for what owns their lines. -/
def endLost (d : Nat) (s : State) : State := (runningCores s d).foldl (fun t c => concludeEnd (d, c) t) s

/-- A move that a lost die takes part in is given up (R214). -/
def loseMoves (s : State) (d : Nat) : State :=
  match s.moves.zipIdx.find? fun (m, _) => m.die == d || m.dest == d || s.homeDie m.frame == d with
  | some (m, i) => endMove i m (fun _ e => setField e 7 7 0) s
  | none => s

/-- A die after its reset, its samples counted anew: its ring, its FAULTIDs, its counts of errors and its budget stay. -/
def Die.restart (r : Die) (st : DieState) : Die :=
  { Die.blank with
    state := st, ring := r.ring, nextFault := r.nextFault, events := r.events, notices := r.notices, walkLog := r.walkLog
    newBudget := r.newBudget, budget := r.budget, era := r.era + r.sample }

/-- A die lost (R376): every program of it ends with DIELOST, its units stop, and lines held Modified or owned become poison. -/
def loseDie (d : Nat) (st : DieState) (s : State) : State :=
  let bad := lostLines s d
  let ws := (s.agents.filter fun x => dieOf x.1 = d ∧ x.2.live).map (·.1)
  let gone := (s.spurs.filter fun x => x.1.1 = d).flatMap fun x => (x.2.copyQ ++ x.2.gathQ).map EngCmd.id
  let units := ws.filterMap fun a => match (s.agent a).wait with
    | .unit r => some r.id
    | _ => none
  let s := (List.range s.moves.length).foldl (fun t _ => loseMoves t d) s
  let s := ws.foldl loseStores s
  let s := ws.foldl loseClaims s
  let s := { s with
    agents := s.agents.map fun x => if dieOf x.1 = d then (x.1, Agent.blank) else x
    bad := (s.bad ++ bad).eraseDups
    l1 := s.l1.filter fun l => dieOf l.who != d && !bad.contains l.line
    owned := s.owned.filter fun x => !gone.contains x.id && !units.contains x.id
    tlb := s.tlb.filter fun t => t.die ≠ d
    lookups := s.lookups.filter fun l => l.die ≠ d
    turns := s.turns.filter fun t => t.1.1 ≠ d }
  let s := (runningCores s d).foldl (fun t c =>
    let t := settleFences (d, c) t
    let p := t.prog (d, c)
    let t := if p.saving.isSome then saveOver (d, c) kBUSY t else t
    t.setProg (d, c) { Prog.blank with
      running := true, asid := p.asid, ctx := p.ctx, qdie := p.qdie, queue := p.queue, ticket := p.ticket
      ending := some ⟨3, 0, 0, 0, 0, 0, none, false⟩ }) s
  let launches (q : Queue) : Queue :=
    { Queue.blank with asid := q.asid, next := q.next, started := q.started.filter fun p => p.kind == 1 }
  let s := { s with
    spurs := s.spurs.map fun (x : (Nat × Nat) × Spur) => if x.1.1 = d then (x.1, x.2.release) else x
    queues := s.queues.map fun (x : (Nat × Nat) × Queue) => if x.1.1 = d then (x.1, launches x.2) else x }
  let s := s.setDie d ((s.die d).restart st)
  if st = .out then endLost d s else s

/-- A full-empty operation in the queue of a word whose home is lost: applied or not where its condition holds (R239). -/
def loseFe (r : FeReq) : Act Fin := do
  let s ← get
  if feProceeds r.op (granFull s r.g) then feFinish r else trap cLINKERR r.tval

/-- Stores and reductions that stood only in the queues of lost words stand there no more: the next fence meets their lost home. -/
def freePends (lost : List ClaimEntry) (s : State) : State :=
  let out (who : AgentId) (p : Pend) : Bool :=
    let e := ClaimEntry.op who p.id
    lost.contains e && !s.claims.any fun x => x.2.contains e
  { s with agents := s.agents.map fun (who, a) =>
      (who, { a with pend := a.pend.map fun p => if out who p then { p with queued := false } else p }) }

/-- Accesses that wait at a home that has left service trap LINKERR (R239, R397): an atomic in the queue of a word was applied or
not. -/
def failWaits (s : State) : State :=
  let word (k : Nat) : Bool := !s.reach (s.homeOfKey k)
  let fe := s.feWait.filter fun x => match x.1 with
    | .mem k => word k
    | _ => false
  let s := fe.foldl (fun t x =>
    match (t.agent x.2).wait with
    | .granule r => trapWait x.2 ⟨cLINKERR, r.tval⟩ (feWithdraw t x.2)
    | _ => t) s
  let lost := (s.claims.filter fun x => word (x.1 * 8)).flatMap (·.2)
  let s := { s with
    claims := s.claims.filter fun x => !word (x.1 * 8)
    granted := s.granted.filter fun w => !word (w * 8) }
  let s := freePends lost s
  lost.foldl (fun t e =>
    match e with
    | .op _ _ => t
    | .amo a => match (t.agent a).wait with
      | .claim r => finishWait a (performAmo r) t
      | _ => t
    | .fe a => match (t.agent a).wait with
      | .granule r => finishWait a (loseFe r) t
      | _ => t) s

/-- Firmware has reset a lost die: it returns to service, or is fenced (R376) for the life of the device (R24). -/
def execDieResetComplete (die : Nat) (pass : Bool) (s : State) : Out :=
  when (decide (die < 4) && (s.die die).state == .lost && fwRuns s) (fun s =>
    let s := endLost die (s.setDie die { s.die die with state := if pass then .up else .out })
    if pass then s else failWaits { s with fences := s.fences ++ [⟨5, die, 0⟩] }) s

/-- Poison in a register (R374). -/
def poisonReg (who : AgentId) (n : Nat) (s : State) : State :=
  let a := s.agent who
  if a.live ∧ n ≠ 0 ∧ (isSlot who = false ∨ n < a.ctx.window ∨ 96 ≤ n) then
    s.setAgent who { a with ctx := { a.ctx with poison := n :: a.ctx.poison.filter (· ≠ n) } }
  else s

/-- The agent of a register error: a slot by its physical number, else a master core (R11). -/
def regAgent (d n : Nat) : AgentId :=
  if n < 28672 then .slot d (n / 128) (n / 32 % 4) (n % 32) else .master d (n - 28672)

/-- The bytes of a spur's token store (R318): 128 cells of 16. -/
def tokenBytes : Nat := 2048

/-- Poison in a word of a token (R374). -/
def poisonToken (k : Nat × Nat) (o : Nat) (s : State) : State :=
  let p := s.spur k
  match tabFind p.tokens (o / 16) with
  | some r => s.setSpur k { p with tokens := tabSet p.tokens (o / 16) { r with bad := (o % 16 / 8) :: r.bad.filter (· ≠ o % 16 / 8) } }
  | none => s

/-- Poison in a word of a pool, or in the register that lies there (R374). Of the read-data cache, the i-th oldest line lies i-th in
its banks (DESIGN CHOICE, log 43). -/
def poisonPool (k : Nat × Nat) (addr : Nat) (s : State) : State :=
  let p := s.spur k
  let b := addr / bankBytes
  match p.role b with
  | .reg =>
    let o := tabGet p.places b 0 * bankBytes + addr % bankBytes
    match p.windows.find? fun w => decide (w.base * 64 ≤ o ∧ o < (w.base + w.len) * 64) with
    | some w => poisonReg w.who ((o - w.base * 64) / 8) s
    | none => s
  | .free => s
  | .rdc =>
    let o := tabGet p.places b 0 * bankBytes + addr % bankBytes
    match p.rdc[o / 64]? with
    | some x => s.setSpur k { p with rdc := listSet p.rdc (o / 64) { x with bad := (o % 64 / 8) :: x.bad.filter (· ≠ o % 64 / 8) } }
    | none => s
  | _ => s.setSpur k { p with poisonWords := addr / 8 :: p.poisonWords.filter (· ≠ addr / 8) }

/-- An uncorrectable error (R374, R376), by the class of its unit: 1 a pool word of a spur, or above them a word of its token
store, 2 an HBM line, 3 a register, 4 a spur's control state, 5 a TLB entry, 6 a die unit, 7 the device. An HBM error counts
as an event of its pseudo-channel and retires its frame (R377, R378). -/
def execUncorrectableError (die unit index addr : Nat) (s : State) : Out :=
  if !servesDie s die then .next s
  else
    .next (match unit with
      | 1 =>
        if 224 ≤ index then s
        else if addr < 32 * bankBytes then poisonPool (die, index) addr s
        else if addr < 32 * bankBytes + tokenBytes then poisonToken (die, index) (addr - 32 * bankBytes) s
        else s
      | 2 =>
        let key := addr % 2 ^ 52
        let s := { s with
          bad := key / 64 :: s.bad.filter (· ≠ key / 64)
          retired := key / 4096 :: s.retired.filter (· ≠ key / 4096) }
        countAndFence die 2 index s
      | 3 => if addr < 128 then poisonReg (regAgent die index) addr s else s
      | 4 => if index < 224 ∧ !(s.spur (die, index)).fenced then fenceSpur (die, index) s else s
      | 5 => { s with tlb := listDel s.tlb index }
      | 6 => failWaits (loseDie die .lost s)
      | 7 => stopDevice s
      | _ => s)

end Sys2Proof.Machine
end

