-- ==== Sys2Proof/Machine/Sha3.lean ====
section
/-! DEFINITION. SHA3-512 and SHA3-384 as FIPS 202 defines them, which the spec names and does not define (13_translation.md R350,
R351, 15_firmware_links.md R384; log 13). -/

namespace Sys2Proof.Machine

/-- A lane rotated left. -/
def rotl (x : Word) (n : Nat) : Word := if n % 64 = 0 then x else (x <<< (n % 64)) ||| (x >>> (64 - n % 64))

/-- Where the lane at (x, y) moves: to (y, 2 x + 3 y). -/
def keccakMove (p : Nat × Nat) : Nat × Nat := (p.2, (2 * p.1 + 3 * p.2) % 5)

/-- The n lanes that the move visits from a place on. -/
def keccakWalk : Nat → Nat × Nat → List (Nat × Nat)
  | 0, _ => []
  | n + 1, p => p :: keccakWalk n (keccakMove p)

/-- How far the lane at (x, y) turns: the t-th lane of the walk from (1, 0), counted from 1, by 1 + 2 + … + t; the lane at
(0, 0) not at all. -/
def keccakTurn (x y : Nat) : Nat :=
  match (keccakWalk 24 (1, 0)).findIdx? (· == (x, y)) with
  | some t => (t + 1) * (t + 2) / 2 % 64
  | none => 0

/-- The rotation of each lane, by x + 5 y. -/
def keccakTurns : List Nat := (List.range 25).map fun i => keccakTurn (i % 5) (i / 5)

/-- One shift of the register that gives the round constants' bits: by x, modulo x^8 + x^6 + x^5 + x^4 + 1. -/
def keccakShift (r : Nat) : Nat := if 128 ≤ r then (2 * r % 256) ^^^ 0x71 else 2 * r

/-- The constant of a round from its register on, and the register after it: its seven bits stand at 2^j - 1. -/
def keccakConst : Nat → Nat → Nat → Nat × Nat
  | 0, _, r => (0, r)
  | n + 1, j, r =>
    let rest := keccakConst n (j + 1) (keccakShift r)
    (r % 2 * 2 ^ (2 ^ j - 1) + rest.1, rest.2)

/-- The constants of n rounds from a register on. -/
def keccakConstsFrom : Nat → Nat → List Nat
  | 0, _ => []
  | n + 1, r => (keccakConst 7 0 r).1 :: keccakConstsFrom n (keccakConst 7 0 r).2

/-- The constants of the 24 rounds. -/
def keccakConsts : List Nat := keccakConstsFrom 24 1

/-- The lane at (x, y), both modulo 5. -/
def keccakLane (a : List Word) (x y : Nat) : Word := a.getD (x % 5 + 5 * (y % 5)) 0

/-- The parity of a column. -/
def keccakParity (a : List Word) (x : Nat) : Word := [0, 1, 2, 3, 4].foldl (fun t y => t ^^^ keccakLane a x y) 0

/-- The first part of a round: each lane takes in the parities of the columns beside it. -/
def keccakMix (a : List Word) : List Word :=
  let par := [0, 1, 2, 3, 4].map (keccakParity a)
  a.zipIdx.map fun (v, i) => v ^^^ par.getD ((i + 4) % 5) 0 ^^^ rotl (par.getD ((i + 1) % 5) 0) 1

/-- The second: lanes turn and move; the one that lands at (x, y) comes from (x + 3 y, x). -/
def keccakStir (a : List Word) : List Word :=
  (List.range 25).map fun i =>
    let x := i % 5 + 3 * (i / 5)
    rotl (keccakLane a x (i % 5)) (keccakTurns.getD (x % 5 + 5 * (i % 5)) 0)

/-- The third: a row's lanes combined, and the round's constant taken into the first lane. -/
def keccakFold (rc : Nat) (b : List Word) : List Word :=
  b.zipIdx.map fun (v, i) =>
    let w := v ^^^ (keccakLane b (i % 5 + 2) (i / 5) &&& ~~~keccakLane b (i % 5 + 1) (i / 5))
    if i = 0 then w ^^^ BitVec.ofNat 64 rc else w

/-- One round on the 25 lanes. -/
def keccakRound (a : List Word) (rc : Nat) : List Word := keccakFold rc (keccakStir (keccakMix a))

/-- The permutation. -/
def keccak (a : List Word) : List Word := keccakConsts.foldl keccakRound a

/-- The lanes after a block of n lanes. -/
def absorb (n : Nat) (a : List Word) (bs : List Byte) : List Word :=
  let lane (i : Nat) : Word := ((List.range 8).map fun j => (bs.getD (8 * i + j) 0).zeroExtend 64 <<< (8 * j)).foldl (· ||| ·) 0
  keccak ((List.range 25).map fun i => if i < n then a.getD i 0 ^^^ lane i else a.getD i 0)

/-- The message with its padding: a whole number of blocks of r bytes. -/
def sha3Pad (r : Nat) (m : List Byte) : List Byte :=
  let n := r - m.length % r
  m ++ (if n = 1 then [0x86#8] else 0x06#8 :: (List.replicate (n - 2) 0#8 ++ [0x80#8]))

/-- Every block of n lanes of a padded message absorbed; `k` is their number. -/
def sha3Blocks (n : Nat) : Nat → List Word → List Byte → List Word
  | 0, a, _ => a
  | k + 1, a, bs => sha3Blocks n k (absorb n a (bs.take (8 * n))) (bs.drop (8 * n))

/-- The first `size` bytes of the hash whose blocks have n lanes. -/
def sha3Of (n size : Nat) (m : List Byte) : List Byte :=
  let p := sha3Pad (8 * n) m
  let a := sha3Blocks n (p.length / (8 * n)) (List.replicate 25 0) p
  (List.range size).map fun i => ((a.getD (i / 8) 0) >>> (8 * (i % 8))).truncate 8

/-- The 64 bytes of SHA3-512. -/
def sha3 (m : List Byte) : List Byte := sha3Of 9 64 m

/-- The 48 bytes of SHA3-384. -/
def sha3s (m : List Byte) : List Byte := sha3Of 13 48 m

end Sys2Proof.Machine
end

