-- ==== Sys2Proof/Machine/Firmware.lean ====
section
/-! DEFINITION. The firmware complexes, the journal, live update (15_firmware_links.md R383 to R386), and the measurement
registers (13_translation.md R350). -/

namespace Sys2Proof.Machine

/-! ### The state table (R384) -/

/-- A queue's descriptor with its state. -/
def Queue.desc (q : Queue) : QueueDesc :=
  ⟨q.state, q.estat, q.base, q.lsize, q.loc, q.prio, q.weight, q.asid, q.head, q.tail⟩

/-- The body of the state table. -/
def tableOf (s : State) : FwTable :=
  { queues := s.queues.map fun x => (x.1, x.2.desc)
    faults := s.dies.map fun x => (x.1, x.2.faults)
    request := if s.mailbox.busy then some s.mailbox.sub else none
    counters := s.dies.map fun x => (x.1, x.2.events)
    fences := s.fences
    links := s.links.map fun x => (x.1, x.2.state) }

/-- A queue's state as a number. -/
def QState.code : QState → Nat
  | .disabled => 0
  | .ready => 1
  | .blocked => 2
  | .fetchFault => 3
  | .error => 4

/-- A link's state as a number. -/
def LinkState.code : LinkState → Nat
  | .training => 0
  | .active => 1
  | .replay => 2
  | .retrain => 3
  | .down => 4

/-- The contents of a table as numbers. -/
def FwTable.numbers (t : FwTable) : List Nat :=
  (t.queues.flatMap fun (k, q) =>
    [k.1, k.2, q.state.code, q.estat, q.base, q.lsize, q.loc, q.prio, q.weight, q.asid, q.head, q.tail]) ++
  (t.faults.flatMap fun (d, l) => l.flatMap fun f => [d, f.id, f.asid, f.va, f.acc, f.core, if f.sent then 1 else 0]) ++
  ((t.request.getD []).map fun b => b.toNat) ++
  (t.counters.flatMap fun (d, l) => l.flatMap fun e => [d, e.unit, e.index, e.time]) ++
  (t.fences.flatMap fun x => [x.unit, x.die, x.index]) ++
  t.links.flatMap fun (l, st) => [l, st.code]

/-- The 512-bit header of the table that the active complex exports: VERSION, MINVER, LEN, JSEQ and DIGEST (R384). -/
def tableHeader (s : State) : Nat :=
  let n := (if s.fw.aActive then s.fw.a else s.fw.b).image
  let body := Config.tableBody (tableOf s).numbers
  Config.tableVersion n % 2 ^ 16 + Config.tableMinver n % 2 ^ 16 * 2 ^ 16 + (body.length + 64 + 4095) / 4096 % 2 ^ 32 * 2 ^ 32 +
    s.fw.jseq % 2 ^ 64 * 2 ^ 64 + leNat (sha3s body) * 2 ^ 128

/-- The changes of the table from one state to another, as journal entries (R383). -/
def FwTable.changes (t u : FwTable) : List FwEntry :=
  ((u.queues.filter fun x => !t.queues.contains x).map fun x => .queue x.1 x.2) ++
  ((u.faults.filter fun x => tabGet t.faults x.1 [] != x.2).map fun x => .faults x.1 x.2) ++
  (if t.request = u.request then [] else [.request u.request]) ++
  ((u.counters.filter fun x => tabGet t.counters x.1 [] != x.2).map fun x => .counters x.1 x.2) ++
  (if t.fences = u.fences then [] else [.fences u.fences]) ++
  ((u.links.filter fun x => !t.links.contains x).map fun x => .link x.1 x.2)

/-- A journal entry applied to a table. -/
def FwTable.apply (t : FwTable) (e : FwEntry) : FwTable :=
  match e with
  | .queue k q => { t with queues := tabSet t.queues k q }
  | .faults d l => { t with faults := tabSet t.faults d l }
  | .request r => { t with request := r }
  | .counters d l => { t with counters := tabSet t.counters d l }
  | .fences l => { t with fences := l }
  | .link l st => { t with links := tabSet t.links l st }

/-- The active complex records the changes of the table in the journal (R383), where it runs before and after. -/
def journalChanges (s t : State) : State :=
  if fwRuns s && fwRuns t && s.fw.aActive == t.fw.aActive then
    let es := (tableOf s).changes (tableOf t)
    { t with fw := { t.fw with jseq := t.fw.jseq + es.length, journal := t.fw.journal ++ es } }
  else t

/-! ### Measurement (R350) -/

/-- A measured digest as its 64 bytes. -/
def Measure.bytes (m : Measure) : List Byte :=
  match m with
  | .boot n => leBytes 64 (Config.bootDigest n).toNat
  | .image _ d => leBytes 64 d.toNat
  | .given d => leBytes 64 d.toNat
  | .fences l => leBytes 64 (Config.fuseDigest (l.flatMap fun x => [x.unit, x.die, x.index])).toNat
  | .config r => sha3 r

/-- The name of what is measured, in the log. -/
def Measure.name (m : Measure) : String :=
  match m with
  | .boot n => "boot" ++ toString n
  | .image _ _ => "update"
  | .given _ => "host"
  | .fences _ => "fuses"
  | .config _ => "driver"

/-- Its version. -/
def Measure.version (m : Measure) : Nat :=
  match m with
  | .boot n => Config.bootVersion n
  | .image n _ => Config.fwVersion n
  | _ => 0

/-- The bytes of the measurement log. -/
def Firmware.logBytes (f : Firmware) : List Byte :=
  f.log.flatMap fun e => Config.logEntry e.1 e.2.name e.2.version e.2.bytes

/-- A measurement register: every digest of its log entries extended into it in turn. -/
def Firmware.mr (f : Firmware) (n : Nat) : List Byte :=
  (f.log.filter fun e => e.1 = n).foldl (fun r e => sha3 (r ++ e.2.bytes)) (List.replicate 64 0)

/-- A register extended, with its entry in the measurement log. -/
def extendMr (n : Nat) (m : Measure) (s : State) : State := { s with fw := { s.fw with log := s.fw.log ++ [(n, m)] } }

/-! ### The complexes (R383) -/

/-- The firmware with its standby changed. -/
def Firmware.setStandby (f : Firmware) (c : Complex) : Firmware := if f.aActive then { f with b := c } else { f with a := c }

/-- The firmware with its active complex changed. -/
def Firmware.setActive (f : Firmware) (c : Complex) : Firmware := if f.aActive then { f with a := c } else { f with b := c }

/-- Whether the package has power and has not stopped. -/
def powered (s : State) : Bool := s.power != .off && s.power != .stopped

/-- Whether an UPDATE is the request that waits for its answer. -/
def mbUpdates (s : State) : Bool := mbPending s && s.mailbox.taken && mbCode s == 0x11

/-- An UPDATE ends with an answer. -/
def endUpdate (ans : Nat) (s : State) : State :=
  let s := { s with fw := { s.fw with upd := .idle } }
  if mbUpdates s then mbAnswer ans [] s else s

/-- The standby reboots the image it ran before the update. -/
def revertStandby (s : State) : State :=
  let c := s.fw.standby
  { s with fw := s.fw.setStandby { c with image := c.prev } }

/-- One heartbeat period (R383): the active complex writes its heartbeat, or the standby misses one. -/
def execHeartbeat (s : State) : Out :=
  when (powered s) (fun s => { s with fw := { s.fw with missed := if s.fw.active.alive then 0 else s.fw.missed + 1 } }) s

/-- What firmware alone keeps, the error counters, as the standby's table has them: the command processors, the fault queues and the
links run on with their own state (R383). -/
def takeShadow (s : State) : State :=
  { s with dies := s.dies.map fun (d, r) => (d, { r with events := tabGet s.fw.shadow.counters d [] }) }

/-- A request that the failed complex had taken is not performed (R388): a save asked for is withdrawn, and so is a KILL whose program
has not ended. -/
def dropTaken (s : State) : State :=
  let k := (mbArg s 8 1, mbArg s 9 1)
  let p := s.prog k
  if mbCode s = 0x09 then s.setProg k { p with saving := none }
  else if mbCode s = 0x08 then
    match p.ending with
    | some r => if r.reason = 4 then s.setProg k { p with ending := none } else s
    | none => s
  else s

/-- The standby becomes active (R383, R386): with the table as of its last journal entry, or of the whole journal where an
update had not imported the table; a request that was taken is answered RETRY, an UPDATE ABORTED. -/
def failover (s : State) : State :=
  let f := s.fw
  let early := f.upd == .staged || f.upd == .imports
  let s := if early then revertStandby s else takeShadow s
  let f := s.fw
  let applied := if early then f.jseq else f.standby.applied
  let f := f.setStandby { f.standby with applied := applied }
  let s := { s with fw := { f with
    aActive := !f.aActive, missed := 0, jseq := applied, journal := f.journal.take applied } }
  let s := if s.fw.upd == .idle then s else endUpdate aABORTED s
  if mbPending s && s.mailbox.taken then mbAnswer aRETRY [] (dropTaken s) else s

/-- Failover after three missed heartbeats (R383). -/
def execFailover (s : State) : Out :=
  when (powered s && decide (3 ≤ s.fw.missed) && !s.fw.active.alive && s.fw.standby.alive) failover s

/-- A complex fails (R383, R386): both failed is the loss of the device (R376). -/
def execFirmwareComplexFailure (standby : Bool) (s : State) : Out :=
  when (powered s) (fun s =>
    let f := s.fw
    let s := { s with fw := if standby then f.setStandby { f.standby with alive := false }
      else f.setActive { f.active with alive := false } }
    let s := if standby && s.fw.upd != .idle then endUpdate aABORTED s else s
    if s.fw.a.alive || s.fw.b.alive then s else stopDevice s) s

/-- The standby applies the next entry of the journal (R383). -/
def execJournalApply (s : State) : Out :=
  let f := s.fw
  match f.journal[f.standby.applied]? with
  | some e =>
    when (powered s && f.standby.alive && f.upd != .staged && f.upd != .imports) (fun s =>
      { s with fw := { f.setStandby { f.standby with applied := f.standby.applied + 1 } with shadow := f.shadow.apply e } }) s
  | none => .next s

/-! ### Live update (R385) -/

/-- The standby's boot ROM has verified the image, or refused it. -/
def execUpdateVerified (ok : Bool) (s : State) : Out :=
  when (fwRuns s && s.fw.upd == .staged && s.fw.standby.alive) (fun s =>
    if ok then extendMr 0 (.image s.fw.image s.fw.digest) { s with fw := { s.fw with upd := .imports } }
    else endUpdate aREFUSED (revertStandby s)) s

/-- Whether an image imports a state table with a VERSION and a MINVER (R384). -/
def imports (image version minver : Nat) : Bool := Config.importable image version && decide (minver ≤ Config.fwVersion image)

/-- The standby imports the state table that the active complex exports, whose header carries VERSION and MINVER, or its version is
refused (R384). -/
def execStateTableImport (version minver : Nat) (s : State) : Out :=
  let h := tableHeader s
  when (fwRuns s && s.fw.upd == .imports && s.fw.standby.alive && h % 2 ^ 16 == version && h / 2 ^ 16 % 2 ^ 16 == minver) (fun s =>
    let s := { s with fw := { s.fw with header := h } }
    if imports s.fw.standby.image version minver then
      let f := s.fw
      { s with fw := { f.setStandby { f.standby with applied := f.jseq } with upd := .sync, shadow := tableOf s } }
    else endUpdate aVERSION (revertStandby s)) s

/-- The journal is applied up to the active JSEQ. -/
def execJournalSynced (s : State) : Out :=
  when (fwRuns s && s.fw.upd == .sync && s.fw.standby.alive && s.fw.standby.applied == s.fw.jseq)
    (fun s => { s with fw := { s.fw with upd := .quiesce } }) s

/-- Whether no command processor has a fetch in progress (R385). -/
def quiescent (s : State) : Bool := s.queues.all fun q => q.2.page.isNone

/-- The roles swap in one step. -/
def execQuiescenceTakeover (s : State) : Out :=
  when (fwRuns s && s.fw.upd == .quiesce && s.fw.standby.alive && s.fw.standby.applied == s.fw.jseq && quiescent s) (fun s =>
    let f := s.fw
    let f := f.setActive { f.active with applied := f.jseq }
    endUpdate aOK { s with fw := { f with aActive := !f.aActive, missed := 0 } }) s

/-- Quiescence is not reached within 100 ms: the update is aborted. -/
def execQuiesceTimeout (s : State) : Out :=
  when (fwRuns s && s.fw.upd == .quiesce) (fun s => endUpdate aBUSY (revertStandby s)) s

end Sys2Proof.Machine
end

