-- ==== Sys2Proof/Machine/Links.lean ====
section
/-! DEFINITION. Flits, replay and training of the links (15_firmware_links.md R393 to R397), and requests that arrive over them
(08_memory_instr.md R238). -/

namespace Sys2Proof.Machine

/-- The state with a link replaced. -/
def State.setLink (s : State) (l : Nat) (r : Link) : State := { s with links := tabSet s.links l r }

/-- Whether a link of that number exists: Traverse 0 to 31, Saddle directions 32 to 43. -/
def linkExists (l : Nat) : Bool := decide (l < 44)

/-- Whether a link is a direction of a Saddle port. -/
def isSaddle (l : Nat) : Bool := decide (32 ≤ l ∧ l < 44)

/-- The two dies of a Saddle direction: from, to. -/
def saddleEnds (l : Nat) : Nat × Nat :=
  let f := (l - 32) / 3
  let t := (l - 32) % 3
  (f, if t < f then t else t + 1)

/-- The link whose sender the flits arriving over a link acknowledge: the other direction. -/
def reverseLink (l : Nat) : Nat := if isSaddle l then saddleLink (saddleEnds l).2 (saddleEnds l).1 else l

/-- The die that a link's sender stands on. -/
def linkDie (l : Nat) : Nat := if isSaddle l then (saddleEnds l).1 else l / 8

/-! ### Flits (R393) -/

/-- One bit of CRC-64/ECMA-182: the generator of ECMA-182, the highest bit first, nothing inverted (log 13). -/
def crcBit (c : Nat) : Nat := if c < 2 ^ 63 then 2 * c else (2 * c) % 2 ^ 64 ^^^ 0x42F0E1EBA9EA3693

/-- One byte of it. -/
def crcByte (c : Nat) (b : Byte) : Nat :=
  crcBit (crcBit (crcBit (crcBit (crcBit (crcBit (crcBit (crcBit (c ^^^ b.toNat * 2 ^ 56))))))))

/-- CRC-64/ECMA-182 of some bytes. -/
def crc64 (bs : List Byte) : Nat := bs.foldl crcByte 0

/-- A flit: its kind (0 DATA, 1 IDLE, 2 NAK, 3 TRAIN), FSEQ, ACKSEQ and 116 bytes of payload. -/
def flitOf (kind fseq ack : Nat) (payload : List Byte) : List Byte :=
  let h := leBytes 2 (fseq % 4096 + kind * 4096) ++ leBytes 2 (ack % 4096) ++ payload
  h ++ leBytes 8 (crc64 h)

/-- Its fields. -/
def flitSeq (f : List Byte) : Nat := leNat (f.take 2) % 4096
def flitKind (f : List Byte) : Nat := leNat (f.take 2) / 4096
def flitAck (f : List Byte) : Nat := leNat ((f.drop 2).take 2) % 4096
def flitPayload (f : List Byte) : List Byte := (f.drop 4).take 116

/-- Whether a flit passes its check: an unknown kind is a failure. -/
def flitOk (f : List Byte) : Bool :=
  f.length == 128 && decide (flitKind f ≤ 3) && leNat (f.drop 120) == crc64 (f.take 120)

/-! ### Replay (R394, R395) -/

/-- The FSEQ of the oldest unacknowledged flit (R394). -/
def Link.una (r : Link) : Nat := (r.next + 4096 - r.buf.length % 4096) % 4096

/-- Whether flits pass: the link is trained. -/
def Link.carries (r : Link) : Bool :=
  match r.state with
  | .active => true
  | .replay => true
  | _ => false

/-- An ACKSEQ reaches the sender (R394, R395): what it passes leaves the replay buffer, and a replay is over. -/
def Link.ack (r : Link) (a : Nat) : Link :=
  let n := (a + 4096 - r.una) % 4096
  if 0 < n ∧ n ≤ r.buf.length then
    { r with buf := r.buf.drop n, resends := 0, state := match r.state with | .replay => .active | x => x }
  else r

/-- The sender resends every unacknowledged flit (R394, R395). -/
def Link.resend (r : Link) : Link :=
  if r.buf = [] then r
  else
    match r.state with
    | .active => { r with state := .replay, resends := 1 }
    | .replay => { r with resends := min 8 (r.resends + 1) }
    | _ => r

/-- The die that a flit of a Saddle direction is for: the one at its end, unless it is on a detour (R397). -/
def Link.dest (r : Link) (l fseq : Nat) : Nat := tabGet r.via fseq (saddleEnds l).2

/-- What a Saddle direction has not delivered for certain, by die: the unacknowledged flits in FSEQ order, then what waits (R397). -/
def Link.left (r : Link) (l : Nat) : List (Nat × List Byte) :=
  (r.buf.zipIdx.map fun (p, i) => (r.dest l ((r.una + i) % 4096), p)) ++ r.detour

/-- A payload waits on a die's route to another; with no route it is lost with the die that leaves service (R397). -/
def routeFlit (a : Nat) (s : State) (x : Nat × List Byte) : State :=
  match saddleRoute s a x.1 with
  | some l => s.setLink l { s.link l with detour := (s.link l).detour ++ [x] }
  | none => s

/-- Whether the links run: the package is ACTIVE or IDLE. -/
def linksRun (s : State) : Bool := s.power == .active || s.power == .idle

/-- Whether a flit is one of those that a link's sender keeps. -/
def Link.keeps (r : Link) (flit : List Byte) : Bool :=
  r.buf[(flitSeq flit + 4096 - r.una) % 4096]? == some (flitPayload flit)

/-- The sender of a direction after a new flit: what waits on a detour goes first (R397). -/
def Link.sent (l : Nat) (r : Link) (p : List Byte) : Link :=
  { r with
    next := (r.next + 1) % 4096, buf := r.buf ++ [p], detour := r.detour.drop 1
    via := match r.detour.head? with
      | some x => if x.1 = (saddleEnds l).2 then r.via else tabSet r.via r.next x.1
      | none => r.via }

/-- Whether a payload may be the next that a direction sends. -/
def Link.maySend (r : Link) (p : List Byte) : Bool :=
  match r.detour.head? with
  | some x => p == x.2
  | none => true

/-- The receiver of a direction takes the expected flit (R394), and sends one that is on a detour on its way (R397). -/
def deliverFlit (l : Nat) (p : List Byte) (s : State) : State :=
  let r := s.link l
  let t := s.setLink l { r with
    expected := (r.expected + 1) % 4096, naked := false, via := r.via.filter fun x => x.1 != r.expected }
  match tabFind r.via r.expected with
  | some d => routeFlit (saddleEnds l).2 t (d, p)
  | none => t

/-- The receiver of a direction discards a DATA flit: it sends one NAK for the number it expects (R394, R396). -/
def Link.discards (r : Link) : Link := if r.naked then r else { r with naks := r.naks ++ [r.expected], naked := true }

/-- A DATA flit (R393, R394) with its 128 bytes. The sender sends it with its next FSEQ and the number it expects itself, unless 512 are
unacknowledged. It arrives: delivered when it passes its check with the expected FSEQ, else discarded. On a Saddle
direction a flit that passes its check is one that the sender keeps. -/
def execDataFlit (link : Nat) (send : Bool) (flit : List Byte) (s : State) : Out :=
  let r := s.link link
  if !linksRun s ∨ !linkExists link then .next s
  else if send then
    when (r.state == .active && decide (r.buf.length < 512) &&
        flit == flitOf 0 r.next (s.link (reverseLink link)).expected (flitPayload flit) && flit.length == 128 &&
        r.maySend (flitPayload flit))
      (fun s => s.setLink link (r.sent link (flitPayload flit))) s
  else
    let ok := flitOk flit
    when (r.carries && (!ok || flitKind flit == 0 && (!isSaddle link || r.keeps flit))) (fun s =>
      let s := if ok then s.setLink (reverseLink link) ((s.link (reverseLink link)).ack (flitAck flit)) else s
      let r := s.link link
      if ok ∧ flitSeq flit = r.expected then deliverFlit link (flitPayload flit) s
      else s.setLink link r.discards) s

/-- A NAK reaches the sender (R394): its ACKSEQ, the receiver's E, acknowledges what lies before it, and the rest is resent. On a
Saddle direction it is the oldest the receiver sent. -/
def execNakFlit (link : Nat) (flit : List Byte) (s : State) : Out :=
  let r := s.link link
  let e := flitAck flit
  when (linksRun s && linkExists link && r.carries && flitOk flit && flitKind flit == 2 && (!isSaddle link || r.naks.head? == some e))
    (fun s => s.setLink link ((if isSaddle link then { r with naks := r.naks.drop 1 } else r).ack e).resend) s

/-- An IDLE flit with its ACKSEQ reaches the sender of a link (R393). -/
def execIdleFlit (link : Nat) (flit : List Byte) (s : State) : Out :=
  when (linksRun s && linkExists link && (s.link link).carries && flitOk flit && flitKind flit == 1)
    (fun s => s.setLink link ((s.link link).ack (flitAck flit))) s

/-- 4 µs without ACKSEQ advancing while flits are unacknowledged (R394). -/
def execReplayTimeout (link : Nat) (s : State) : Out :=
  when (linksRun s && linkExists link) (fun s => s.setLink link (s.link link).resend) s

/-- Eight resends without ACKSEQ advancing (R395): the link retrains. -/
def execReplayLimit (link : Nat) (s : State) : Out :=
  let r := s.link link
  when (linksRun s && linkExists link && r.state == .replay && decide (8 ≤ r.resends))
    (fun s => s.setLink link { r with state := .retrain, retrains := r.retrains ++ [(s.die (linkDie link)).sample] }) s

/-- The widths a link may train at (R396). -/
def linkWidths (l : Nat) : List Nat := if isSaddle l then [64, 32, 16, 8] else [8, 4, 2, 1]

/-- Lanes of a link that are good: not found faulty, and not left out by a training. -/
def goodLanes (l : Nat) (r : Link) : Nat :=
  let n := if isSaddle l then 64 else 8
  min r.lanes (n - (r.bad.eraseDups.filter (· < n)).length)

/-- A link trained at a width: of its lanes fewer than twice as many are good, and those that failed never return (R396). -/
def Link.trainedAt (r : Link) (width : Nat) : Link :=
  { r with state := .active, width := width, resends := 0, lanes := min r.lanes (2 * width - 1) }

/-- Dies that leave service for want of a Saddle path (R397), as an operation makes them leave: one with no path to any other, and of
two without a path between them the higher (DESIGN CHOICE, log 43), so that the dies left all reach one another. -/
def isolateBy (leave : Nat → State → State) (s : State) : State :=
  let t := ((List.range 4).filter (cutOff s)).foldl (fun t d => if (t.die d).state == .up then leave d t else t) s
  [3, 2, 1].foldl (fun t e =>
    if (t.die e).state == .up && (List.range e).any fun d => (t.die d).state == .up && !hasWay t e d then leave e t else t) t

/-- Dies without a Saddle path to another are lost (R376, R397). -/
def isolate (s : State) : State := isolateBy (fun d t => failWaits (loseDie d .out t)) s

/-- A link goes DOWN (R395): a Saddle port as a whole, whose dies send on a detour what they do not know delivered; a Traverse link's
waiting requests trap LINKERR (R239, R397). -/
def linkDown (l : Nat) (s : State) : State :=
  let down (s : State) (l : Nat) : State := s.setLink l
    { s.link l with state := .down, width := 0, buf := [], naks := [], naked := false, resends := 0, detour := [], via := [] }
  if isSaddle l then
    let m := reverseLink l
    let t := down (down s l) m
    let t := ((s.link l).left l).foldl (routeFlit (saddleEnds l).1) t
    isolate (((s.link m).left m).foldl (routeFlit (saddleEnds m).1) t)
  else failWaits (down s l)

/-- Training is over at a width (R395, R396): none, or more than the good lanes reach, is a failure, and so is a fourth retrain
within 1 s. -/
def execLinkTrainingDone (link width : Nat) (s : State) : Out :=
  let r := s.link link
  if !linksRun s ∨ !linkExists link then .next s
  else
    let ok := (linkWidths link).contains width && decide (width ≤ goodLanes link r)
    match r.state with
    | .training =>
      .next (if ok then
          s.setLink link { r.trainedAt width with
            next := 0, expected := 0, buf := [], naks := [], naked := false, via := [], trained := true }
        else linkDown link s)
    | .retrain =>
      let now := (s.die (linkDie link)).sample
      let few := decide ((r.retrains.filter fun t => decide (now < t + 100000)).length ≤ 3)
      .next (if ok && few then s.setLink link (r.trainedAt width) else linkDown link s)
    | _ => .next s

/-- Firmware trains a Saddle port that is DOWN again (R395). -/
def execSaddleFirmwareRecovery (link : Nat) (s : State) : Out :=
  let r := s.link link
  when (linksRun s && fwRuns s && isSaddle link && r.state == .down) (fun s => s.setLink link { r with state := .training }) s

/-! ### Requests of other devices (R238) -/

/-- The step of a request at its home, with the reply: kind 0 a store of w bytes, 1 a reduction (function, width code), 2 a
returning atomic (function, w bytes), 3 a full-empty operation. -/
def requestStep (kind fn w key : Nat) (y expect : Word) : Act Nat := do
  let n := match kind with
    | 0 => w
    | 1 => if w = 0 ∨ w = 2 then 4 else 8
    | 2 => w
    | _ => 8
  let keys := span key n
  awaitOwner keys
  let s ← get
  if claimedWord s keys then throw .stall
  match kind with
  | 0 =>
    let s := touchL1 s s.cur false true keys
    set { s with mem := memSets s.mem keys (leBytes n (y.toNat % 2 ^ (8 * n))) }
    pure 0
  | 1 =>
    poisonTrap key keys
    let (bs, s) := maskSpill s keys (memGets s.mem keys)
    let s := touchL1 s s.cur false true keys
    set { s with mem := memSets s.mem keys (leBytes n (redApply fn w (leNat bs) y)) }
    pure 0
  | 2 =>
    poisonTrap key keys
    let (bs, s) := maskSpill s keys (memGets s.mem keys)
    let old := leNat bs
    let r : AmoReq := ⟨fn, 8 * n, 0, y, expect, 0, keys, [], none⟩
    let s := touchL1 s s.cur false true keys
    set { s with mem := memSets s.mem keys (leBytes n (amoNew r old)) }
    pure old
  | _ =>
    let g := Granule.mem key
    if !feProceeds fn (granFull s g) then throw .stall
    let x ← feStep fn g y 0
    mods fun s => serveGranule s.feWait.length g s
    pure x.toNat

/-- Whether a request is well formed and aligned, to memory that exists (R13). -/
def requestOk (kind fn w addr : Nat) : Bool :=
  decide (addr < hbmBytes) &&
  match kind with
  | 0 => [1, 2, 4, 8].contains w && addr % w == 0
  | 1 => decide (fn < 11 ∧ w < 4) && addr % (if w = 0 ∨ w = 2 then 4 else 8) == 0
  | 2 => decide (fn < 10) && (w == 4 || w == 8) && addr % w == 0
  | 3 => decide (fn < 5) && addr % 8 == 0
  | _ => false

/-- A request of another device arrives at the home slice of its line (R238): one that is among the 64 its source had applied
last is not applied again, and its saved reply is returned. One that must wait has not arrived yet (log 2). -/
def execLinkRequest (src seq kind fn w addr y expect : Nat) (s : State) : Out :=
  let home := s.homeDie addr
  let slot := (home * 64 + Config.homeSlice (addr / 64) % 64, src)
  let saved := tabGet s.applied slot []
  if !servesDie s home ∨ !requestOk kind fn w addr ∨ 2 ^ 16 ≤ seq ∨ 2 ^ 24 ≤ src ∨ saved.any (fun x => x.1 == seq) then .next s
  else
    match (requestStep kind fn w addr (wordN y) (wordN expect)).run { s with cur := .slot home 0 0 0, defer := false } with
    | .ok (reply, t) =>
      .next { t with
        cur := s.cur, defer := s.defer, writes := s.writes, applied := tabSet s.applied slot (((seq, reply) :: saved).take 64) }
    | .error _ => .next s

end Sys2Proof.Machine
end

