-- ==== Sys2Proof/Machine/BringUp.lean ====
section
/-! DEFINITION. Bring-up (15_firmware_links.md R399), from power-on and after a reset of the device (14_recovery.md R376). -/

namespace Sys2Proof.Machine

/-- A fence of the fuse-held list applied to the reset package (R378, R399). -/
def applyFence (s : State) (f : Fence) : State :=
  match f.unit with
  | 1 =>
    let k := (f.die, f.index / 32)
    s.setSpur k { s.spur k with fencedBanks := (s.spur k).fencedBanks ++ [f.index % 32] }
  | 3 =>
    let r := s.link (f.index / 64)
    s.setLink (f.index / 64) { r with bad := r.bad ++ [f.index % 64] }
  | 4 => s.setSpur (f.die, f.index) { s.spur (f.die, f.index) with fenced := true }
  | 5 => s.setDie f.die { s.die f.die with state := .out }
  | _ => s

/-- What bring-up begins with: nothing but what lies outside the package, the bytes of the host's and other devices' memories, and
what holds for the life of the device: the fuses and the retired frames (R24, R378). -/
def freshPackage (s : State) : State :=
  { State.reset with
    mem := s.mem.filter fun c => keySpace c.1 ≠ 0
    bad := s.bad.filter fun l => keySpace (l * 64) ≠ 0
    full := s.full.filter fun w => keySpace (w * 8) ≠ 0
    links := (List.range 44).foldl (fun t l => tabSet t l { tabGet t l Link.blank with lanes := (s.link l).lanes }) bootLinks
    fences := s.fences, retired := s.retired, pcieErrors := s.pcieErrors, msix := s.msix, hostData := s.hostData, free := s.free, agenda := s.agenda, cur := s.cur }

/-- The units that a bring-up finds failed and fences (R378, R399): pseudo-channels, banks, spurs and lanes of links, which fail their
training. -/
def bootFences (f : BootFails) : List Fence :=
  (f.channels.map fun x => ⟨2, x.1, x.2⟩) ++
  ((f.units.filter fun x => (x.1 == 1 || x.1 == 3 || x.1 == 4) && decide (x.2.1 < 4) && unitExists x.1 x.2.2).map fun x => ⟨x.1, x.2.1, x.2.2⟩)

/-- The firmware of a bring-up that reached a step: FC-A active unless it failed (R383); the image of the first good slot, and what is
measured after it (R350). -/
def bootFirmware (f : BootFails) (step : Nat) (fences : List Fence) : Firmware :=
  let image : Nat := if f.slots = 0 then 0 else 5
  let log := [(0, .boot image), (1, .boot 1), (2, .boot 2), (3, .boot 3), (4, .fences fences)]
  { Firmware.booted with
    aActive := !f.rom.contains 0
    a := ⟨decide (step = 7) && !f.rom.contains 0, 0, 0, 0, f.rom.contains 0⟩
    b := ⟨decide (step = 7) && !f.rom.contains 1, 0, 0, 0, f.rom.contains 1⟩
    boot := step
    log := if step = 7 then log else log.take (step - 2) }

/-- The step at which a bring-up fails as a whole, 7 where it does not (R399): both complexes off, no image that verifies, the
service cores' firmware. -/
def bootStep (f : BootFails) : Nat :=
  if f.rom.contains 0 && f.rom.contains 1 then 1 else if 2 ≤ f.slots then 2 else if f.micro then 3 else 7

/-- The Saddle port of a direction trained at the widest width that its good lanes reach (R396), or DOWN (R399). -/
def trainSaddle (ports : List Nat) (s : State) (l : Nat) : State :=
  let r := s.link l
  match (linkWidths l).find? fun w => decide (w ≤ goodLanes l r) && !ports.contains l with
  | some w => s.setLink l { r with width := w }
  | none => s.setLink l { r with state := .down, width := 0, trained := false }

/-- Dies that leave service at bring-up (R397, R399): of a failed HBM stack, and those without a Saddle path to another. -/
def bootDies (deadStacks : List Nat) (s : State) : State :=
  let out (d : Nat) (t : State) : State := t.setDie d { t.die d with state := .out }
  isolateBy out (((List.range 4).filter deadStacks.contains).foldl (fun t d => out d t) s)

/-- Units that a bring-up's own tests fence, each recorded and reported on its die's ring once the ring is bound (R378, R390); a unit
that is fenced already is not fenced again. -/
def fenceNew (f : BootFails) (s : State) : State :=
  (bootFences f).foldl (fun t x => if t.fences.contains x then t else noteFence x.die x.unit x.index 0 t) s

/-- The package after a bring-up (R399): in IDLE, with the fuse-held fences and those of its own self-tests applied; stopped where it
fails as a whole. -/
def bringUp (f : BootFails) (s : State) : State :=
  let t := freshPackage s
  if bootStep f ≠ 7 then { t with power := .stopped, fw := bootFirmware f (bootStep f) [] }
  else
    let t := fenceNew f { t with fw := bootFirmware f 7 s.fences }
    let t := t.fences.foldl applyFence t
    let t := bootDies f.deadStacks ((List.range 12).foldl (fun u i => trainSaddle f.ports u (32 + i)) t)
    { t with fw := { t.fw with shadow := tableOf t } }

/-- The host resets a device that has stopped (R376). -/
def execDeviceReset (fails : BootFails) (s : State) : Out := when (s.power == .stopped) (bringUp fails) s

end Sys2Proof.Machine
end

