-- ==== Sys2Proof/Machine/Sfu.lean ====
section
/-! DEFINITION. The special functions (04_scalar_vector.md R120 to R122), each rounded from an integer enclosure of its
exact value, and the queue and token cells of a spur's SFU (11_scheduling.md R311, 12_pool.md R318). -/

namespace Sys2Proof.Machine

/-! ### Constants, floors of the real number times a power of two -/

/-- pi * 2^640. -/
def piScaled : Nat := 14333329926761567455775730701799299831126131522901418329710873694248203755857903894978459978948837038337184470360789102305252273090192709030764248428292776480232102476327552185579501988876367276

/-- ln 2 * 2^256. -/
def ln2Scaled : Nat := 80260960185991308862233904206310070533990667611589946606122867505419956976171

/-- 2 / sqrt pi * 2^448. -/
def erfScaled : Nat := 820149674333441802282380191381844142355718857059358899199448755921306849222515002489999259413609125428094407165698353336141151400596720

/-! ### Sums of series, cut at the unit 2^-p: each is within 2^12 units of its series -/

/-- The exponential series from the term of index k. -/
def expSum (p t : Nat) : Nat → Nat → Nat → Nat
  | 0, _, _ => 0
  | n + 1, k, term => term + expSum p t n (k + 1) (term * t / 2 ^ p / (k + 1))

/-- The sine or cosine series from the term of power k, for a square r2. -/
def altSum (p r2 : Nat) : Nat → Nat → Nat → Int
  | 0, _, _ => 0
  | n + 1, k, term => (term : Int) - altSum p r2 n (k + 2) (term * r2 / 2 ^ p / ((k + 1) * (k + 2)))

/-- The series of the error function, without its factor. -/
def erfSum (p x2 : Nat) : Nat → Nat → Nat → Int
  | 0, _, _ => 0
  | n + 1, k, a => ((a / (2 * k + 1) : Nat) : Int) - erfSum p x2 n (k + 1) (a * x2 / 2 ^ p / (k + 1))

/-- The series of the inverse hyperbolic tangent from the power k. -/
def atanhSum (p z2 : Nat) : Nat → Nat → Nat → Nat
  | 0, _, _ => 0
  | n + 1, k, pw => pw / k + atanhSum p z2 n (k + 2) (pw * z2 / 2 ^ p)

/-! ### Results -/

/-- A result known to lie strictly between lo * 2^e and hi * 2^e, rounded where the two ends agree (R120). -/
def roundBetween (f : Fmt) (v : FEnv) (neg : Bool) (lo hi e : Int) : Option (Nat × Flags) :=
  if lo ≤ 0 ∨ hi ≤ lo then none
  else
    let x := roundTo f v 0 ⟨neg, lo.toNat, e, true⟩
    let y := roundTo f v 0 ⟨neg, (hi - 1).toNat, e, true⟩
    if x = y then some x else none

/-- A center with a radius, both in units of 2^e. -/
def roundAround (f : Fmt) (v : FEnv) (neg : Bool) (c r e : Int) : Option (Nat × Flags) :=
  roundBetween f v neg (c - r) (c + r) e

/-- A magnitude in units of 2^-p, for a value whose exponent is at least -p. -/
def fixed (p m : Nat) (e : Int) : Nat := m * 2 ^ ((p : Int) + e).toNat

/-- 2^x of a finite nonzero x. -/
def exp2Val (f : Fmt) (v : FEnv) (neg : Bool) (m : Nat) (e : Int) : Option (Nat × Flags) :=
  if 12 ≤ e + (Nat.log2 m : Int) then some (roundTo f v 0 ⟨false, 1, if neg then -4096 else 4096, true⟩)
  else
    let x : Int := if neg then -(fixed 256 m e : Int) else (fixed 256 m e : Int)
    let k := x / 2 ^ 256
    let fr := (x % 2 ^ 256).toNat
    if fr = 0 then some (roundTo f v 0 ⟨false, 1, k, false⟩)
    else roundAround f v false (expSum 256 (fr * ln2Scaled / 2 ^ 256) 64 0 (2 ^ 256)) (2 ^ 12) (k - 256)

/-- log2 of a finite positive x. -/
def log2Of (f : Fmt) (v : FEnv) (m : Nat) (e : Int) : Option (Nat × Flags) :=
  let l := Nat.log2 m
  let k : Int := e + (l : Int)
  if m = 2 ^ l then some (roundTo f v 0 ⟨decide (k < 0), k.natAbs, 0, false⟩)
  else
    let z := (m - 2 ^ l) * 2 ^ 256 / (m + 2 ^ l)
    let ln : Nat := 2 * atanhSum 256 (z * z / 2 ^ 256) 90 1 z
    let lo : Int := k * 2 ^ 256 + (((ln - 2 ^ 12) * 2 ^ 256 / (ln2Scaled + 1) : Nat) : Int)
    let hi : Int := k * 2 ^ 256 + (((ln + 2 ^ 12) * 2 ^ 256 / ln2Scaled + 1 : Nat) : Int)
    if 0 ≤ k then roundBetween f v false lo hi (-256) else roundBetween f v true (-hi) (-lo) (-256)

/-- 1 / sqrt x of a finite positive x. -/
def rsqVal (f : Fmt) (v : FEnv) (m : Nat) (e : Int) : Nat × Flags :=
  let odd : Nat := (e % 2).toNat
  let n := m * 2 ^ odd
  let r := isqrt (2 ^ 512 / n)
  roundTo f v 0 ⟨false, r, -((e - (odd : Int)) / 2) - 256, decide (r * r * n ≠ 2 ^ 512)⟩

/-- sin, or cos with `turn` 1, of a finite nonzero x: the quadrant and the rest of its magnitude by pi / 2. -/
def sinVal (f : Fmt) (v : FEnv) (turn : Nat) (neg : Bool) (m : Nat) (e : Int) : Option (Nat × Flags) :=
  let half := piScaled / 2
  let x := fixed 640 m e
  let q := x / half + turn
  let r := x % half
  let r2 := r * r / 2 ^ 640
  let c := if q % 2 = 0 then altSum 640 r2 80 1 r else altSum 640 r2 80 0 (2 ^ 640)
  roundAround f v (decide (2 ≤ q % 4) != (neg && turn == 0)) c (2 ^ 133) (-640)

/-- Squares a pair of bounds n times. -/
def squares (p : Nat) : Nat → Nat × Nat → Nat × Nat
  | 0, x => x
  | n + 1, (lo, hi) => squares p n (lo * lo / 2 ^ p, hi * hi / 2 ^ p + 1)

/-- tanh of a finite nonzero x, from e^(2|x|). -/
def tanhVal (f : Fmt) (v : FEnv) (neg : Bool) (m : Nat) (e : Int) : Option (Nat × Flags) :=
  if 6 ≤ e + (Nat.log2 m : Int) then roundBetween f v neg (2 ^ 200 - 2 ^ 20) (2 ^ 200) (-200)
  else
    let c := expSum 640 (fixed 640 m (e - 7)) 120 0 (2 ^ 640)
    let (lo, hi) := squares 640 8 (c - 2 ^ 12, c + 2 ^ 12)
    roundBetween f v neg ((((lo - 2 ^ 640) * 2 ^ 640 / (lo + 2 ^ 640) : Nat) : Int))
      ((((hi - 2 ^ 640) * 2 ^ 640 / (hi + 2 ^ 640) + 1 : Nat) : Int)) (-640)

/-- erf of a finite nonzero x. -/
def erfVal (f : Fmt) (v : FEnv) (neg : Bool) (m : Nat) (e : Int) : Option (Nat × Flags) :=
  if 3 ≤ e + (Nat.log2 m : Int) then roundBetween f v neg (2 ^ 200 - 2 ^ 112) (2 ^ 200) (-200)
  else
    let x := fixed 448 m e
    let c := erfSum 448 (x * x / 2 ^ 448) 480 0 x * (erfScaled : Int) / 2 ^ 448
    roundAround f v neg c (2 ^ 112) (-448)

/-- The functions by fn code (R46): 0 EXP2, 1 LOG2, 2 RCP, 3 RSQ, 4 SIN, 5 COS, 6 TANH, 7 ERF (R120, R121). -/
def sfnVal (fn : Nat) (f : Fmt) (v : FEnv) (x : FVal) : Option (Nat × Flags) :=
  let one (neg : Bool) : Option (Nat × Flags) := some (roundTo f v 0 ⟨neg, 1, 0, false⟩)
  match x with
  | .nan s => some (f.nan, flagIf s flagNV)
  | .inf n =>
    match fn with
    | 0 => some (if n then f.signBit false else f.inf false, 0)
    | 1 => some (if n then (f.nan, flagNV) else (f.inf false, 0))
    | 2 => some (f.signBit n, 0)
    | 3 => some (if n then (f.nan, flagNV) else (f.signBit false, 0))
    | 4 => some (f.nan, flagNV)
    | 5 => some (f.nan, flagNV)
    | _ => one n
  | .fin n m e =>
    if m = 0 then
      match fn with
      | 0 => one false
      | 1 => some (f.inf true, flagDZ)
      | 2 => some (f.inf n, flagDZ)
      | 3 => some (f.inf n, flagDZ)
      | 5 => one false
      | _ => some (f.signBit n, 0)
    else
      match fn with
      | 0 => exp2Val f v n m e
      | 1 => if n then some (f.nan, flagNV) else log2Of f v m e
      | 2 => some (finishRes f v 0 (divVal (.fin false 1 0) x))
      | 3 => if n then some (f.nan, flagNV) else some (rsqVal f v m e)
      | 4 => sinVal f v 0 n m e
      | 5 => sinVal f v 1 n m e
      | 6 => tanhVal f v n m e
      | _ => erfVal f v n m e

/-- A function of a bit pattern, RNE under FCSR.FTZ (R120). -/
def sfn (fn : Nat) (f : Fmt) (ftz : Bool) (bits : Nat) : Nat × Flags :=
  let v : FEnv := ⟨0, ftz, false, 0, 0⟩
  (sfnVal fn f v (f.readFtz ftz bits)).getD (Config.sfuUndecided fn bits f.width % 2 ^ f.width, flagNX)

/-! ### The SFU of a spur -/

/-- The token cell of a slot (R318). -/
def tokenCell : AgentId → Nat
  | .slot _ _ c k => c * 32 + k
  | _ => 0

/-- A result written to its destination. -/
def sfuWrite (r : SfuReq) : Act Unit := if r.vector then wrV r.d r.val else wrS r.d (r.val.extractLsb' 0 64)

/-- A token written to its destination, its flags raised (R311). A poisoned word of the token store makes the register it goes to a
poisoned one (R374, R375): what a token carries is pool data (DEDUCED, log 43). -/
def tokenWrite (r : SfuReq) : Act Unit := do
  raiseFlags r.fl
  sfuWrite r
  let regs := (if r.vector then [2 * r.d + 1, 2 * r.d] else [r.d]).zipIdx.filter fun x => r.bad.contains x.2 && !(r.d == 0)
  if !regs.isEmpty then mods fun s => s.setCtx { s.ctx with poison := (s.ctx.poison ++ regs.map (·.1)).eraseDups }

/-- The token in an agent's cell, if it has one. -/
def tokenOf (s : State) (who : AgentId) : Option SfuReq :=
  if isSlot who then tabFind (s.spur (dieOf who, spurOf who)).tokens (tokenCell who) else none

/-- The token leaves its cell. -/
def dropToken (s : State) (who : AgentId) : State :=
  let k := (dieOf who, spurOf who)
  s.setSpur k { s.spur k with tokens := tabDel (s.spur k).tokens (tokenCell who) }

/-- The next issue of a slot whose cell holds a token: the token is written and its instruction completes, whatever stands at the PC
now (R311). -/
def tokenStep (r : SfuReq) (s : State) : State :=
  let s := { dropToken s s.cur with mode := s.me.wmode }
  settle s (StateT.run (do
    tokenWrite r
    pure .adv) s)

/-- The issue of a special function with its result: a master's unit answers at once; a thread's request goes through the
SFU, behind the older ones, and the slot parks until its token is there (R311). -/
def sfuIssue (d : Nat) (vector : Bool) (val : BitVec 128) (fl : Flags) : Act Fin := do
  let s ← get
  let k := s.mySpurKey
  let p := s.spur k
  if isSlot s.cur && decide (32 ≤ p.sfu.length) then throw .stall
  else if isSlot s.cur && (s.defer || !p.sfu.isEmpty || !p.sfuRun.isEmpty) then
    let s := s.setSpur k { p with sfu := p.sfu ++ [⟨s.cur, d, vector, val, fl, []⟩] }
    set (s.setMe { s.me with wait := .sfu, wmode := s.mode })
    pure .hold
  else
    raiseFlags fl
    sfuWrite ⟨s.cur, d, vector, val, fl, []⟩
    pure .adv

/-- The format of SFN's type code (R46). -/
def sfnFmt (t : Nat) : Fmt :=
  match t with
  | 0 => fp32
  | 1 => bf16
  | _ => fp16

/-- SFN (R120). -/
def sfnScalar (fn d a t : Nat) (s : State) : Out :=
  runInstr .tm [.w d, .r a] (do
    let f := sfnFmt t
    let (r, fl) := sfn fn f (fcsrFtz s.ctx.fcsr) (fpBits f (← rdS a))
    sfuIssue d false (BitVec.ofNat 128 r) fl) s

/-- VSFN (R122): every lane in one request. -/
def sfnVector (fn d a m l : Nat) (s : State) : Out :=
  runMasked m [.vw d, .vr a] (do
    let f := laneFmt l
    let w := laneWidth l
    let rs := (lanes w (laneCount l) (← rdV a)).map (sfn fn f (fcsrFtz s.ctx.fcsr))
    sfuIssue d true (packLanes w (rs.map Prod.fst)) (rs.foldl (fun a r => a ||| r.2) 0)) s

def execSfnExp2 (d a t : Nat) (s : State) : Out := sfnScalar 0 d a t s
def execSfnLog2 (d a t : Nat) (s : State) : Out := sfnScalar 1 d a t s
def execSfnRcp (d a t : Nat) (s : State) : Out := sfnScalar 2 d a t s
def execSfnRsq (d a t : Nat) (s : State) : Out := sfnScalar 3 d a t s
def execSfnSin (d a t : Nat) (s : State) : Out := sfnScalar 4 d a t s
def execSfnCos (d a t : Nat) (s : State) : Out := sfnScalar 5 d a t s
def execSfnTanh (d a t : Nat) (s : State) : Out := sfnScalar 6 d a t s
def execSfnErf (d a t : Nat) (s : State) : Out := sfnScalar 7 d a t s
def execVsfnExp2 (d a m l : Nat) (s : State) : Out := sfnVector 0 d a m l s
def execVsfnLog2 (d a m l : Nat) (s : State) : Out := sfnVector 1 d a m l s
def execVsfnRcp (d a m l : Nat) (s : State) : Out := sfnVector 2 d a m l s
def execVsfnRsq (d a m l : Nat) (s : State) : Out := sfnVector 3 d a m l s
def execVsfnSin (d a m l : Nat) (s : State) : Out := sfnVector 4 d a m l s
def execVsfnCos (d a m l : Nat) (s : State) : Out := sfnVector 5 d a m l s
def execVsfnTanh (d a m l : Nat) (s : State) : Out := sfnVector 6 d a m l s
def execVsfnErf (d a m l : Nat) (s : State) : Out := sfnVector 7 d a m l s

/-- The SFU accepts the oldest queued request, freeing its entry (R311). -/
def execSfuRequestAccept (die spur : Nat) (s : State) : Out :=
  let p := s.spur (die, spur)
  match p.sfu with
  | [] => .next s
  | r :: rest => .next (s.setSpur (die, spur) { p with sfu := rest, sfuRun := p.sfuRun ++ [r] })

/-- The SFU writes the oldest accepted request's result into its slot's token cell (R311); a token whose thread has ended
is discarded. -/
def execSfuResult (die spur : Nat) (s : State) : Out :=
  let p := s.spur (die, spur)
  match p.sfuRun with
  | [] => .next s
  | r :: rest =>
    let s := s.setSpur (die, spur) { p with sfuRun := rest }
    let a := s.agent r.who
    .next (if a.live && a.wait == .sfu then
        let q := s.spur (die, spur)
        (s.setSpur (die, spur) { q with tokens := tabSet q.tokens (tokenCell r.who) r }).setAgent r.who { a with wait := .none }
      else s)

end Sys2Proof.Machine
end

