-- ==== Sys2Proof/Machine/Context.lean ====
section
/-! DEFINITION. Pre-emption, the context area, and restoring a program (14_recovery.md R365, R367 to R372, R375, with R187, R210,
R265, R331 and R398). -/

namespace Sys2Proof.Machine

/-! ### When a save can complete (R367) -/

/-- Whether a link that carries an access of an agent is resending or retraining (R398). -/
def linkHolds (s : State) (who : AgentId) (p : Pend) : Bool :=
  p.homes.any fun h => (linkWay s (dieOf who) h).any fun l => match (s.link l).state with
    | .replay => true
    | .retrain => true
    | _ => false

/-- What an agent still has to complete before its program is saved (R327, R367 step 2, R398): the report of a unit that has stopped
too. -/
def saveWaits (s : State) (who : AgentId) : Bool :=
  let a := s.agent who
  agentBusy s who || a.pend.any (linkHolds s who) ||
  (match a.wait with
    | .sfu => true
    | .ack _ _ => true
    | .unit r => r.op == .nzscan || r.dead.isSome
    | _ => false)

/-- Whether every unit of a program stands where its context can be written: no gang operation is started, no shrink is left to
complete (R331), no command is left on a spur that the program has lost (R379). -/
def saveReady (s : State) (k : Nat × Nat) : Bool :=
  let q := (s.prog k).quota
  !(agentsOf s k).any (saveWaits s) &&
  !((s.die k.1).gangs.any fun g => g.state == .started && g.spurs.any q.contains) &&
  !(q.any fun n => (s.spur (k.1, n)).notice.pending && (s.spur (k.1, n)).notice.unack == 0) &&
  (cmdsOf s k).all fun c => q.contains (spurOf c.who)

/-! ### Bringing the program to rest -/

/-- A thread whose token is in its cell completes its special function (R311, R367). -/
def completeToken (s : State) (who : AgentId) : State :=
  match tokenOf s who with
  | some r => finishWait who (do
      tokenWrite r
      pure .adv) (dropToken s who)
  | none => s

/-- Results of the Ridge on their way written to a context (R287, R367). -/
def ridgeInto (l : List (Nat × Word)) (c : Ctx) : Ctx := l.foldl (fun c x => c.ws x.1 x.2 false) c

/-- Every result of the Ridge on its way to an agent, or to an inline parent in its frame, is written. -/
def deliverAll (s : State) (who : AgentId) : State :=
  let a := s.agent who
  s.setAgent who { a with
    ctx := ridgeInto a.ridge a.ctx, ridge := []
    frames := a.frames.map fun f => { f with ctx := ridgeInto f.ridge f.ctx, ridge := [] } }

/-- An agent's wait withdrawn: its instruction executes again after restore; an inline child still waits for room, and an
unanswered fault stays pending, a unit's with its page (R366, R367). What it has fetched ahead is discarded. -/
def withdrawWait (a : Agent) : Agent :=
  match a.wait with
  | .room => { a with ahead := [] }
  | .page _ => { a with ahead := [] }
  | .unit r =>
    { a with
      wait := .none, ahead := [], refused := none
      unitPage := match r.page, a.refused with
        | some va, _ => some (va, false)
        | none, some va => some (va, true)
        | none, none => a.unitPage }
  | _ => { a with wait := .none, ahead := [] }

/-- A trap deferred to context save is taken, the oldest (R358). -/
def saveTrap (s : State) (who : AgentId) : State :=
  match (s.agent who).dtraps with
  | [] => s
  | t :: ts => trapWait who t (s.setAgent who { s.agent who with dtraps := ts, unitPage := none })

/-- Whether a trap in a context ends its program (R352, R357). -/
def fatalTrap (c : Ctx) : Bool := inhibited c || handler c == 0

/-- Where an inline parent stopped: at the waiting instruction that it executes again, or behind the SSPAWN whose children its slot runs,
which has had its own effect (R358 names the address of the instruction at which the thread stopped; DESIGN CHOICE, log 27). -/
def Frame.stopped (f : Frame) : Ctx :=
  if f.again then f.ctx
  else
    let c := f.ctx.advance .plain
    { c with instret := c.instret + 1, srseed := advanceSeed c.srseed }

/-- An inline parent with its oldest deferred trap taken (R358). -/
def Frame.saveTrap (f : Frame) : Frame :=
  match f.dtraps with
  | [] => f
  | t :: ts =>
    let c := f.stopped
    if fatalTrap c then f else { f with ctx := c.trapped t c.pc, dtraps := ts, again := true }

/-- A thread in the run list and its inline parents, with theirs: it waits for its page no more. -/
def Parked.saveTrap (x : Parked) : Parked :=
  let a := { x.agent with frames := x.agent.frames.map Frame.saveTrap }
  match a.dtraps with
  | [] => { x with agent := a }
  | t :: ts =>
    if fatalTrap a.ctx then { x with agent := a }
    else { x with agent := { a with ctx := a.ctx.trapped t a.ctx.pc, wait := .none, refused := none, dtraps := ts }, runnable := true }

/-- The deferred traps of inline parents and of threads in the run list that end their program (R357): the end of each. -/
def fatalTraps (s : State) (k : Nat × Nat) : List EndRec :=
  let rec' (n : Nat) (c : Ctx) (t : Trap) : EndRec :=
    ⟨if inhibited c then 2 else 1, t.cause, t.tval, c.pc, c.tid.toNat, n, none, false⟩
  let frames (n : Nat) (fs : List Frame) : List EndRec :=
    (fs.filter fun f => fatalTrap f.stopped).filterMap fun f => f.dtraps.head?.map (rec' n f.stopped)
  ((s.agents.filter (inProgram k)).flatMap fun (a, r) => frames (spurOf a) r.frames) ++
  (s.prog k).runList.flatMap fun x =>
    (if fatalTrap x.agent.ctx then (x.agent.dtraps.head?.map (rec' x.spur x.agent.ctx)).toList else []) ++ frames x.spur x.agent.frames

/-- Every deferred trap that a save takes (R358): of each agent, its inline parents, and each thread in the run list. -/
def saveTraps (k : Nat × Nat) (s : State) : State :=
  let s := (agentsOf s k).foldl saveTrap s
  let s := (fatalTraps s k).foldl (fun t r => startEnd t k r) s
  let s := s.setProg k { s.prog k with runList := (s.prog k).runList.map Parked.saveTrap }
  { s with agents := s.agents.map fun x =>
      if inProgram k x then (x.1, { x.2 with frames := x.2.frames.map Frame.saveTrap }) else x }

/-- A thread that waits for a page is saved in the run list (R366): its window and its slot are free. -/
def setAside (k : Nat × Nat) (s : State) (who : AgentId) : State :=
  let a := s.agent who
  match isSlot who, a.wait with
  | true, .page va =>
    let p := s.prog k
    let sk := (dieOf who, spurOf who)
    let s := s.setProg k { p with runList := p.runList ++ [⟨freeRecord s k, a, spurOf who, false, p.asid, faultPage va⟩] }
    (s.setSpur sk ((s.spur sk).unplace who)).setAgent who Agent.blank
  | _, _ => s

/-- Commands under way record where they stand: their destinations in memory are unspecified until the program resumes, and their
lines are free (R210). -/
def suspendCmds (k : Nat × Nat) (s : State) : State :=
  let cs := (cmdsOf s k).filter fun c => !c.data && c.dsp == 0
  let s := cs.foldl (fun t c => c.spoil t) s
  cs.foldl (fun t c => disown c.id t) s

/-- Steps 2 to 4 of R367: tokens taken, waits and queued requests withdrawn, gang records closed, accesses performed, deferred
traps taken. A merge in progress stands in MERGING until its MGFIN executes again (R187). -/
def restProgram (k : Nat × Nat) (s : State) : State :=
  let ws := agentsOf s k
  let q := (s.prog k).quota
  let s := ws.foldl completeToken s
  let s := withdrawQueues s ws
  let s := suspendCmds k (ws.foldl stopUnit s)
  let s := s.setDie k.1 { s.die k.1 with gangs := (s.die k.1).gangs.filter fun g => !g.spurs.any q.contains }
  let s := s.setProg k { s.prog k with bars := (s.prog k).bars.map fun (i, b) => (i, { b with arrived := [] }) }
  let s := ws.foldl drainAll s
  let s := ws.foldl deliverAll s
  let s := { s with agents := s.agents.map fun x => if inProgram k x then (x.1, withdrawWait x.2) else x }
  ws.foldl (setAside k) (saveTraps k s)

/-! ### The image (R368 to R371) -/

/-- Offsets of the context area (R368). -/
def imageAt (i : Nat) : Nat := 0x10000 + i * 0x120000

/-- The offset of a slot's record in its spur's image (R368). -/
def slotAt (a : AgentId) : Nat :=
  match a with
  | .slot _ _ c t => 0x101000 + (c * 31 + t) * 1024
  | _ => 0

/-- The roles whose banks a pool image holds (R368). -/
def imaged (p : Spur) (b : Nat) : Bool := p.role b == .scr || p.role b == .til || p.role b == .acc

/-- The pool image of a spur: its banks of SCR, TIL and ACC (R368). -/
def poolImage (p : Spur) : List (Nat × List Byte) :=
  ((List.range 32).filter (imaged p)).map fun b => (b * bankBytes, (span (b * bankBytes) bankBytes).map (memGet p.pool))

/-- The threads of a program in the slots of a spur. -/
def threadsOn (s : State) (k : Nat × Nat) (n : Nat) : List (AgentId × Agent) :=
  s.agents.filter fun x => isSlot x.1 && inProgram k x && spurOf x.1 == n

/-- The part of the image that R368 and R369 lay out: the pools and the thread records. -/
def fixedImage (s : State) (k : Nat × Nat) : List (Nat × List Byte) :=
  ((s.prog k).quota.zipIdx).flatMap fun (n, i) =>
    let p := s.spur (k.1, n)
    (poolImage p).map (fun x => (imageAt i + x.1, x.2)) ++
    (threadsOn s k n).map fun (a, r) => (imageAt i + slotAt a, agentRecord s k p r.outer r.ctx r.frames)

/-- The contents of a context, as numbers. -/
def Ctx.numbers (c : Ctx) : List Nat :=
  (List.range 128).map (fun n => (c.rs n).toNat) ++ [c.preds.toNat, c.taint.length] ++ c.taint ++
  ([c.pc, c.fcsr, c.srseed, c.wlim, c.tvec, c.tcause, c.tval, c.tpc, c.ring, c.gangid, c.frm, c.instret] ++
    (List.range 8).map fun i => tabGet c.ksh i 0).map BitVec.toNat

/-- Of a reduction item. -/
def JItem.numbers : JItem → List Nat
  | .val n op v => [0, n, op, v.toNat]
  | .nest t => [1, t]

/-- Of what an ended thread leaves for JOIN. -/
def Contrib.numbers (x : Contrib) : List Nat :=
  [x.tag, x.tid, x.flags.toNat, x.items.length] ++ x.items.flatMap JItem.numbers

/-- Of a session's state, its on-chip entries among it (R187). -/
def Session.numbers (x : Session) : List Nat :=
  [x.num, x.rowptr, x.colidx, x.values, x.capnnz, x.nrows, x.ncols, x.cap, x.efmt, x.op, if x.trapsf then 1 else 0,
    (match x.state with
      | .opened => 1
      | .ended => 2
      | .merging => 3), x.onchip, x.runs, x.spilt, x.accepted, x.flags.toNat, x.extents.length] ++
  x.extents.flatMap (fun e => [e.1, e.2]) ++ x.pos.flatMap (fun e => [e.1, e.2]) ++
  x.entries.flatMap fun e => [e.row, e.col, e.stream, e.pos, e.val.toNat]

/-- Of a Cairn binding. -/
def Tree.numbers (t : Tree) : List Nat := [t.num, t.region]

/-- The contents of the master record (R368), as numbers. -/
def masterNumbers (s : State) (k : Nat × Nat) : List Nat :=
  let p := s.prog k
  let r := s.die k.1
  (s.agent (.master k.1 k.2)).ctx.numbers ++ (List.range 64).map (fun i => (tabGet p.ridge i 0).toNat) ++
  p.spawn.gsnap.map BitVec.toNat ++ p.quota ++ [p.sstate, p.rcode, p.u, p.d, p.l, p.e, p.spawn.next] ++
  p.bars.flatMap (fun x => [x.1, x.2.c, x.2.cNext.getD 0, x.2.arrived.length]) ++ p.contribs.flatMap Contrib.numbers ++
  (List.range 8).map (fun i => (tabGet p.jres i 0).toNat) ++ [p.spflags.toNat, p.jval] ++ p.lost ++ p.lostNow ++
  (r.arete.filter fun x => x.core = k.2).flatMap Session.numbers ++ (r.trees.filter fun t => t.core = k.2).flatMap Tree.numbers

/-- The contents of the 4 KiB of a spur's state (R368), as numbers. -/
def Spur.numbers (p : Spur) : List Nat :=
  (List.range 32).flatMap (fun b => [(p.role b).code, tabGet p.places b 0]) ++
  [if p.notice.pending then 1 else 0, p.notice.seq, p.notice.target] ++
  p.notice.members.flatMap (fun m => [m.tag, m.tid, if m.acked then 1 else 0, if m.woken then 1 else 0, if m.gone then 1 else 0]) ++
  p.hwm.flatMap fun x => [x.1, x.2]

/-- The parts whose contents the spec gives but does not lay out: the master record, and the 4 KiB of state of each spur. -/
def looseImage (s : State) (k : Nat × Nat) : List (Nat × List Byte) :=
  let bytes (n : Nat) (f : Nat → Byte) : List Byte := (List.range n).map f
  (0x1000, bytes 0xF000 (Config.masterByte (masterNumbers s k))) ::
    (s.prog k).quota.zipIdx.map fun (n, i) =>
      (imageAt i + 0x100000, bytes 0x1000 (Config.spurByte (s.spur (k.1, n)).numbers))

/-- The offsets of the words of the image that carry poison (R375): of pool words, and of registers. -/
def poisonImage (s : State) (k : Nat × Nat) : List Nat :=
  ((s.prog k).quota.zipIdx).flatMap fun (n, i) =>
    ((s.spur (k.1, n)).poisonWords.map fun w => imageAt i + w * 8) ++
    (threadsOn s k n).flatMap fun (a, r) => (recordPoison r.ctx).map fun o => imageAt i + slotAt a + o

/-- The records of an agent's frames, each by its place (R279, R371). -/
def frameRecords (s : State) (k : Nat × Nat) (sp : Spur) (who : Nat × Nat) : List Frame → List (Nat × Ctx × List Byte)
  | [] => []
  | f :: fs => (f.record, f.ctx, agentRecord s k sp who f.ctx fs) :: frameRecords s k sp who fs

/-- The run-list records and inline frames of a program, each by its place (R371). -/
def dynRecords (s : State) (k : Nat × Nat) : List (Nat × Ctx × List Byte) :=
  ((s.prog k).runList.flatMap fun x =>
    let sp := s.spur (k.1, x.spur)
    (x.record, x.agent.ctx, agentRecord s k sp x.agent.outer x.agent.ctx x.agent.frames) ::
      frameRecords s k sp x.agent.outer x.agent.frames) ++
  ((s.agents.filter fun x => isSlot x.1 && inProgram k x).flatMap fun (a, r) =>
    frameRecords s k (s.spur (k.1, spurOf a)) r.outer r.frames)

/-- How many of a program's descriptors are in Scree. -/
def descCount (s : State) (k : Nat × Nat) : Nat := ((s.die k.1).scree.filter fun d => d.core = k.2).length

/-- The places that its descriptors of 64 bytes take, sixteen to a place. -/
def descPlaces (s : State) (k : Nat × Nat) : List Nat :=
  let used := recordsUsed s k
  let n := (descCount s k + 15) / 16
  ((List.range (used.length + n)).filter fun x => !used.contains x).take n

/-- What a save writes in the dynamic region: each part by its place and its address; a descriptor's bytes, whose layout the spec
does not give, are unspecified. -/
def dynImage (k : Nat × Nat) : Act (List (Nat × Nat × List Byte)) := do
  let s ← get
  let descs ← (descPlaces s k).zipIdx.mapM fun (n, j) => do pure (n, ← freeBytes (64 * min 16 (descCount s k - 16 * j)))
  pure ((((dynRecords s k).map fun x => (x.1, x.2.2)) ++ descs).map fun (n, bs) => (n, recordAt s k n, bs))

/-- Where they carry poison: a place and the offset in it (R375). -/
def dynPoison (s : State) (k : Nat × Nat) : List (Nat × Nat) :=
  (dynRecords s k).flatMap fun (n, c, _) => (recordPoison c).map fun o => (n, o)

/-- The header as a save leaves it (R370). -/
def savedHeader (w0 nspur : Nat) : Nat :=
  setField (setField (setField (setField (setField w0 15 0 1) 23 16 2) 31 24 0) 55 48 nspur) 63 56 0

/-- What a save writes, but for the header. -/
structure Image where
  img : List (Nat × List Byte)
  dyn : List (Nat × Nat × List Byte)
  bad : List Nat
  dynBad : List (Nat × Nat)
  deriving DecidableEq, Repr

/-- The context of a program at rest (R368). -/
def imageOf (k : Nat × Nat) : Act Image := do
  let s ← get
  let dyn ← dynImage k
  pure ⟨looseImage s k ++ fixedImage s k, dyn, poisonImage s k, dynPoison s k⟩

/-- The size of a context area, besides its dynamic region (R368). -/
def areaSize (p : Prog) : Nat := 0x10000 + p.qmax * 0x120000

/-- Every page of the context area must have R and W (R368). -/
def areaCheck (k : Nat × Nat) (area n : Nat) : Act Unit := do
  for i in List.range ((n + 4095) / 4096) do
    let _ ← partTrans k .read (area + i * 4096) 1
    let _ ← partTrans k .write (area + i * 4096) 1

/-- The context written in its area and its dynamic region, with its poison, the header last. -/
def writeContext (k : Nat × Nat) (area : Nat) (m : Image) (nspur : Nat) : Act Unit := do
  areaCheck k area (areaSize (← gets fun s => s.prog k))
  let w0 := leNat (← partRead k area 8)
  for (o, bs) in m.img do partWrite k (area + o) bs
  for o in m.bad do
    let keys ← partTrans k .write (area + o) 8
    mods (poisonLines keys)
  for (n, at', bs) in m.dyn do
    if dynBusy (← get) at' bs.length then throw .stall
    mods (dynWrite k.1 at' bs ((m.dynBad.filter fun x => x.1 == n).map (·.2)))
  partWrite k area (leBytes 8 (savedHeader w0 nspur))

/-! ### Saving (R365, R367) -/

/-- What is kept of a program (R367). -/
def snapshot (s : State) (k : Nat × Nat) (area : Nat) (m : Image) : Saved :=
  let p := s.prog k
  let r := s.die k.1
  { asid := p.asid, area := area
    win := (k.1, r.era + r.sample)
    prog := { p with saving := none, heldZones := [] }
    master := s.agent (.master k.1 k.2)
    spurs := p.quota.map fun n => (n, { s.spur (k.1, n) with rdc := [], sfu := [], sfuRun := [], tokens := [], ibuf := [] })
    threads := s.agents.filter fun x => isSlot x.1 && inProgram k x
    scree := r.scree.filter fun d => d.core = k.2
    arete := r.arete.filter fun x => x.core = k.2
    trees := r.trees.filter fun t => t.core = k.2
    image := m.img, dyn := m.dyn, bad := m.bad, dynBad := m.dynBad }

/-- A program saved and its units free (R367 steps 5 and 6). -/
def saveProgram (k : Nat × Nat) (x : Saved) (s : State) : State :=
  let s := abandonUnits s k
  let s := freeProgram s k
  saveOver k kOK { s with saved := x :: s.saved }

/-- Places that a save adds to the dynamic region (R371): of the threads that wait for a page in their slots, and of its descriptors. -/
def saveRecords (s : State) (k : Nat × Nat) : Nat :=
  ((agentsOf s k).filter fun a => isSlot a && (match (s.agent a).wait with
    | .page _ => true
    | _ => false)).length + (descCount s k + 15) / 16

/-- A pre-empted program's context is written, once its units stand still, and its units are freed (R367). It waits for an extent
where the dynamic region has no room (R371). A context area that
cannot be written leaves the program running (log 27). -/
def execContextSaveComplete (die core : Nat) (s : State) : Out :=
  let k := (die, core)
  match (s.prog k).saving with
  | none => .next s
  | some r =>
    if r.page.isSome ∨ (s.prog k).ending.isSome ∨ !saveReady s k then .next s
    else if !dynRoom s k (saveRecords s k) then .next (requestExtent s k (.master die core))
    else
      let t := restProgram k s
      if (t.prog k).ending.isSome then .next t
      else if !atRest t k then .next s
      else
        let act : Act Image := do
          let m ← imageOf k
          writeContext k r.area m (t.prog k).quota.length
          pure m
        match act.run t with
        | .ok (m, u) => .next (saveProgram k (snapshot u k r.area m) u)
        | .error (.page va acc h) =>
          .next (addFault (s.setProg k { s.prog k with saving := some { r with page := some va } }) k (s.prog k).asid va acc h [.saving die core])
        | .error .stall => .next s
        | .error _ => .next (saveOver k kRANGE (s.setProg k { s.prog k with saving := none }))

/-- SAVESTAT written in a header at a physical key (R370), where there is memory. -/
def putSaveStat (key code : Nat) (s : State) : State :=
  if !keyExists (key + 3) then s else
  let s := touchL1 s (.slot 0 0 0 0) false true [key + 3]
  { s with mem := memSets s.mem [key + 3] (leBytes 1 code) }

/-- What comes of a request to save or to restore (R365): refused at once with a code, taken up, or not decided yet, since an access
to the header waits. -/
inductive Ask where
  | code (c : Nat)
  | begun
  | waits
  deriving DecidableEq, Repr

/-- The checks of a save: BUSY where the program ends or is being saved, RANGE for an area whose VERSION or STATE is wrong; the
outcome of a refusal goes to SAVESTAT. -/
def saveCheck (k : Nat × Nat) (area : Nat) : Act Nat := do
  let p ← gets fun s => s.prog k
  let w0 := leNat (← partRead k area 8)
  let code := if p.ending.isSome ∨ p.saving.isSome then kBUSY
    else if bits w0 15 0 ≠ 1 ∨ 1 < bits w0 23 16 then kRANGE else kOK
  if code ≠ kOK then partWrite k area (leBytes 8 (setField (setField w0 31 24 code) 63 56 0))
  pure code

/-- A pre-emption of the program on a master core is asked for (R365): CTXSV names an area, CTXSAVE does not. Where the core holds
no program, no address space translates the area that CTXSV names: SAVESTAT is written at its physical address (log 27). -/
def askSave (k : Nat × Nat) (at' : Option Word) (s : State) : Ask × State :=
  let p := s.prog k
  let area := (at'.map vaOf).getD p.ctx
  if !p.running then
    match at' with
    | none => (.code kBUSY, s)
    | some a =>
      let key := physKey a.toNat
      if s.ownedLine key then (.waits, s) else (.code kBUSY, putSaveStat key kBUSY s)
  else
    match (saveCheck k area).run s with
    | .ok (code, t) => if code = kOK then (.begun, t.setProg k { t.prog k with saving := some ⟨area, none⟩ }) else (.code code, t)
    | .error (.page va acc h) => (.waits, addFault s k p.asid va acc h [.saving k.1 k.2])
    | .error .stall => (.waits, s)
    | .error _ => (.code kRANGE, s)

/-- A privileged instruction of a service core that asks for a save or a restore of its die's master core n. -/
def askInstr (a n : Nat) (ask : Word → State → Ask × State) (s : State) : Out :=
  if 8 ≤ n then .next (takeTrap s ⟨cILLOP, wordN s.iw⟩)
  else
    runInstr .p [.r a] (do
      let x ← rdS a
      let s ← get
      match ask x s with
      | (.code _, t) =>
        set t
        pure .adv
      | (.begun, t) =>
        set (t.setMe { t.me with wait := .save n, wmode := t.mode })
        pure .hold
      | (.waits, t) =>
        set (t.setMe { t.me with wait := .again, wmode := t.mode })
        pure .hold) s

/-- CTXSV (R365): the service core stalls until the save completes. -/
def execCtxsv (a n : Nat) (s : State) : Out := askInstr a n (fun x => askSave (dieOf s.cur, n) (some x)) s

/-! ### Where a saved program goes (R372) -/

/-- The spurs a saved program goes to: the lowest free ones, one for each image. -/
def restoreSpurs (s : State) (d : Nat) (x : Saved) : List Nat :=
  ((List.range 224).filter fun n => !(s.spur (d, n)).fenced && (s.spur (d, n)).owner.isNone).take x.spurs.length

/-- The banks of an image's roles. -/
def imageCounts (p : Spur) : List Nat := [Role.reg, .scr, .rdc, .til, .acc].map fun r => (p.banksOf r).length

/-- Whether a die can take a saved program (R372, R187, R265). -/
def canRestore (s : State) (d : Nat) (x : Saved) : Bool :=
  let ns := restoreSpurs s d x
  let r := s.die d
  decide (ns.length = x.spurs.length) &&
  ((ns.zip x.spurs).all fun (n, _, p) => decide ((imageCounts p).sum ≤ (s.spur (d, n)).unfencedBanks.length)) &&
  decide (r.scree.length + x.scree.length ≤ screeMax) && decide (r.arete.length + x.arete.length ≤ 16) &&
  decide ((r.arete ++ x.arete).foldl (fun t y => t + y.cap) 0 ≤ 4194304) && decide (r.trees.length + x.trees.length ≤ 16)

/-- Where the agents and spurs of a saved program go: the die and core, the spurs by their old numbers. -/
structure Place where
  die : Nat
  core : Nat
  spurs : List (Nat × Nat)
  deriving DecidableEq, Repr

/-- A spur's new number. -/
def Place.spur (m : Place) (n : Nat) : Nat := (tabFind m.spurs n).getD n

/-- An agent's new place: the same core and slot of the new spur. -/
def Place.agent (m : Place) (a : AgentId) : AgentId :=
  match a with
  | .slot _ p c t => .slot m.die (m.spur p) c t
  | .master _ _ => .master m.die m.core
  | a => a

/-- The new bank of each bank of an image: roles take the saved positions in ascending unfenced bank number (R372). -/
def bankMap (p q : Spur) : List (Nat × Nat) :=
  let deal := dealBanks q.unfencedBanks ([Role.reg, .scr, .rdc, .til, .acc].zip (imageCounts p))
  deal.filterMap fun (b, r, i) =>
    ((p.banksOf r).find? fun o => tabGet p.places o 0 = i).map fun o => (o, b)

/-- A saved spur's image on a free spur: every role offset kept (R372). -/
def Spur.restore (p q : Spur) (m : Place) : Spur :=
  let bm := bankMap p q
  let at' (unit x : Nat) : Option Nat := (tabFind bm (x * unit / bankBytes)).map fun b => b * (bankBytes / unit) + x % (bankBytes / unit)
  let cmd (c : EngCmd) : EngCmd := { c with who := m.agent c.who, core := m.core }
  { p with
    owner := some m.core
    fenced := q.fenced
    badBanks := q.badBanks
    worn := q.worn
    fencedBanks := q.fencedBanks
    heldOut := q.heldOut
    roles := bm.map fun (o, b) => (b, p.role o)
    places := bm.map fun (o, b) => (b, tabGet p.places o 0)
    pool := p.pool.foldl (fun t c => match at' 1 c.1 with | some x => memSet t x c.2 | none => t) []
    poisonWords := p.poisonWords.filterMap (at' 8)
    written := p.written.filterMap (at' 64)
    windows := p.windows.map fun w => { w with who := m.agent w.who }
    copyQ := p.copyQ.map cmd
    gathQ := p.gathQ.map cmd }

/-- A thread of a restored program. -/
def Place.thread (m : Place) (a : Agent) : Agent := { a with core := m.core }

/-- A program in its new place; a fault not yet answered stays pending (R366). -/
def Place.prog (m : Place) (p : Prog) : Prog :=
  let here (l : List Nat) : List Nat := ((l.filter fun n => m.spurs.any fun x => x.1 == n).map m.spur).mergeSort (· ≤ ·)
  let rec' (r : SpawnRec) : SpawnRec := { r with quota := here r.quota }
  { p with
    quota := here p.quota
    spawn := rec' p.spawn
    held := p.held.map rec'
    runList := p.runList.map fun x => { x with agent := m.thread x.agent, spur := m.spur x.spur }
    saving := none }

/-! ### Reading a context back (R368, R375) -/

/-- A program's address space for an access of the part where it does not run. -/
def inAsid {α : Type} (k : Nat × Nat) (asid : Nat) (act : Act α) : Act α := do
  let p ← gets fun s => s.prog k
  mods fun s => s.setProg k { Prog.blank with asid := asid }
  let r ← act
  mods fun s => s.setProg k p
  pure r

/-- The keys of a part of a saved context: of its area through the program's translation, which R and W on every page let it use
(R368), or of a copy of it at a physical key. -/
def areaKeys (k : Nat × Nat) (x : Saved) (copy : Option Nat) (o len : Nat) : Act (List Nat) :=
  match copy with
  | some key => pure (span (key + o) len)
  | none => do
    let _ ← partTrans k .read (x.area + o) len
    partTrans k .write (x.area + o) len

/-- A part of a saved context as it reads now: its bytes, whether they are those written, and the offsets in it of words on lines that
have become poisoned since. -/
structure Part where
  bytes : List Byte
  kept : Bool
  bad : List Nat
  deriving DecidableEq, Repr

/-- A part read back. -/
def partBack (keys : List Nat) (bs : List Byte) (bad : List Nat) : Act Part := do
  awaitOwner keys
  let s ← get
  let own := (keys.zipIdx.filter fun x => bad.contains x.2).map fun x => x.1 / 64
  let now := memGets s.mem keys
  pure ⟨now, now == bs, (keys.zipIdx.filter fun x => x.2 % 8 == 0 && s.poisoned x.1 && !own.contains (x.1 / 64)).map (·.2)⟩

/-- What is read back of a saved context: the parts of the area by their offsets, the records of the dynamic region by their places. -/
structure Back where
  img : Tab Nat Part
  dyn : Tab Nat Part
  deriving DecidableEq, Repr

/-- The offsets of newly poisoned words in the area. -/
def Back.bad (b : Back) : List Nat := b.img.flatMap fun (o, p) => p.bad.map (o + ·)

/-- Those in the records, by their places. -/
def Back.dynBad (b : Back) : List (Nat × Nat) := b.dyn.flatMap fun (n, p) => p.bad.map fun o => (n, o)

/-- A saved context read back. -/
def readBack (k : Nat × Nat) (x : Saved) (copy : Option Nat) : Act Back := do
  if copy.isNone then areaCheck k x.area (areaSize x.prog)
  let img ← x.image.mapM fun (o, bs) => do
    let bad := (x.bad.filter fun b => decide (o ≤ b ∧ b < o + bs.length)).map (· - o)
    pure (o, ← partBack (← areaKeys k x copy o bs.length) bs bad)
  let dyn ← x.dyn.mapM fun (n, at', bs) => do
    let bad := (x.dynBad.filter fun b => b.1 == n).map (·.2)
    pure (n, ← partBack (if at' = 0 then [] else dynKeys at' bs.length) (if at' = 0 then [] else bs) bad)
  pure ⟨img, dyn⟩

/-- The registers of a record that some poisoned offsets in it name. -/
def hurtRegs (c : Ctx) (os : List Nat) : List Nat := (os.map (· / 8)).filter fun n => decide (0 < n ∧ n < c.window)

/-- A frame whose record's words are poisoned. -/
def Frame.hurt (bad : List (Nat × Nat)) (f : Frame) : Frame :=
  { f with ctx := f.ctx.hurt (hurtRegs f.ctx ((bad.filter fun x => x.1 == f.record).map (·.2))) }

/-- A saved program with the words that were poisoned since (R375). -/
def Saved.hurt (x : Saved) (b : Back) : Saved :=
  let frames (a : Agent) : Agent := { a with frames := a.frames.map (Frame.hurt b.dynBad) }
  let place (n : Nat) : Nat := (x.spurs.map (·.1)).findIdx (· == n)
  let inside (lo n : Nat) : List Nat := (b.bad.filter fun o => decide (lo ≤ o ∧ o < lo + n)).map (· - lo)
  { x with
    threads := x.threads.map fun (a, r) =>
      (a, { frames r with ctx := r.ctx.hurt (hurtRegs r.ctx (inside (imageAt (place (spurOf a)) + slotAt a) 768)) })
    spurs := x.spurs.zipIdx.map fun ((n, p), i) =>
      (n, { p with poisonWords := (p.poisonWords ++ (inside (imageAt i) 0x100000).map (· / 8)).eraseDups })
    prog := { x.prog with runList := x.prog.runList.map fun y =>
      let a := frames y.agent
      { y with agent := { a with ctx := a.ctx.hurt (hurtRegs a.ctx ((b.dynBad.filter fun z => z.1 == y.record).map (·.2))) } } } }

/-- Whether a part that the spec does not lay out reads otherwise than it was written, or has become poisoned: what it holds is
unspecified then (R368). -/
def Back.lost (b : Back) (o : Nat) : Bool := (tabFind b.img o).any fun p => !p.kept || !p.bad.isEmpty

/-- A context as the record that holds it reads now (R369, R372): unspecified where a word that holds no general register has become
poisoned, since no such register can be poisoned. -/
def Part.ctx (p : Part) (c : Ctx) (n : Nat) : Ctx :=
  if p.bad.any fun o => decide (768 ≤ o) then c.scramble n
  else if p.kept then c else c.ofRecord p.bytes

/-- Whether the link of a record to its frame is the one written (R369). -/
def Part.sameLink (p : Part) (bs : List Byte) : Bool := wordAt p.bytes 125 == wordAt bs 125

/-- A frame of a restored agent as its record reads now. -/
def Frame.back (b : Back) (n : Nat) (f : Frame) : Frame :=
  match tabFind b.dyn f.record with
  | some p => { f with ctx := p.ctx f.ctx n }
  | none => f

/-- An agent with its context as its record reads, and its frames as theirs; where its link leads elsewhere, the contexts of its frames
are unspecified. -/
def Agent.back (b : Back) (p : Option Part) (old : List Byte) (n : Nat) (a : Agent) : Agent :=
  match p with
  | none => a
  | some p =>
    let frames := a.frames.zipIdx.map fun (f, i) =>
      let m := n + scrambled * (i + 1)
      if p.sameLink old then f.back b m else { f with ctx := f.ctx.scramble m }
    { a with ctx := p.ctx a.ctx n, frames := frames }

/-- The pool of a spur as its image reads now (R368). -/
def Spur.poolBack (p : Spur) (b : Back) (i : Nat) : Spur :=
  let banks := (List.range 32).filterMap fun n => (tabFind b.img (imageAt i + n * bankBytes)).bind fun x =>
    if x.kept then none else some (n, x.bytes)
  { p with pool := banks.foldl (fun t (n, bs) => memSets t (span (n * bankBytes) bs.length) bs) p.pool }

/-- A spur whose 4 KiB of state are unspecified: its notice and POOLOCC. Its banks keep their roles and positions, by which R372 has
found that they fit (DESIGN CHOICE, log 28). -/
def Spur.scramble (p : Spur) (n : Nat) : Spur :=
  { p with
    hwm := (List.range 6).map fun i => (i, (Config.freeWord (n + i)).toNat % 2 ^ 15)
    notice := { p.notice with
      pending := Config.freeBit n, seq := (Config.freeWord (n + 6)).toNat % 2 ^ 16, target := (Config.freeWord (n + 7)).toNat % 33
      members := p.notice.members.zipIdx.map fun (m, i) =>
        { m with acked := Config.freeBit (n + 3 * i + 1), woken := Config.freeBit (n + 3 * i + 2), gone := Config.freeBit (n + 3 * i + 3) } } }

/-- A barrier whose state in the master record is unspecified. -/
def Bar.scramble (b : Bar) (n : Nat) : Bar :=
  { b with c := (Config.freeWord n).toNat % 2 ^ 32, cNext := if Config.freeBit n then some ((Config.freeWord (n + 1)).toNat % 2 ^ 32) else none }

/-- A thread's contribution whose values there are unspecified. -/
def Contrib.scramble (x : Contrib) (n : Nat) : Contrib :=
  { x with
    flags := Config.freeFlags n
    items := x.items.zipIdx.map fun (it, i) => match it with
      | .val m op _ => .val m op (Config.freeWord (n + i))
      | .nest t => .nest t }

/-- What the master record holds of a program, unspecified (R368): n0 to n63, the spawn state, JRES and SPFLAGS. The quota list stays
with the spurs that the program has. -/
def Prog.scramble (p : Prog) (n : Nat) : Prog :=
  let f (i : Nat) : Word := Config.freeWord (n + i)
  let g (i : Nat) : Nat := (f i).toNat % 2 ^ 32
  { p with
    ridge := (List.range 64).map fun i => (i, f i)
    jres := (List.range 8).map fun i => (i, f (64 + i))
    spflags := Config.freeFlags n, jval := (f 72).toNat % 256, sstate := (f 73).toNat % 3, rcode := (f 74).toNat % 256, seq := g 75
    u := g 76, d := g 77, l := g 78, e := g 79, liveCount := g 80, lostix := (f 81).toNat % 4096, lostov := Config.freeBit (n + 82)
    lost := p.lost.zipIdx.map (fun (_, i) => g (1024 + i)), lostNow := p.lostNow.zipIdx.map fun (_, i) => g (8192 + i)
    spawn := { p.spawn with
      entry := (f 83).toNat % 2 ^ 56 / 4 * 4, window := codeWindow ((f 84).toNat % 6), count := g 85, next := g 86
      gsnap := (List.range 32).map (fun i => f (96 + i)), tvec := f 87 &&& ~~~3#64, wlim := f 88 &&& 0xFFFFFFFFFFFF#64
      fcsr := (f 89 &&& 0x7F01F#64) ||| wordN ((f 89).toNat / 32 % 8 % 6 * 32), srseed := f 90 }
    bars := p.bars.map fun (i, b) => (i, b.scramble (n + 256 + 2 * i))
    contribs := p.contribs.zipIdx.map fun (x, i) => x.scramble (n + 2 ^ 16 + 64 * i) }

/-- A Scree descriptor whose 64 bytes, which the spec does not lay out, were changed: what a child starts from is unspecified. -/
def Desc.scramble (d : Desc) (n : Nat) : Desc :=
  let f (i : Nat) : Word := Config.freeWord (n + i)
  { d with
    entry := (f 0).toNat % 2 ^ 56 / 4 * 4, window := codeWindow ((f 1).toNat % 6), prio := (f 2).toNat % 4, args := [f 3, f 4, f 5, f 6]
    fcsr := (f 7 &&& 0x7F000#64) ||| wordN ((f 7).toNat / 32 % 8 % 6 * 32), srseed := f 8, tvec := f 9 &&& ~~~3#64
    wlim := f 10 &&& 0xFFFFFFFFFFFF#64, level := (f 11).toNat % 16 + 1 }

/-- What the master record holds, unspecified where its bytes were changed: the master's registers, the program's, its sessions and its
bindings. -/
def Saved.looseBack (x : Saved) (b : Back) (n : Nat) : Saved :=
  if b.lost 0x1000 then
    { x with
      master := { x.master with ctx := x.master.ctx.scrambleMaster n }
      prog := x.prog.scramble (n + 2 ^ 16)
      arete := x.arete.map fun y => { y with bad := true }
      trees := x.trees.map fun t => { t with bad := true } }
  else x

/-- The places of the parts that hold descriptors: those that hold no record. -/
def Saved.descParts (x : Saved) : List (Nat × Nat × List Byte) :=
  let records := (x.prog.runList.flatMap fun y => y.record :: y.agent.frames.map Frame.record) ++
    x.threads.flatMap fun y => y.2.frames.map Frame.record
  x.dyn.filter fun y => !records.contains y.1

/-- A saved program as its context reads now (R372): the pool images and the records as the area has them, what the spec does not lay out
unspecified where it was changed. -/
def Saved.asRead (x : Saved) (b : Back) (s : State) : Saved × State :=
  let n := s.free
  let x := x.hurt b
  let old (l : List (Nat × List Byte)) (o : Nat) : List Byte := ((l.find? fun y => y.1 == o).map (·.2)).getD []
  let place (m : Nat) : Nat := (x.spurs.map (·.1)).findIdx (· == m)
  let dyns := x.dyn.map fun y => (y.1, y.2.2)
  let descs := x.descParts.any fun y => (tabFind b.dyn y.1).any fun p => !p.kept || !p.bad.isEmpty
  let y := x.looseBack b n
  ({ y with
      threads := x.threads.zipIdx.map fun ((a, r), i) =>
        let o := imageAt (place (spurOf a)) + slotAt a
        (a, r.back b (tabFind b.img o) (old x.image o) (n + 2 ^ 40 + 2 ^ 16 * i))
      spurs := x.spurs.zipIdx.map fun ((m, p), i) =>
        let q := p.poolBack b i
        (m, if b.lost (imageAt i + 0x100000) then q.scramble (n + 2 ^ 41 + 2 ^ 21 * i) else q)
      scree := if descs then x.scree.zipIdx.map fun (d, i) => d.scramble (n + 2 ^ 42 + 16 * i) else x.scree
      prog := { y.prog with runList := x.prog.runList.zipIdx.map fun (r, i) =>
        { r with agent := r.agent.back b (tabFind b.dyn r.record) (old dyns r.record) (n + 2 ^ 43 + 2 ^ 16 * i) } } },
    { s with free := n + 2 ^ 44 })

/-! ### Restoring (R372) -/

/-- The pages that a program's threads, its master, its commands and its withdrawn units wait for, with their waiters. -/
def waitedPages (s : State) (k : Nat × Nat) : List (Nat × Waiter) :=
  ((s.prog k).runList.filterMap fun x => match x.runnable, x.agent.wait with
    | false, .page va => some (va, .thread k.1 k.2 x.agent.tag x.agent.ctx.tid.toNat)
    | _, _ => none) ++
  ((agentsOf s k).filterMap fun a => match (s.agent a).wait, (s.agent a).unitPage with
    | .page va, _ => some (va, waiterOf s a)
    | _, some (va, false) => some (va, waiterOf s a)
    | _, _ => none) ++
  (cmdsOf s k).filterMap fun c => c.wait.map fun va => (va, .engine c.id)

/-- A fault that is still pending, at whichever die, is pending at the program's die (R366). -/
def stillFaults (k : Nat × Nat) (s : State) (x : Nat × Waiter) : State :=
  let asid := (s.prog k).asid
  let f := (List.range 4).findSome? fun d => (s.die d).faults.find? fun f => f.asid == asid && f.holds x.1
  addFaultFor s k asid x.1 ((f.map FaultRec.acc).getD 0) ((f.map FaultRec.held).getD false) ((f.map FaultRec.dest).getD false) [x.2]

/-- Lines owned again before any thread runs (R210): those of the commands under way, with the faults of their absent pages. -/
def reownCmds (k : Nat × Nat) (s : State) : State :=
  let cs := (cmdsOf s k).filter fun c => !c.data
  let own := cs.flatMap fun c => c.ownsOf s
  let s := takeLines k.1 own s
  (cs.filter fun c => c.dsp == 0).foldl (fun t c =>
    destFaults c.at (.engine c.id) ((List.range c.rows).map fun r => (c.dstRow r, c.len)) t) s

/-- Those of the merges that its MGFINs are to continue (R187, R210). -/
def reownMerges (k : Nat × Nat) (s : State) : State :=
  let g : EngAt := ⟨k.1, none, k.2, none⟩
  ((s.die k.1).arete.filter fun x => x.core = k.2).foldl (fun t x =>
    match x.merge with
    | none => t
    | some m =>
      match finArrays x m.bytes with
      | none => t
      | some (rp, ci, vs, n) =>
        let rs := mergeDests x rp ci vs n
        let who : Waiter := match m.thread with
          | some (tag, tid) => .thread k.1 k.2 tag tid
          | none => .master k.1 k.2
        destFaults g who rs (takeLines k.1 (ownLines t g m.id rs) t)) s

/-- What the governor keeps of a program that is restored (R306): its held intervals and its weight in W where the window in which it was
saved, on this die, goes on. -/
def Prog.rejoin (p : Prog) (r : Die) (win : Nat × Nat) (d : Nat) : Prog × Die :=
  let t := win.2 - r.era
  if win.1 = d ∧ r.era ≤ win.2 ∧ (t + 99) / 100 = (r.sample + 99) / 100 then
    let p := if t = r.sample then p else { p with winHeld := p.winHeld + (if p.heldNow then 1 else 0), heldNow := false }
    (p, { r with goneWeight := r.goneWeight - (if p.winAsked then p.weight else 0) })
  else ({ p with winHeld := 0, winAsked := false, heldNow := false }, r)

/-- A saved program placed on a master core (R372): its spurs, threads, descriptors, sessions and bindings, held where the governor
holds its class (R305), the lines of its engines owned again (R210), its pending faults before the die's service (R366). A binding's CAP,
CPUCT, FPU, VLW, ALT and TFT are those it was saved with, not read again from its header: R265 says only that the trees are read from
memory (DESIGN CHOICE, log 28). -/
def placeSaved (d n : Nat) (x : Saved) (s : State) : State :=
  let k := (d, n)
  let ns := restoreSpurs s d x
  let m : Place := ⟨d, n, (x.spurs.map (·.1)).zip ns⟩
  let (p, r) := (m.prog x.prog).rejoin (s.die d) x.win d
  let s := (s.setDie d r).setProg k p
  let s := s.setProg k { s.prog k with heldZones := heldZonesOf s k }
  let s := (x.spurs.zip ns).foldl (fun t (op, new) => t.setSpur (d, new) (op.2.restore (t.spur (d, new)) m)) s
  let s := s.setAgent (.master d n) (m.thread x.master)
  let s := x.threads.foldl (fun t (a, r) => t.setAgent (m.agent a) (m.thread r)) s
  let r := s.die d
  let s := s.setDie d { r with
    scree := r.scree ++ x.scree.map fun e => { e with core := n }
    arete := r.arete ++ x.arete.map fun e => { e with core := n }
    trees := r.trees ++ x.trees.map fun e => { e with core := n } }
  let s := reownMerges k (reownCmds k { s with power := if s.power = .idle then .active else s.power })
  (waitedPages s k).foldl (stillFaults k) s

/-- STATE and VERSION of the header at a physical key: of a saved program (R365, R370). -/
def headerOk (s : State) (key : Nat) : Bool :=
  let w0 := leNat (memGets s.mem (span key 8))
  (span key 8).all keyExists && !(span key 8).any s.poisoned && decide (bits w0 15 0 = 1 ∧ bits w0 23 16 = 2)

/-- The header of a program that runs again: STATE RUNNING, SAVESTAT OK (R370). -/
def runHeader (key : Nat) (s : State) : State :=
  let keys := span key 8
  let w0 := leNat (memGets s.mem keys)
  let s := touchL1 s (.slot 0 0 0 0) false true keys
  { s with mem := memSets s.mem keys (leBytes 8 (setField (setField (setField w0 23 16 1) 31 24 kOK) 63 56 0)) }

/-- Whether a saved program's own area stands at a physical key. -/
def Saved.standsAt (x : Saved) (s : State) (k : Nat × Nat) (key : Nat) : Bool :=
  match (inAsid k x.asid (partTrans k .none x.area 1)).run s with
  | .ok (keys, _) => keys == [key]
  | .error _ => false

/-- Whether a copy of its area does, in one piece: an area elsewhere is known by its bytes. -/
def Saved.copiedAt (x : Saved) (s : State) (key : Nat) : Bool :=
  x.image.all fun (o, bs) => memGets s.mem (span (key + o) bs.length) == bs

/-- The program whose context stands at a physical key, the last one saved there, and where a copy stands. -/
def findSaved (s : State) (k : Nat × Nat) (key : Nat) : Option (Saved × Option Nat) :=
  match s.saved.find? fun x => x.standsAt s k key with
  | some x => some (x, none)
  | none => (s.saved.find? fun x => x.copiedAt s key).map fun x => (x, some key)

/-- A saved program restored onto a master core, or refused (R365, R372), from the context area at a physical key: its header's
address is of the same kind as CTXRESTORE's (R389, log 27). An area whose header can be read but that holds no context the package
has written is refused as RANGE (log 28), and so is one whose address space has no valid root: a program runs in none (R338). -/
def restoreAt (d n key : Nat) (s : State) : Ask × State :=
  let k := (d, n)
  let refuse (code : Nat) : Ask × State := (.code code, putSaveStat key code s)
  if (span key 8).any s.ownedLine then (.waits, s)
  else if (s.prog k).running then refuse kBUSY
  else if !headerOk s key then refuse kRANGE
  else
    match findSaved s k key with
    | none => refuse kRANGE
    | some (x, copy) =>
      if tabGet s.roots x.asid 0 % 2 = 0 then refuse kRANGE
      else if !canRestore s d x then refuse kNOFREE
      else
        match (inAsid k x.asid (readBack k x copy)).run (freshRoot x.asid s) with
        | .ok (b, t) =>
          let (x, t) := x.asRead b t
          (.code kOK, placeSaved d n x (runHeader key t))
        | .error (.page va acc h) => (.waits, addFault s k x.asid va acc h [])
        | .error .stall => (.waits, s)
        | .error _ => refuse kRANGE

/-- CTXRS (R365, R372). -/
def execCtxrs (a n : Nat) (s : State) : Out := askInstr a n (fun x => restoreAt (dieOf s.cur) n (physKey x.toNat)) s

end Sys2Proof.Machine
end

