-- ==== Sys2Proof/Machine/Mailbox.lean ====
section
/-! DEFINITION. The driver's mailbox and the registers of BAR0 (15_firmware_links.md R387 to R389, R392, with R16, R341, R350,
R351, R371, R384). -/

namespace Sys2Proof.Machine

/-! ### Requests (R388) -/

/-- Whether the active complex takes up an outstanding request now: it works, has not taken it yet, and no takeover is near
(R385). -/
def mbOpen (s : State) : Bool := fwRuns s && mbPending s && !s.mailbox.taken && s.fw.upd != .quiesce

/-- A command of R389 performed where the outstanding request names it. -/
def command (code : Nat) (f : State → State) (s : State) : Out := when (mbOpen s && mbCode s == code) f s

/-- An answer without results. -/
def answer (a : Nat) (s : State) : State := mbAnswer a [] s

/-- Die, queue or core, 32-bit argument, first and second 8-byte values of a request. -/
def argDie (s : State) : Nat := mbArg s 8 1
def argUnit (s : State) : Nat := mbArg s 9 1
def arg32 (s : State) : Nat := mbArg s 12 4
def argA (s : State) : Nat := mbArg s 16 8
def argB (s : State) : Nat := mbArg s 24 8

/-- A request that names a die is answered RANGE where there is none in service (R388). -/
def onDie (f : Nat → State → State) (s : State) : State :=
  let d := argDie s
  if d < 4 ∧ (s.die d).state = .up then f d s else answer aRANGE s

/-- A request that names a queue of a die. -/
def onQueue (f : Nat × Nat → State → State) (s : State) : State :=
  onDie (fun d s => if argUnit s < 64 then f (d, argUnit s) s else answer aRANGE s) s

/-- A request that names a master core of a die. -/
def onCore (f : Nat × Nat → State → State) (s : State) : State :=
  onDie (fun d s => if argUnit s < 8 then f (d, argUnit s) s else answer aRANGE s) s

/-! ### Queues -/

/-- The descriptor of a QENABLE (R295), or none for a field outside its limits. -/
def queueOf (w : Nat) : Option Queue :=
  if bits w 63 0 % 4096 ≠ 0 ∨ bits w 67 64 < 4 ∨ 16 < bits w 67 64 ∨ bits w 87 80 = 0 ∨ bits w 111 96 = 0 then none
  else some { Queue.blank with
    base := bits w 63 0, lsize := bits w 67 64, loc := bits w 68 68, prio := bits w 70 69, weight := bits w 87 80
    asid := bits w 111 96, tail := bits w 191 160 }

/-- QENABLE. -/
def execQenable (s : State) : Out :=
  command 0x01 (onQueue fun k s =>
    let q := s.queue k
    match queueOf (mbArg s 16 32) with
    | none => answer aRANGE s
    | some n =>
      match q.state with
      | .disabled =>
        let s := s.setQueue k { n with state := .ready, head := q.head, next := q.next, started := enabledStarted q.started }
        answer aOK (writeTail k n.tail s)
      | _ => answer aBUSY s) s

/-- A queue DISABLED: nothing more starts, and a wait that has not ended is over (R296, R298). -/
def disableQueue (k : Nat × Nat) (s : State) : State :=
  let q := s.queue k
  s.setQueue k { q with
    state := .disabled, page := none, refused := none, held := none, started := q.started.filter fun p => p.kind != 4 || p.done }

/-- QDISABLE. -/
def execQdisable (s : State) : Out :=
  command 0x02 (onQueue fun k s =>
    match (s.queue k).state with
    | .disabled => answer aOK s
    | .error => answer aBUSY s
    | _ => answer aOK (disableQueue k s)) s

/-- QRESET. -/
def execQreset (s : State) : Out :=
  command 0x03 (onQueue fun k s =>
    let q := s.queue k
    let go : State := answer aOK (s.setQueue k { q with
      state := .disabled, estat := 0, head := 0, tail := 0, held := none, page := none, refused := none, started := resetStarted q.started })
    match q.state with
    | .disabled => go
    | .error => go
    | _ => answer aBUSY s) s

/-- QACK (R392). -/
def execQack (s : State) : Out :=
  command 0x04 (onQueue fun k s =>
    let q := s.queue k
    match q.state with
    | .fetchFault => if arg32 s = q.head then answer aOK (s.setQueue k { q with state := .ready }) else answer aRANGE s
    | _ => answer aBUSY s) s

/-! ### Faults and extents -/

/-- FRING. -/
def execFring (s : State) : Out :=
  command 0x05 (onDie fun d s =>
    let n := mbArg s 24 1
    if argA s % 4096 ≠ 0 ∨ n < 4 ∨ 16 < n ∨ runExists (argA s) (32 * 2 ^ n) = false then answer aRANGE s
    else
      let r := s.die d
      answer aOK (s.setDie d { r with ring := { r.ring with bound := true, base := argA s, lsize := n, head := 0, tail := 0 } })) s

/-- FANSWER (R366, R390). -/
def execFanswer (s : State) : Out :=
  command 0x06 (onDie fun d s =>
    match (s.die d).faults.find? fun f => f.id == arg32 s && f.sent with
    | some f => if 1 < mbArg s 16 1 then answer aRANGE s else answer aOK (answerFault d f (mbArg s 16 1 == 1) s)
    | none => answer aRANGE s) s

/-- The last extent of a chain (R371). -/
def lastExtent (s : State) : Nat → Nat → Nat
  | 0, at' => at'
  | n + 1, at' => if nextExtent s at' = 0 then at' else lastExtent s n (nextExtent s at')

/-- An extent linked at the end of a program's chain: in DYNEXT where it is the first. -/
def linkExtent (k : Nat × Nat) (at' : Nat) : Act Unit := do
  let first := leNat (← partRead k ((← gets fun s => (s.prog k).ctx) + 32) 8)
  if first = 0 then partWrite k ((← gets fun s => (s.prog k).ctx) + 32) (leBytes 8 at')
  else
    let link := extentLink (lastExtent (← get) 4096 first)
    if dynBusy (← get) link 8 then throw .stall
    mods (dynWrite k.1 link (leBytes 8 at') [])

/-- EXTENT (R371): the new extent, at a physical address (R389), linked at the end of the chain, or the program ends with CTXFULL. -/
def execExtent (s : State) : Out :=
  command 0x07 (onDie fun d s =>
    let r := s.die d
    match r.extents.find? fun x => x.id == arg32 s with
    | none => answer aRANGE s
    | some x =>
      let k := (d, x.core)
      let done (s : State) : State :=
        answer aOK (s.setDie d { s.die d with extents := (s.die d).extents.filter fun y => y.id ≠ x.id })
      let full (s : State) : State := startEnd s k ⟨5, 0, 0, x.pc, x.tid, x.spur, none, false⟩
      if argA s = 0 then done (full s)
      else if argA s % 2 ^ 21 ≠ 0 ∨ runExists (argA s + (2 ^ 21 - 8)) 8 = false then answer aRANGE s
      else
        match (linkExtent k (argA s)).run s with
        | .ok (_, t) => done (parkWaiting t k)
        | .error (.page va acc h) => addFault s k (s.prog k).asid va acc h []
        | .error .stall => s
        | .error _ => done (full s)) s

/-! ### Programs -/

/-- KILL (R364): answered when the program has ended. -/
def execKill (s : State) : Out :=
  command 0x08 (onCore fun k s =>
    if (s.prog k).running then
      let s := startEnd s k ⟨4, 0, 0, 0, 0, 0, none, false⟩
      { s with mailbox := { s.mailbox with taken := true } }
    else answer aBUSY s) s

/-- CTXSAVE (R365): answered when the save is over. -/
def execCtxsave (s : State) : Out :=
  command 0x09 (onCore fun k s =>
    match askSave k none s with
    | (.code c, s) => mbAnswer (codeAnswer c) (leBytes 1 c) s
    | (.begun, s) => { s with mailbox := { s.mailbox with taken := true } }
    | (.waits, s) => s) s

/-- CTXRESTORE (R365, R372): of a context area at a physical address (R389). In SLEEP, which no command but WAKE leaves, it is
BUSY (R400). -/
def execCtxrestore (s : State) : Out :=
  command 0x0A (onCore fun k s =>
    if s.power = .sleep then mbAnswer aBUSY (leBytes 1 kBUSY) s
    else match restoreAt k.1 k.2 (physKey (argA s)) s with
    | (.code c, t) => mbAnswer (codeAnswer c) (leBytes 1 c) t
    | (_, t) => t) s

/-- OCCUP (R333): the sums of BANKS, then of LIVE, then of HWM, over the roles REG, SCR, RDC, TIL and ACC. -/
def execOccup (s : State) : Out :=
  command 0x10 (onCore fun k s =>
    let p := s.prog k
    if !p.running then answer aBUSY s
    else
      let ps := p.quota.map fun n => s.spur (k.1, n)
      let sum (f : Spur → Role → Nat) : List Byte := [Role.reg, .scr, .rdc, .til, .acc].flatMap fun r =>
        leBytes 8 ((ps.map fun q => f q r).sum)
      mbAnswer aOK (sum (fun q r => (q.banksOf r).length) ++ sum Spur.live ++ sum fun q r => tabGet q.hwm r.code 0) s) s

/-! ### Settings -/

/-- A request of the driver's that firmware accepts as configuration: measured into MR5, and answered (R350). Of the commands, those
that set limits and identities count as configuration: SETBUDGET, SETNODE and ERRCFG (DESIGN CHOICE, log 38). -/
def accept (s : State) : State := answer aOK (extendMr 5 (.config s.mailbox.sub) s)

/-- SETBUDGET (R16): in force from the next sample (R304). -/
def execSetbudget (s : State) : Out :=
  command 0x0B (onDie fun d s =>
    let w := arg32 s
    if w < 300 ∨ 1050 < w then answer aRANGE s else accept (s.setDie d { s.die d with newBudget := w })) s

/-- SETNODE (R12). -/
def execSetnode (s : State) : Out :=
  command 0x0C (fun s =>
    if 0x3FFFE < arg32 s then answer aRANGE s
    else if (List.range 32).any fun l => (s.link l).trained then answer aBUSY s
    else accept { s with node := arg32 s }) s

/-- ROOTSET (R338, R346). -/
def execRootset (s : State) : Out :=
  command 0x0D (fun s =>
    let asid := mbArg s 8 2
    if asid = 0 then answer aRANGE s
    else if s.progs.any fun x => x.2.running && x.2.asid == asid then answer aBUSY s
    else answer aOK { s with roots := tabSet s.roots asid (argA s) }) s

/-- INVAL (R345, R346): answered after it completes. -/
def execInval (s : State) : Out :=
  command 0x0E (fun s =>
    match (invalidate (argA s) (argB s)).run s with
    | .ok (_, t) => answer aOK t
    | .error _ => s) s

/-- ERRCFG (R377). -/
def execErrcfg (s : State) : Out :=
  command 0x0F (onDie fun d s =>
    let v := argA s
    accept (s.setDie d { s.die d with errLimit := bits v 39 32, errWindow := bits v 31 0 })) s

/-! ### Update, attestation -/

/-- The digest of a firmware image in memory (R350). -/
def imageDigest (key : Nat) (s : State) : BitVec 512 :=
  let n := Config.imageLength (memGets s.mem (span key 64))
  BitVec.ofNat 512 (leNat (sha3 (memGets s.mem (span key n))))

/-- The image of an UPDATE at an address: all of it lies in memory that exists (R13). -/
def imageExists (a : Nat) (s : State) : Bool :=
  runExists a 64 && runExists a (Config.imageLength (memGets s.mem (span (physKey a) 64)))

/-- UPDATE (R385): the standby reboots from the image at an address, also one that had failed; one that stays off (R399) cannot. -/
def execUpdate (s : State) : Out :=
  command 0x11 (fun s =>
    let f := s.fw
    if f.upd ≠ .idle then answer aBUSY s
    else if !imageExists (argA s) s then answer aRANGE s
    else if f.standby.off then answer aREFUSED s
    else
      let n := s.free + 1
      let c := f.standby
      { s with
        free := s.free + 1
        mailbox := { s.mailbox with taken := true }
        fw := { f.setStandby { c with alive := true, prev := c.image, image := n } with
          upd := .staged, image := n, digest := imageDigest (physKey (argA s)) s } }) s

/-- Bytes of physical memory written by firmware. -/
def fwWrite (addr : Nat) (bs : List Byte) (s : State) : State :=
  let keys := span (physKey addr) bs.length
  let s := touchL1 s (.slot 0 0 0 0) false true keys
  { s with mem := memSets s.mem keys bs }

/-- The report of R351 for a nonce. -/
def report (s : State) (nonce : List Byte) : List Byte :=
  let serial : BitVec 64 := Config.serial ++ BitVec.ofNat 32 (s.node % 2 ^ 18)
  let svn := Config.svn (Config.fwVersion s.fw.a.image) (Config.fwVersion s.fw.b.image)
  let r := leBytes 8 serial.toNat ++ leBytes 8 svn.toNat ++ (nonce ++ List.replicate 64 0).take 64 ++
    (List.range 8).flatMap s.fw.mr ++ leBytes 8 s.fw.log.length ++ sha3 s.fw.logBytes
  (r ++ List.replicate 1024 0).take 1024

/-- ATTEST (R351): the report and its signature. -/
def execAttest (s : State) : Out :=
  command 0x12 (fun s =>
    let n := mbArg s 8 1
    if n < 32 ∨ 64 < n ∨ runExists (argA s) n = false ∨ runExists (argB s) (1024 + 4627) = false then answer aRANGE s
    else
      let nonce := memGets s.mem (span (physKey (argA s)) n)
      let r := report s nonce
      let sig := (List.range 4627).map fun i => Config.signature (BitVec.ofNat 512 (leNat (sha3 r))) i
      answer aOK (fwWrite (argB s) (r ++ sig) s)) s

/-- CERT (R351). -/
def execCert (s : State) : Out :=
  command 0x13 (fun s =>
    let c := Config.certificate
    if argB s < c.length ∨ runExists (argA s) c.length = false then answer aRANGE s
    else mbAnswer aOK (leBytes 8 c.length) (fwWrite (argA s) c s)) s

/-- EXTEND (R350). -/
def execExtend (s : State) : Out :=
  command 0x14 (fun s =>
    let n := mbArg s 8 1
    if n = 6 ∨ n = 7 then answer aOK (extendMr n (.given (BitVec.ofNat 512 (mbArg s 16 64))) s) else answer aRANGE s) s

/-! ### Power and links -/

/-- The package asleep: the SerDes are off (R400). -/
def goSleep (s : State) : State := { s with power := .sleep }

/-- The package awake: ACTIVE, the trained Traverse links train again (R400). -/
def wakeUp (s : State) : State :=
  { s with
    power := .active
    links := s.links.map fun (l, r) => if l < 32 ∧ r.state ≠ .down then (l, { r with state := .training }) else (l, r) }

/-- SLEEP: from IDLE, where there is nothing to do (R400). -/
def execSleep (s : State) : Out :=
  command 0x15 (fun s => if s.power = .idle ∧ busy s = false then answer aOK (goSleep s) else answer aBUSY s) s

/-- WAKE. -/
def execWake (s : State) : Out :=
  command 0x16 (fun s => match s.power with
    | .sleep => answer aOK (wakeUp s)
    | _ => answer aOK s) s

/-- LINKUP (R395). -/
def execLinkup (s : State) : Out :=
  command 0x17 (fun s =>
    let l := mbArg s 8 1
    let m := mbArg s 9 1
    if 32 ≤ l ∨ 1 < m then answer aRANGE s
    else if s.node = 0x3FFFF then answer aBUSY s
    else if m = 1 then answer aOK (linkDown l s)
    else
      match (s.link l).state with
      | .down => answer aOK (s.setLink l { s.link l with state := .training })
      | _ => answer aBUSY s) s

/-- Every other CODE (R389). -/
def execUnknownCommand (s : State) : Out :=
  when (mbOpen s && (mbCode s == 0 || decide (0x17 < mbCode s))) (answer aUNKNOWN) s

/-! ### The registers of BAR0 (R387) -/

/-- A request submitted (R388): ignored while one is outstanding. -/
def ringMbdoor (tag : Nat) (s : State) : State :=
  let m := s.mailbox
  if tag = 0 ∨ m.done ≠ m.tag then s
  else { s with mailbox := { m with tag := tag, sub := m.req, busy := true, taken := false } }

/-- A write of BAR0: MBREQ, MBDOOR, the doorbells and FRHEAD; one of another size or alignment, to a register that is read
only, or anywhere else is ignored. -/
def bar0Write (offset size value : Nat) (s : State) : State :=
  let v := value % 2 ^ (8 * size)
  if (size ≠ 4 ∧ size ≠ 8) ∨ offset % size ≠ 0 then s
  else if offset < 0x100 then
    let m := s.mailbox
    { s with mailbox := { m with req := m.req.take offset ++ leBytes size v ++ m.req.drop (offset + size) } }
  else if offset = 0x200 then ringMbdoor v s
  else if 0x10000 ≤ offset ∧ offset < 0x11000 ∧ offset % 16 = 0 then
    let k := ((offset - 0x10000) / 0x400, (offset - 0x10000) % 0x400 / 16)
    if (s.die k.1).state = .up then writeTail k v s else s
  else if 0x20000 ≤ offset ∧ offset < 0x20100 ∧ offset % 0x40 = 0 then
    let d := (offset - 0x20000) / 0x40
    s.setDie d { s.die d with ring := { (s.die d).ring with head := v % 2 ^ 32 } }
  else s

/-- The host writes a register of BAR0 (R387). -/
def execBar0RegisterWrite (offset size value : Nat) (s : State) : Out := when (powered s) (bar0Write offset size value) s

/-- FWSTAT. -/
def fwstat (s : State) : Nat :=
  let b (x : Bool) (n : Nat) : Nat := if x then 2 ^ n else 0
  b s.fw.aActive 0 + b (!s.fw.aActive) 1 + b (s.fw.upd != .idle) 2 + s.fw.boot % 256 * 256

/-- The 8-byte register of BAR0 at a multiple of 8, as the host reads it: one that is write only reads zero
(00_scope.md, access codes). -/
def bar0Reg (offset : Nat) (s : State) : Nat :=
  if offset < 0x100 then leNat ((s.mailbox.req.drop offset).take 8)
  else if offset < 0x200 then leNat ((s.mailbox.rsp.drop (offset - 0x100)).take 8)
  else if offset = 0x208 then s.mailbox.done
  else if offset = 0x210 then fwstat s
  else if 0x20000 ≤ offset ∧ offset < 0x20100 ∧ offset % 0x40 = 0 then (s.die ((offset - 0x20000) / 0x40)).ring.head
  else if 0x20000 ≤ offset ∧ offset < 0x20100 ∧ offset % 0x40 = 8 then (s.die ((offset - 0x20000) / 0x40)).ring.tail
  else 0

/-- A read of BAR0: all ones for another size or alignment (R387). -/
def bar0Read (offset size : Nat) (s : State) : List Byte :=
  if (size ≠ 4 ∧ size ≠ 8) ∨ offset % size ≠ 0 then List.replicate size 0xFF#8
  else leBytes size (bar0Reg (offset / 8 * 8) s / 2 ^ (8 * (offset % 8)))

end Sys2Proof.Machine
end

