-- ==== Sys2Proof/Machine/Power.lean ====
section
/-! DEFINITION. The power states of the package (15_firmware_links.md R399, R400) and the host's accesses to memory
(07_ordering_rules.md R216, 14_recovery.md R375). -/

namespace Sys2Proof.Machine

/-! ### Power states (R400) -/

/-- Bring-up from OFF ends in IDLE (R399): nothing was kept but the fuses. -/
def execPowerOn (fails : BootFails) (s : State) : Out := when (s.power == .off) (bringUp fails) s

/-- D3cold, or loss of main power: nothing is kept. -/
def execPowerOff (s : State) : Out := .next { freshPackage s with power := .off }

/-- 10 ms without a program or a packet to start: ACTIVE to IDLE. -/
def execIdleTimeout (s : State) : Out := when (s.power == .active && !busy s) (fun s => { s with power := .idle }) s

/-- The host places the endpoint in D3hot: IDLE to SLEEP. -/
def execD3hotEntry (s : State) : Out := when (s.power == .idle && !busy s) goSleep s

/-- The endpoint returns to D0: SLEEP to ACTIVE. -/
def execD0Return (s : State) : Out := when (s.power == .sleep) wakeUp s

/-! ### The host's accesses (R216) -/

/-- Whether a host access to a byte can reach it: one of its own memory, or one of the package that is there, powered, its home
reached. -/
def hostReaches (s : State) (k : Nat) : Bool :=
  keySpace k == 1 || ((s.power == .active || s.power == .idle) && keyExists k && s.reach (s.homeOfKey k))

/-- Whether a host access to some bytes can be performed now: it reaches them, no line is owned by an engine, no word claimed. -/
def hostReady (s : State) (keys : List Nat) : Bool :=
  keys.all (hostReaches s) && !keys.any s.ownedLine && !claimedWord s keys

/-- The host, or another PCIe requester, writes memory: the device's, or its own where bit 63 of the address is 1. A line of
poison written whole is clean (R375). -/
def execHostWrite (addr : Nat) (data : List Byte) (s : State) : Out :=
  let keys := span (physKey addr) data.length
  when (hostReady s keys) (fun s =>
    let s := noteStores (touchL1 s (.slot 0 0 0 0) false false keys) keys
    let whole (l : Nat) : Bool := (span (l * 64) 64).all keys.contains
    { s with mem := memSets s.mem keys data, bad := s.bad.filter fun l => !whole l }) s

/-- The host reads BAR0, or memory: a poisoned line reads unspecified, and so does a spill area of Arete (R179). -/
def execHostRead (bar : Bool) (addr len : Nat) (s : State) : Out :=
  if bar then when (powered s) (fun s => { s with hostData := bar0Read addr len s, free := s.free + 1 }) s
  else
    let keys := span (physKey addr) len
    when (hostReady s keys) (fun s =>
      let s := touchL1 s (.slot 0 0 0 0) false false keys
      let byte (x : Nat × Nat) : Byte := if s.poisoned x.1 || s.spillKey x.1 then Config.freeByte (s.free + x.2) else memGet s.mem x.1
      { s with hostData := keys.zipIdx.map byte, free := s.free + len }) s

end Sys2Proof.Machine
end

