-- ==== Sys2Proof/Machine/Ridge.lean ====
section
/-! DEFINITION. The Ridge registers and the join reductions' items (10_spawn.md R285 to R290). -/

namespace Sys2Proof.Machine

/-- A Ridge register of a program (R285). -/
def Prog.n (p : Prog) (k : Nat) : Word := tabGet p.ridge k 0

/-- Marks the side effect of R380 and gives the program. -/
def setRidge (k : Nat) (v : Word) : Act Unit :=
  mods fun s => s.setMyProg { s.myProg with ridge := tabSet s.myProg.ridge k v }

/-- A Ridge result: written at once, or 14 cycles later by RIDGE_REPLY when the move leaves it under way (R287). -/
def ridgeResult (d : Nat) (v : Word) : Act Unit := do
  let s ← get
  if s.defer then set (s.setMe { s.me with ridge := s.me.ridge ++ [(d, v)] })
  else wrS d v

/-- PS (R287). -/
def execPs (d n b : Nat) (s : State) : Out :=
  runInstr .t [.w d, .r b] (do
    let y ← rdS b
    markSide
    let old ← gets fun s => s.myProg.n n
    setRidge n (old + y)
    ridgeResult d old
    pure .adv) s

/-- PSM (R287): an odd register traps ILLOP; past the limit nothing is added. -/
def execPsm (d n b : Nat) (s : State) : Out :=
  runInstr .t [.w d, .r b] (do
    let iw ← gets fun s => wordN s.iw
    trapIf (decide (n % 2 = 1)) cILLOP iw
    let y ← rdS b
    markSide
    let p ← gets State.myProg
    let old := p.n n
    if old.toNat + y.toNat ≤ (p.n (n + 1)).toNat then
      setRidge n (old + y)
      ridgeResult d old
    else ridgeResult d (BitVec.allOnes 64)
    pure .adv) s

/-- A Ridge result reaches its register (R287). -/
def execRidgeReply (who : AgentId) (s : State) : Out :=
  when (!(s.agent who).ridge.isEmpty) (asAgent who .plain deliverRidge) s

/-- NRD (R288). -/
def execNrd (d n : Nat) (s : State) : Out :=
  runInstr .tm [.w d] (do
    wrS d (← gets fun s => s.myProg.n n)
    pure .adv) s

/-- NWR (R288). -/
def execNwr (n b : Nat) (s : State) : Out :=
  runInstr .m [.r b] (do
    setRidge n (← rdS b)
    pure .adv) s

/-- The operand of a reduction: FADD.FP32 takes the low word (R289, R270). -/
def jredOperand (op : Nat) (y : Word) : Word := if op = 6 then wordN (y.toNat % 2 ^ 32) else y

/-- JRED (R289): an item of the thread's value for the slot; no register, no flag. -/
def jredItem (op n b : Nat) (s : State) : Out :=
  runInstr .t [.r b] (do
    let y ← rdS b
    mods fun s => s.setMe { s.me with items := s.me.items ++ [.val n op (jredOperand op y)] }
    pure .adv) s

def execJredAdd (n b : Nat) (s : State) : Out := jredItem 0 n b s
def execJredMin (n b : Nat) (s : State) : Out := jredItem 1 n b s
def execJredMax (n b : Nat) (s : State) : Out := jredItem 2 n b s
def execJredMinu (n b : Nat) (s : State) : Out := jredItem 3 n b s
def execJredMaxu (n b : Nat) (s : State) : Out := jredItem 4 n b s
def execJredFaddFp64 (n b : Nat) (s : State) : Out := jredItem 5 n b s
def execJredFaddFp32 (n b : Nat) (s : State) : Out := jredItem 6 n b s

end Sys2Proof.Machine
end

