-- ==== Sys2Proof/Machine/Dispatch.lean ====
section
/-! DEFINITION. The meaning of every instruction: one direct call for each constructor. -/

namespace Sys2Proof.Machine

def exec (i : Instr) (s : State) : Host.Outcome State Fault Refusal :=
  match i with
  | .add d a b => Sys2Proof.Machine.execAdd d a b s
  | .sub d a b => Sys2Proof.Machine.execSub d a b s
  | .and d a b => Sys2Proof.Machine.execAnd d a b s
  | .or d a b => Sys2Proof.Machine.execOr d a b s
  | .xor d a b => Sys2Proof.Machine.execXor d a b s
  | .andn d a b => Sys2Proof.Machine.execAndn d a b s
  | .min d a b => Sys2Proof.Machine.execMin d a b s
  | .max d a b => Sys2Proof.Machine.execMax d a b s
  | .minu d a b => Sys2Proof.Machine.execMinu d a b s
  | .maxu d a b => Sys2Proof.Machine.execMaxu d a b s
  | .shl d a b => Sys2Proof.Machine.execShl d a b s
  | .shr d a b => Sys2Proof.Machine.execShr d a b s
  | .sra d a b => Sys2Proof.Machine.execSra d a b s
  | .rotr d a b => Sys2Proof.Machine.execRotr d a b s
  | .mul d a b => Sys2Proof.Machine.execMul d a b s
  | .mulh d a b => Sys2Proof.Machine.execMulh d a b s
  | .mulhu d a b => Sys2Proof.Machine.execMulhu d a b s
  | .div d a b => Sys2Proof.Machine.execDiv d a b s
  | .divu d a b => Sys2Proof.Machine.execDivu d a b s
  | .rem d a b => Sys2Proof.Machine.execRem d a b s
  | .remu d a b => Sys2Proof.Machine.execRemu d a b s
  | .clz d a => Sys2Proof.Machine.execClz d a s
  | .ctz d a => Sys2Proof.Machine.execCtz d a s
  | .popc d a => Sys2Proof.Machine.execPopc d a s
  | .sel d a b q => Sys2Proof.Machine.execSel d a b q s
  | .padd d a b => Sys2Proof.Machine.execPadd d a b s
  | .qopAnd d a b => Sys2Proof.Machine.execQopAnd d a b s
  | .qopOr d a b => Sys2Proof.Machine.execQopOr d a b s
  | .qopXor d a b => Sys2Proof.Machine.execQopXor d a b s
  | .qopAndn d a b => Sys2Proof.Machine.execQopAndn d a b s
  | .qopOrn d a b => Sys2Proof.Machine.execQopOrn d a b s
  | .qopXnor d a b => Sys2Proof.Machine.execQopXnor d a b s
  | .qopNot d a => Sys2Proof.Machine.execQopNot d a s
  | .cmpEq q a b => Sys2Proof.Machine.execCmpEq q a b s
  | .cmpNe q a b => Sys2Proof.Machine.execCmpNe q a b s
  | .cmpLt q a b => Sys2Proof.Machine.execCmpLt q a b s
  | .cmpGe q a b => Sys2Proof.Machine.execCmpGe q a b s
  | .cmpLtu q a b => Sys2Proof.Machine.execCmpLtu q a b s
  | .cmpGeu q a b => Sys2Proof.Machine.execCmpGeu q a b s
  | .cmpTst q a b => Sys2Proof.Machine.execCmpTst q a b s
  | .cmpiEq q a imm => Sys2Proof.Machine.execCmpiEq q a imm s
  | .cmpiNe q a imm => Sys2Proof.Machine.execCmpiNe q a imm s
  | .cmpiLt q a imm => Sys2Proof.Machine.execCmpiLt q a imm s
  | .cmpiGe q a imm => Sys2Proof.Machine.execCmpiGe q a imm s
  | .cmpiLtu q a imm => Sys2Proof.Machine.execCmpiLtu q a imm s
  | .cmpiGeu q a imm => Sys2Proof.Machine.execCmpiGeu q a imm s
  | .cmpiTst q a imm => Sys2Proof.Machine.execCmpiTst q a imm s
  | .bfx d a b => Sys2Proof.Machine.execBfx d a b s
  | .bfi d a b => Sys2Proof.Machine.execBfi d a b s
  | .addi d a imm => Sys2Proof.Machine.execAddi d a imm s
  | .andi d a imm => Sys2Proof.Machine.execAndi d a imm s
  | .ori d a imm => Sys2Proof.Machine.execOri d a imm s
  | .xori d a imm => Sys2Proof.Machine.execXori d a imm s
  | .shli d a imm => Sys2Proof.Machine.execShli d a imm s
  | .shri d a imm => Sys2Proof.Machine.execShri d a imm s
  | .srai d a imm => Sys2Proof.Machine.execSrai d a imm s
  | .lih d a imm => Sys2Proof.Machine.execLih d a imm s
  | .ptag d a t => Sys2Proof.Machine.execPtag d a t s
  | .br q n o => Sys2Proof.Machine.execBr q n o s
  | .jal d o => Sys2Proof.Machine.execJal d o s
  | .jalr d a imm => Sys2Proof.Machine.execJalr d a imm s
  | .rep a imm => Sys2Proof.Machine.execRep a imm s
  | .fadd t d a b => Sys2Proof.Machine.execFadd t d a b s
  | .fsub t d a b => Sys2Proof.Machine.execFsub t d a b s
  | .fmul t d a b => Sys2Proof.Machine.execFmul t d a b s
  | .fdiv t d a b => Sys2Proof.Machine.execFdiv t d a b s
  | .fmin t d a b => Sys2Proof.Machine.execFmin t d a b s
  | .fmax t d a b => Sys2Proof.Machine.execFmax t d a b s
  | .fminn t d a b => Sys2Proof.Machine.execFminn t d a b s
  | .fmaxn t d a b => Sys2Proof.Machine.execFmaxn t d a b s
  | .fma t d a b => Sys2Proof.Machine.execFma t d a b s
  | .fnma t d a b => Sys2Proof.Machine.execFnma t d a b s
  | .fsqrt t d a => Sys2Proof.Machine.execFsqrt t d a s
  | .fclass t d a => Sys2Proof.Machine.execFclass t d a s
  | .fcmpEq t q a b => Sys2Proof.Machine.execFcmpEq t q a b s
  | .fcmpNe t q a b => Sys2Proof.Machine.execFcmpNe t q a b s
  | .fcmpLt t q a b => Sys2Proof.Machine.execFcmpLt t q a b s
  | .fcmpLe t q a b => Sys2Proof.Machine.execFcmpLe t q a b s
  | .fcmpGt t q a b => Sys2Proof.Machine.execFcmpGt t q a b s
  | .fcmpGe t q a b => Sys2Proof.Machine.execFcmpGe t q a b s
  | .fcmpUn t q a b => Sys2Proof.Machine.execFcmpUn t q a b s
  | .fcmpOr t q a b => Sys2Proof.Machine.execFcmpOr t q a b s
  | .fcvt d a t f r => Sys2Proof.Machine.execFcvt d a t f r s
  | .sfnExp2 d a t => Sys2Proof.Machine.execSfnExp2 d a t s
  | .sfnLog2 d a t => Sys2Proof.Machine.execSfnLog2 d a t s
  | .sfnRcp d a t => Sys2Proof.Machine.execSfnRcp d a t s
  | .sfnRsq d a t => Sys2Proof.Machine.execSfnRsq d a t s
  | .sfnSin d a t => Sys2Proof.Machine.execSfnSin d a t s
  | .sfnCos d a t => Sys2Proof.Machine.execSfnCos d a t s
  | .sfnTanh d a t => Sys2Proof.Machine.execSfnTanh d a t s
  | .sfnErf d a t => Sys2Proof.Machine.execSfnErf d a t s
  | .vsfnExp2 d a m l => Sys2Proof.Machine.execVsfnExp2 d a m l s
  | .vsfnLog2 d a m l => Sys2Proof.Machine.execVsfnLog2 d a m l s
  | .vsfnRcp d a m l => Sys2Proof.Machine.execVsfnRcp d a m l s
  | .vsfnRsq d a m l => Sys2Proof.Machine.execVsfnRsq d a m l s
  | .vsfnSin d a m l => Sys2Proof.Machine.execVsfnSin d a m l s
  | .vsfnCos d a m l => Sys2Proof.Machine.execVsfnCos d a m l s
  | .vsfnTanh d a m l => Sys2Proof.Machine.execVsfnTanh d a m l s
  | .vsfnErf d a m l => Sys2Proof.Machine.execVsfnErf d a m l s
  | .vadd d a b m l => Sys2Proof.Machine.execVadd d a b m l s
  | .vsub d a b m l => Sys2Proof.Machine.execVsub d a b m l s
  | .vadds d a b m l => Sys2Proof.Machine.execVadds d a b m l s
  | .vsubs d a b m l => Sys2Proof.Machine.execVsubs d a b m l s
  | .vmul d a b m l => Sys2Proof.Machine.execVmul d a b m l s
  | .vmulh d a b m l => Sys2Proof.Machine.execVmulh d a b m l s
  | .vmad d a b m l => Sys2Proof.Machine.execVmad d a b m l s
  | .vmin d a b m l => Sys2Proof.Machine.execVmin d a b m l s
  | .vmax d a b m l => Sys2Proof.Machine.execVmax d a b m l s
  | .vand d a b m l => Sys2Proof.Machine.execVand d a b m l s
  | .vor d a b m l => Sys2Proof.Machine.execVor d a b m l s
  | .vxor d a b m l => Sys2Proof.Machine.execVxor d a b m l s
  | .vshl d a b m l => Sys2Proof.Machine.execVshl d a b m l s
  | .vshr d a b m l => Sys2Proof.Machine.execVshr d a b m l s
  | .vsra d a b m l => Sys2Proof.Machine.execVsra d a b m l s
  | .vcmpEq d a b m l => Sys2Proof.Machine.execVcmpEq d a b m l s
  | .vcmpLt d a b m l => Sys2Proof.Machine.execVcmpLt d a b m l s
  | .vcmpLtu d a b m l => Sys2Proof.Machine.execVcmpLtu d a b m l s
  | .vcmpTst d a b m l => Sys2Proof.Machine.execVcmpTst d a b m l s
  | .vsel d a b m l => Sys2Proof.Machine.execVsel d a b m l s
  | .vshuf d a b m l => Sys2Proof.Machine.execVshuf d a b m l s
  | .vsplat d a m l => Sys2Proof.Machine.execVsplat d a m l s
  | .vext d a k m l => Sys2Proof.Machine.execVext d a k m l s
  | .vins d a k m l => Sys2Proof.Machine.execVins d a k m l s
  | .vnz d a m l => Sys2Proof.Machine.execVnz d a m l s
  | .vredAdd d a m l => Sys2Proof.Machine.execVredAdd d a m l s
  | .vredMin d a m l => Sys2Proof.Machine.execVredMin d a m l s
  | .vredMax d a m l => Sys2Proof.Machine.execVredMax d a m l s
  | .vredMinn d a m l => Sys2Proof.Machine.execVredMinn d a m l s
  | .vredMaxn d a m l => Sys2Proof.Machine.execVredMaxn d a m l s
  | .vredMinu d a m l => Sys2Proof.Machine.execVredMinu d a m l s
  | .vredMaxu d a m l => Sys2Proof.Machine.execVredMaxu d a m l s
  | .vdot d a b m l => Sys2Proof.Machine.execVdot d a b m l s
  | .vcvt d a f r m t => Sys2Proof.Machine.execVcvt d a f r m t s
  | .vfadd d a b m l => Sys2Proof.Machine.execVfadd d a b m l s
  | .vfsub d a b m l => Sys2Proof.Machine.execVfsub d a b m l s
  | .vfmul d a b m l => Sys2Proof.Machine.execVfmul d a b m l s
  | .vfma d a b m l => Sys2Proof.Machine.execVfma d a b m l s
  | .vfmin d a b m l => Sys2Proof.Machine.execVfmin d a b m l s
  | .vfmax d a b m l => Sys2Proof.Machine.execVfmax d a b m l s
  | .vfminn d a b m l => Sys2Proof.Machine.execVfminn d a b m l s
  | .vfmaxn d a b m l => Sys2Proof.Machine.execVfmaxn d a b m l s
  | .vfcmpEq d a b m l => Sys2Proof.Machine.execVfcmpEq d a b m l s
  | .vfcmpLt d a b m l => Sys2Proof.Machine.execVfcmpLt d a b m l s
  | .vfcmpLe d a b m l => Sys2Proof.Machine.execVfcmpLe d a b m l s
  | .vfcmpUn d a b m l => Sys2Proof.Machine.execVfcmpUn d a b m l s
  | .ldB d a imm => Sys2Proof.Machine.execLdB d a imm s
  | .ldBu d a imm => Sys2Proof.Machine.execLdBu d a imm s
  | .ldH d a imm => Sys2Proof.Machine.execLdH d a imm s
  | .ldHu d a imm => Sys2Proof.Machine.execLdHu d a imm s
  | .ldW d a imm => Sys2Proof.Machine.execLdW d a imm s
  | .ldWu d a imm => Sys2Proof.Machine.execLdWu d a imm s
  | .ldD d a imm => Sys2Proof.Machine.execLdD d a imm s
  | .stB d a imm => Sys2Proof.Machine.execStB d a imm s
  | .stH d a imm => Sys2Proof.Machine.execStH d a imm s
  | .stW d a imm => Sys2Proof.Machine.execStW d a imm s
  | .stD d a imm => Sys2Proof.Machine.execStD d a imm s
  | .ldv d a imm => Sys2Proof.Machine.execLdv d a imm s
  | .stv d a imm => Sys2Proof.Machine.execStv d a imm s
  | .lda d a imm => Sys2Proof.Machine.execLda d a imm s
  | .stl d a imm => Sys2Proof.Machine.execStl d a imm s
  | .ldc d a imm => Sys2Proof.Machine.execLdc d a imm s
  | .ldt d a b t => Sys2Proof.Machine.execLdt d a b t s
  | .stt d a b r => Sys2Proof.Machine.execStt d a b r s
  | .lds d a imm => Sys2Proof.Machine.execLds d a imm s
  | .sts d a imm => Sys2Proof.Machine.execSts d a imm s
  | .pref a imm => Sys2Proof.Machine.execPref a imm s
  | .ldf d a imm => Sys2Proof.Machine.execLdf d a imm s
  | .ldfe d a imm => Sys2Proof.Machine.execLdfe d a imm s
  | .stf d a imm => Sys2Proof.Machine.execStf d a imm s
  | .sto d a imm => Sys2Proof.Machine.execSto d a imm s
  | .fest d a imm => Sys2Proof.Machine.execFest d a imm s
  | .amoSwapW d a b => Sys2Proof.Machine.execAmoSwapW d a b s
  | .amoAddW d a b => Sys2Proof.Machine.execAmoAddW d a b s
  | .amoAndW d a b => Sys2Proof.Machine.execAmoAndW d a b s
  | .amoOrW d a b => Sys2Proof.Machine.execAmoOrW d a b s
  | .amoXorW d a b => Sys2Proof.Machine.execAmoXorW d a b s
  | .amoMinW d a b => Sys2Proof.Machine.execAmoMinW d a b s
  | .amoMaxW d a b => Sys2Proof.Machine.execAmoMaxW d a b s
  | .amoSwapD d a b => Sys2Proof.Machine.execAmoSwapD d a b s
  | .amoAddD d a b => Sys2Proof.Machine.execAmoAddD d a b s
  | .amoAndD d a b => Sys2Proof.Machine.execAmoAndD d a b s
  | .amoOrD d a b => Sys2Proof.Machine.execAmoOrD d a b s
  | .amoXorD d a b => Sys2Proof.Machine.execAmoXorD d a b s
  | .amoMinD d a b => Sys2Proof.Machine.execAmoMinD d a b s
  | .amoMaxD d a b => Sys2Proof.Machine.execAmoMaxD d a b s
  | .amoMinuW d a b => Sys2Proof.Machine.execAmoMinuW d a b s
  | .amoMaxuW d a b => Sys2Proof.Machine.execAmoMaxuW d a b s
  | .amoMinuD d a b => Sys2Proof.Machine.execAmoMinuD d a b s
  | .amoMaxuD d a b => Sys2Proof.Machine.execAmoMaxuD d a b s
  | .amocasW d a b => Sys2Proof.Machine.execAmocasW d a b s
  | .amocasD d a b => Sys2Proof.Machine.execAmocasD d a b s
  | .redAdd a b w => Sys2Proof.Machine.execRedAdd a b w s
  | .redAnd a b w => Sys2Proof.Machine.execRedAnd a b w s
  | .redOr a b w => Sys2Proof.Machine.execRedOr a b w s
  | .redXor a b w => Sys2Proof.Machine.execRedXor a b w s
  | .redMin a b w => Sys2Proof.Machine.execRedMin a b w s
  | .redMax a b w => Sys2Proof.Machine.execRedMax a b w s
  | .redMinu a b w => Sys2Proof.Machine.execRedMinu a b w s
  | .redMaxu a b w => Sys2Proof.Machine.execRedMaxu a b w s
  | .redFadd a b w => Sys2Proof.Machine.execRedFadd a b w s
  | .redFmin a b w => Sys2Proof.Machine.execRedFmin a b w s
  | .redFmax a b w => Sys2Proof.Machine.execRedFmax a b w s
  | .fenceT => Sys2Proof.Machine.execFenceT s
  | .fenceS => Sys2Proof.Machine.execFenceS s
  | .fenceD => Sys2Proof.Machine.execFenceD s
  | .fenceP => Sys2Proof.Machine.execFenceP s
  | .fenceX => Sys2Proof.Machine.execFenceX s
  | .redwait => Sys2Proof.Machine.execRedwait s
  | .kshape d s1 => Sys2Proof.Machine.execKshape d s1 s
  | .kld d s1 => Sys2Proof.Machine.execKld d s1 s
  | .kldt d s1 => Sys2Proof.Machine.execKldt d s1 s
  | .kst a s1 => Sys2Proof.Machine.execKst a s1 s
  | .kzero d => Sys2Proof.Machine.execKzero d s
  | .kmov d a => Sys2Proof.Machine.execKmov d a s
  | .ktr d a => Sys2Proof.Machine.execKtr d a s
  | .gang => Sys2Proof.Machine.execGang s
  | .kmma c a b n z t s1 => Sys2Proof.Machine.execKmma c a b n z t s1 s
  | .kmmr c a b n z t s1 => Sys2Proof.Machine.execKmmr c a b n z t s1 s
  | .azero c => Sys2Proof.Machine.execAzero c s
  | .ald c t s1 => Sys2Proof.Machine.execAld c t s1 s
  | .ast c t s1 => Sys2Proof.Machine.execAst c t s1 s
  | .acvt d c t r s1 => Sys2Proof.Machine.execAcvt d c t r s1 s
  | .nzscan d a b => Sys2Proof.Machine.execNzscan d a b s
  | .gath d a b => Sys2Proof.Machine.execGath d a b s
  | .mgopen d a => Sys2Proof.Machine.execMgopen d a s
  | .mgarea d a b => Sys2Proof.Machine.execMgarea d a b s
  | .mgput d a b => Sys2Proof.Machine.execMgput d a b s
  | .mgendEnd d a b => Sys2Proof.Machine.execMgendEnd d a b s
  | .mgendAbandon d a b => Sys2Proof.Machine.execMgendAbandon d a b s
  | .mgfin d a b => Sys2Proof.Machine.execMgfin d a b s
  | .mgstat d a b => Sys2Proof.Machine.execMgstat d a b s
  | .gtopk d a b => Sys2Proof.Machine.execGtopk d a b s
  | .ghist d a b => Sys2Proof.Machine.execGhist d a b s
  | .gperm d a b => Sys2Proof.Machine.execGperm d a b s
  | .ctreeBind d a b => Sys2Proof.Machine.execCtreeBind d a b s
  | .ctreeUnbind d a b => Sys2Proof.Machine.execCtreeUnbind d a b s
  | .cdesc d a b => Sys2Proof.Machine.execCdesc d a b s
  | .cexp d a b => Sys2Proof.Machine.execCexp d a b s
  | .cbackBackup d a b => Sys2Proof.Machine.execCbackBackup d a b s
  | .cbackCancel d a b => Sys2Proof.Machine.execCbackCancel d a b s
  | .cread d a b => Sys2Proof.Machine.execCread d a b s
  | .creuse d a => Sys2Proof.Machine.execCreuse d a s
  | .spawn d o => Sys2Proof.Machine.execSpawn d o s
  | .spawnr d o => Sys2Proof.Machine.execSpawnr d o s
  | .join d => Sys2Proof.Machine.execJoin d s
  | .tend => Sys2Proof.Machine.execTend s
  | .sspawn d a p => Sys2Proof.Machine.execSspawn d a p s
  | .ps d n b => Sys2Proof.Machine.execPs d n b s
  | .psm d n b => Sys2Proof.Machine.execPsm d n b s
  | .nrd d n => Sys2Proof.Machine.execNrd d n s
  | .nwr n b => Sys2Proof.Machine.execNwr n b s
  | .jredAdd n b => Sys2Proof.Machine.execJredAdd n b s
  | .jredMin n b => Sys2Proof.Machine.execJredMin n b s
  | .jredMax n b => Sys2Proof.Machine.execJredMax n b s
  | .jredMinu n b => Sys2Proof.Machine.execJredMinu n b s
  | .jredMaxu n b => Sys2Proof.Machine.execJredMaxu n b s
  | .jredFaddFp64 n b => Sys2Proof.Machine.execJredFaddFp64 n b s
  | .jredFaddFp32 n b => Sys2Proof.Machine.execJredFaddFp32 n b s
  | .bar imm => Sys2Proof.Machine.execBar imm s
  | .barinit a imm => Sys2Proof.Machine.execBarinit a imm s
  | .yield => Sys2Proof.Machine.execYield s
  | .waitGeu d a b => Sys2Proof.Machine.execWaitGeu d a b s
  | .waitEq d a b => Sys2Proof.Machine.execWaitEq d a b s
  | .waitNe d a b => Sys2Proof.Machine.execWaitNe d a b s
  | .poolset d a b => Sys2Proof.Machine.execPoolset d a b s
  | .poolsetT d a b => Sys2Proof.Machine.execPoolsetT d a b s
  | .poolack d a => Sys2Proof.Machine.execPoolack d a s
  | .poolq d a => Sys2Proof.Machine.execPoolq d a s
  | .cpy d a b => Sys2Proof.Machine.execCpy d a b s
  | .cpy2d d a b => Sys2Proof.Machine.execCpy2d d a b s
  | .cpwait d => Sys2Proof.Machine.execCpwait d s
  | .rld d a b => Sys2Proof.Machine.execRld d a b s
  | .rst d a b => Sys2Proof.Machine.execRst d a b s
  | .trap imm => Sys2Proof.Machine.execTrap imm s
  | .tret => Sys2Proof.Machine.execTret s
  | .csrr d c => Sys2Proof.Machine.execCsrr d c s
  | .csrw a c => Sys2Proof.Machine.execCsrw a c s
  | .csrs a c => Sys2Proof.Machine.execCsrs a c s
  | .csrc a c => Sys2Proof.Machine.execCsrc a c s
  | .ctxsv a n => Sys2Proof.Machine.execCtxsv a n s
  | .ctxrs a n => Sys2Proof.Machine.execCtxrs a n s
  | .fencei => Sys2Proof.Machine.execFencei s
  | .bkpt => Sys2Proof.Machine.execBkpt s
  | .halt => Sys2Proof.Machine.execHalt s
  | .tlbinv a b => Sys2Proof.Machine.execTlbinv a b s
  | .probe d a => Sys2Proof.Machine.execProbe d a s
  | .frame l imm d a b => Sys2Proof.Machine.execFrame l imm d a b s
  | .ximm h => Sys2Proof.Machine.execXimm h s
  | .numberGrant who => Sys2Proof.Machine.execNumberGrant who s
  | .screeDraw who => Sys2Proof.Machine.execScreeDraw who s
  | .rerunTake who => Sys2Proof.Machine.execRerunTake who s
  | .parkedThreadReturn who => Sys2Proof.Machine.execParkedThreadReturn who s
  | .residentPlacement die core => Sys2Proof.Machine.execResidentPlacement die core s
  | .inlineChildStart who => Sys2Proof.Machine.execInlineChildStart who s
  | .threadEnd who => Sys2Proof.Machine.execThreadEnd who s
  | .joinComplete die core => Sys2Proof.Machine.execJoinComplete die core s
  | .ridgeReply who => Sys2Proof.Machine.execRidgeReply who s
  | .sfuResult die spur => Sys2Proof.Machine.execSfuResult die spur s
  | .loadReply who => Sys2Proof.Machine.execLoadReply who s
  | .storePerform who k => Sys2Proof.Machine.execStorePerform who k s
  | .redApply who k => Sys2Proof.Machine.execRedApply who k s
  | .claimGrant word => Sys2Proof.Machine.execClaimGrant word s
  | .claimRelease word => Sys2Proof.Machine.execClaimRelease word s
  | .remoteAccessPerform die spur k => Sys2Proof.Machine.execRemoteAccessPerform die spur k s
  | .matrixOpStart die spur gang => Sys2Proof.Machine.execMatrixOpStart die spur gang s
  | .matrixOpComplete die spur gang => Sys2Proof.Machine.execMatrixOpComplete die spur gang s
  | .nzscanComplete who => Sys2Proof.Machine.execNzscanComplete who s
  | .copyCommandComplete die spur k => Sys2Proof.Machine.execCopyCommandComplete die spur k s
  | .gatherCommandComplete die spur k => Sys2Proof.Machine.execGatherCommandComplete die spur k s
  | .engineFaultStop die spur unit k => Sys2Proof.Machine.execEngineFaultStop die spur unit k s
  | .aretePutReply who => Sys2Proof.Machine.execAretePutReply who s
  | .areteMergeComplete who => Sys2Proof.Machine.execAreteMergeComplete who s
  | .cairnOperationComplete who => Sys2Proof.Machine.execCairnOperationComplete who s
  | .gateOperationComplete die => Sys2Proof.Machine.execGateOperationComplete die s
  | .waitRecheck who => Sys2Proof.Machine.execWaitRecheck who s
  | .waitWlimExpiry who => Sys2Proof.Machine.execWaitWlimExpiry who s
  | .feWaitExpiry who => Sys2Proof.Machine.execFeWaitExpiry who s
  | .barWlimExpiry who => Sys2Proof.Machine.execBarWlimExpiry who s
  | .remoteWaitExpiry who => Sys2Proof.Machine.execRemoteWaitExpiry who s
  | .gangParkExpiry who => Sys2Proof.Machine.execGangParkExpiry who s
  | .gangRecordStallExpiry who => Sys2Proof.Machine.execGangRecordStallExpiry who s
  | .governorSample die watts temps => Sys2Proof.Machine.execGovernorSample die watts temps s
  | .pageFaultService die k choice frame => Sys2Proof.Machine.execPageFaultService die k choice frame s
  | .pageMoveAccept die asid page dest frame => Sys2Proof.Machine.execPageMoveAccept die asid page dest frame s
  | .migrationInvalAck k => Sys2Proof.Machine.execMigrationInvalAck k s
  | .migrationDrainDone k => Sys2Proof.Machine.execMigrationDrainDone k s
  | .migrationCommit k => Sys2Proof.Machine.execMigrationCommit k s
  | .migrationAbort k => Sys2Proof.Machine.execMigrationAbort k s
  | .contextSaveComplete die core => Sys2Proof.Machine.execContextSaveComplete die core s
  | .correctedError die unit index => Sys2Proof.Machine.execCorrectedError die unit index s
  | .uncorrectableError die unit index addr => Sys2Proof.Machine.execUncorrectableError die unit index addr s
  | .dieResetComplete die pass => Sys2Proof.Machine.execDieResetComplete die pass s
  | .deviceReset fails => Sys2Proof.Machine.execDeviceReset fails s
  | .qdoorWrite die q value => Sys2Proof.Machine.execQdoorWrite die q value s
  | .frheadWrite die value => Sys2Proof.Machine.execFrheadWrite die value s
  | .bar0RegisterWrite offset size value => Sys2Proof.Machine.execBar0RegisterWrite offset size value s
  | .faultRingWrite die => Sys2Proof.Machine.execFaultRingWrite die s
  | .launch die q => Sys2Proof.Machine.execLaunch die q s
  | .copy die q => Sys2Proof.Machine.execCopy die q s
  | .copyPacketDone die q k => Sys2Proof.Machine.execCopyPacketDone die q k s
  | .signalSet die q => Sys2Proof.Machine.execSignalSet die q s
  | .signalWait die q => Sys2Proof.Machine.execSignalWait die q s
  | .signalWaitSatisfied die q k => Sys2Proof.Machine.execSignalWaitSatisfied die q k s
  | .fence die q => Sys2Proof.Machine.execFence die q s
  | .complete die q => Sys2Proof.Machine.execComplete die q s
  | .packetFetchFault die q => Sys2Proof.Machine.execPacketFetchFault die q s
  | .qenable => Sys2Proof.Machine.execQenable s
  | .qdisable => Sys2Proof.Machine.execQdisable s
  | .qreset => Sys2Proof.Machine.execQreset s
  | .qack => Sys2Proof.Machine.execQack s
  | .fring => Sys2Proof.Machine.execFring s
  | .fanswer => Sys2Proof.Machine.execFanswer s
  | .extent => Sys2Proof.Machine.execExtent s
  | .kill => Sys2Proof.Machine.execKill s
  | .ctxsave => Sys2Proof.Machine.execCtxsave s
  | .ctxrestore => Sys2Proof.Machine.execCtxrestore s
  | .setbudget => Sys2Proof.Machine.execSetbudget s
  | .setnode => Sys2Proof.Machine.execSetnode s
  | .rootset => Sys2Proof.Machine.execRootset s
  | .inval => Sys2Proof.Machine.execInval s
  | .errcfg => Sys2Proof.Machine.execErrcfg s
  | .occup => Sys2Proof.Machine.execOccup s
  | .update => Sys2Proof.Machine.execUpdate s
  | .attest => Sys2Proof.Machine.execAttest s
  | .cert => Sys2Proof.Machine.execCert s
  | .extend => Sys2Proof.Machine.execExtend s
  | .sleep => Sys2Proof.Machine.execSleep s
  | .wake => Sys2Proof.Machine.execWake s
  | .linkup => Sys2Proof.Machine.execLinkup s
  | .unknownCommand => Sys2Proof.Machine.execUnknownCommand s
  | .heartbeat => Sys2Proof.Machine.execHeartbeat s
  | .failover => Sys2Proof.Machine.execFailover s
  | .journalApply => Sys2Proof.Machine.execJournalApply s
  | .updateVerified ok => Sys2Proof.Machine.execUpdateVerified ok s
  | .stateTableImport version minver => Sys2Proof.Machine.execStateTableImport version minver s
  | .journalSynced => Sys2Proof.Machine.execJournalSynced s
  | .quiescenceTakeover => Sys2Proof.Machine.execQuiescenceTakeover s
  | .quiesceTimeout => Sys2Proof.Machine.execQuiesceTimeout s
  | .dataFlit link send flit => Sys2Proof.Machine.execDataFlit link send flit s
  | .nakFlit link flit => Sys2Proof.Machine.execNakFlit link flit s
  | .idleFlit link flit => Sys2Proof.Machine.execIdleFlit link flit s
  | .replayTimeout link => Sys2Proof.Machine.execReplayTimeout link s
  | .replayLimit link => Sys2Proof.Machine.execReplayLimit link s
  | .linkTrainingDone link width => Sys2Proof.Machine.execLinkTrainingDone link width s
  | .linkRequest src seq kind fn w addr y expect => Sys2Proof.Machine.execLinkRequest src seq kind fn w addr y expect s
  | .hostWrite addr data => Sys2Proof.Machine.execHostWrite addr data s
  | .hostRead bar addr len => Sys2Proof.Machine.execHostRead bar addr len s
  | .powerOn fails => Sys2Proof.Machine.execPowerOn fails s
  | .idleTimeout => Sys2Proof.Machine.execIdleTimeout s
  | .d3hotEntry => Sys2Proof.Machine.execD3hotEntry s
  | .d0Return => Sys2Proof.Machine.execD0Return s
  | .powerOff => Sys2Proof.Machine.execPowerOff s
  | .cairnAtomicStep who => Sys2Proof.Machine.execCairnAtomicStep who s
  | .areteCommandReply who => Sys2Proof.Machine.execAreteCommandReply who s
  | .sfuRequestAccept die spur => Sys2Proof.Machine.execSfuRequestAccept die spur s
  | .firmwareComplexFailure standby => Sys2Proof.Machine.execFirmwareComplexFailure standby s
  | .saddleFirmwareRecovery link => Sys2Proof.Machine.execSaddleFirmwareRecovery link s

end Sys2Proof.Machine
end

