-- ==== Sys2Proof/Machine/High.lean ====
section
/-! DEFINITION. The meanings of the words whose major is 0xD0 or above, read straight from the word: what the decoder and the
dispatch give for them (Step.lean proves so), in a form Lean's compiler can run. -/

namespace Sys2Proof.Machine

/-- A word that is no instruction traps ILLOP (R53). -/
def illopWord (w : Nat) (s : State) : Out := .next (takeTrap s ⟨cILLOP, wordN w⟩)

/-- Major 0xD0. -/
def runD0 (w : Nat) (s : State) : Out :=
  if inU 7 (bits w 23 17) && inS 17 (sext 17 (bits w 16 0)) then Sys2Proof.Machine.execSpawn (bits w 23 17) (sext 17 (bits w 16 0)) s else illopWord w s

/-- Major 0xD1. -/
def runD1 (w : Nat) (s : State) : Out :=
  if inU 7 (bits w 23 17) && inS 17 (sext 17 (bits w 16 0)) then Sys2Proof.Machine.execSpawnr (bits w 23 17) (sext 17 (bits w 16 0)) s else illopWord w s

/-- Major 0xD2. -/
def runD2 (w : Nat) (s : State) : Out :=
  if bits w 16 0 = 0 then (if inU 7 (bits w 23 17) then Sys2Proof.Machine.execJoin (bits w 23 17) s else illopWord w s)
  else illopWord w s

/-- Major 0xD3. -/
def runD3 (w : Nat) (s : State) : Out :=
  if bits w 31 0 = 3539992576 then (Sys2Proof.Machine.execTend s)
  else illopWord w s

/-- Major 0xD4. -/
def runD4 (w : Nat) (s : State) : Out :=
  if bits w 9 2 = 0 then (if inU 7 (bits w 23 17) && inU 7 (bits w 16 10) && inU 2 (bits w 1 0) then Sys2Proof.Machine.execSspawn (bits w 23 17) (bits w 16 10) (bits w 1 0) s else illopWord w s)
  else illopWord w s

/-- Major 0xD5. -/
def runD5 (w : Nat) (s : State) : Out :=
  if bits w 2 0 = 0 then (if inU 7 (bits w 23 17) && inU 7 (bits w 16 10) && inU 7 (bits w 9 3) && ridgeField (bits w 16 10) then Sys2Proof.Machine.execPs (bits w 23 17) (bits w 16 10) (bits w 9 3) s else illopWord w s)
  else illopWord w s

/-- Major 0xD6. -/
def runD6 (w : Nat) (s : State) : Out :=
  if bits w 2 0 = 0 then (if inU 7 (bits w 23 17) && inU 7 (bits w 16 10) && inU 7 (bits w 9 3) && ridgeField (bits w 16 10) then Sys2Proof.Machine.execPsm (bits w 23 17) (bits w 16 10) (bits w 9 3) s else illopWord w s)
  else illopWord w s

/-- Major 0xD7. -/
def runD7 (w : Nat) (s : State) : Out :=
  if bits w 9 0 = 0 then (if inU 7 (bits w 23 17) && inU 7 (bits w 16 10) && ridgeField (bits w 16 10) then Sys2Proof.Machine.execNrd (bits w 23 17) (bits w 16 10) s else illopWord w s)
  else illopWord w s

/-- Major 0xD8. -/
def runD8 (w : Nat) (s : State) : Out :=
  if bits w 2 0 = 0 ∧ bits w 31 17 = 27648 then (if inU 7 (bits w 16 10) && inU 7 (bits w 9 3) && ridgeField (bits w 16 10) then Sys2Proof.Machine.execNwr (bits w 16 10) (bits w 9 3) s else illopWord w s)
  else illopWord w s

/-- Major 0xD9. -/
def runD9 (w : Nat) (s : State) : Out :=
  if bits w 2 0 = 0 ∧ bits w 31 17 = 27776 then (if inU 7 (bits w 16 10) && inU 7 (bits w 9 3) && decide ((bits w 16 10) < 8) then Sys2Proof.Machine.execJredAdd (bits w 16 10) (bits w 9 3) s else illopWord w s)
  else if bits w 2 0 = 1 ∧ bits w 31 17 = 27776 then (if inU 7 (bits w 16 10) && inU 7 (bits w 9 3) && decide ((bits w 16 10) < 8) then Sys2Proof.Machine.execJredMin (bits w 16 10) (bits w 9 3) s else illopWord w s)
  else if bits w 2 0 = 2 ∧ bits w 31 17 = 27776 then (if inU 7 (bits w 16 10) && inU 7 (bits w 9 3) && decide ((bits w 16 10) < 8) then Sys2Proof.Machine.execJredMax (bits w 16 10) (bits w 9 3) s else illopWord w s)
  else if bits w 2 0 = 3 ∧ bits w 31 17 = 27776 then (if inU 7 (bits w 16 10) && inU 7 (bits w 9 3) && decide ((bits w 16 10) < 8) then Sys2Proof.Machine.execJredMinu (bits w 16 10) (bits w 9 3) s else illopWord w s)
  else if bits w 2 0 = 4 ∧ bits w 31 17 = 27776 then (if inU 7 (bits w 16 10) && inU 7 (bits w 9 3) && decide ((bits w 16 10) < 8) then Sys2Proof.Machine.execJredMaxu (bits w 16 10) (bits w 9 3) s else illopWord w s)
  else if bits w 2 0 = 5 ∧ bits w 31 17 = 27776 then (if inU 7 (bits w 16 10) && inU 7 (bits w 9 3) && decide ((bits w 16 10) < 8) then Sys2Proof.Machine.execJredFaddFp64 (bits w 16 10) (bits w 9 3) s else illopWord w s)
  else if bits w 2 0 = 6 ∧ bits w 31 17 = 27776 then (if inU 7 (bits w 16 10) && inU 7 (bits w 9 3) && decide ((bits w 16 10) < 8) then Sys2Proof.Machine.execJredFaddFp32 (bits w 16 10) (bits w 9 3) s else illopWord w s)
  else illopWord w s

/-- Major 0xDA. -/
def runDA (w : Nat) (s : State) : Out :=
  if bits w 31 10 = 3571712 then (if inS 10 (sext 10 (bits w 9 0)) && decide (0 ≤ (sext 10 (bits w 9 0))) then Sys2Proof.Machine.execBar (sext 10 (bits w 9 0)) s else illopWord w s)
  else illopWord w s

/-- Major 0xDB. -/
def runDB (w : Nat) (s : State) : Out :=
  if bits w 31 17 = 28032 then (if inU 7 (bits w 16 10) && inS 10 (sext 10 (bits w 9 0)) && decide (0 ≤ (sext 10 (bits w 9 0))) then Sys2Proof.Machine.execBarinit (bits w 16 10) (sext 10 (bits w 9 0)) s else illopWord w s)
  else illopWord w s

/-- Major 0xDC. -/
def runDC (w : Nat) (s : State) : Out :=
  if bits w 31 0 = 3690987520 then (Sys2Proof.Machine.execYield s)
  else illopWord w s

/-- Major 0xDD. -/
def runDD (w : Nat) (s : State) : Out :=
  if bits w 2 0 = 0 then (if inU 7 (bits w 23 17) && inU 7 (bits w 16 10) && inU 7 (bits w 9 3) then Sys2Proof.Machine.execWaitGeu (bits w 23 17) (bits w 16 10) (bits w 9 3) s else illopWord w s)
  else if bits w 2 0 = 1 then (if inU 7 (bits w 23 17) && inU 7 (bits w 16 10) && inU 7 (bits w 9 3) then Sys2Proof.Machine.execWaitEq (bits w 23 17) (bits w 16 10) (bits w 9 3) s else illopWord w s)
  else if bits w 2 0 = 2 then (if inU 7 (bits w 23 17) && inU 7 (bits w 16 10) && inU 7 (bits w 9 3) then Sys2Proof.Machine.execWaitNe (bits w 23 17) (bits w 16 10) (bits w 9 3) s else illopWord w s)
  else illopWord w s

/-- Major 0xE0. -/
def runE0 (w : Nat) (s : State) : Out :=
  if bits w 2 0 = 0 then (if inU 7 (bits w 23 17) && inU 7 (bits w 16 10) && inU 7 (bits w 9 3) then Sys2Proof.Machine.execPoolset (bits w 23 17) (bits w 16 10) (bits w 9 3) s else illopWord w s)
  else if bits w 2 0 = 1 then (if inU 7 (bits w 23 17) && inU 7 (bits w 16 10) && inU 7 (bits w 9 3) then Sys2Proof.Machine.execPoolsetT (bits w 23 17) (bits w 16 10) (bits w 9 3) s else illopWord w s)
  else if bits w 9 0 = 2 then (if inU 7 (bits w 23 17) && inU 7 (bits w 16 10) then Sys2Proof.Machine.execPoolack (bits w 23 17) (bits w 16 10) s else illopWord w s)
  else if bits w 9 0 = 3 then (if inU 7 (bits w 23 17) && inU 7 (bits w 16 10) then Sys2Proof.Machine.execPoolq (bits w 23 17) (bits w 16 10) s else illopWord w s)
  else illopWord w s

/-- Major 0xE8. -/
def runE8 (w : Nat) (s : State) : Out :=
  if bits w 2 0 = 0 then (if inU 7 (bits w 23 17) && inU 7 (bits w 16 10) && inU 7 (bits w 9 3) then Sys2Proof.Machine.execCpy (bits w 23 17) (bits w 16 10) (bits w 9 3) s else illopWord w s)
  else if bits w 2 0 = 1 then (if inU 7 (bits w 23 17) && inU 7 (bits w 16 10) && inU 7 (bits w 9 3) then Sys2Proof.Machine.execCpy2d (bits w 23 17) (bits w 16 10) (bits w 9 3) s else illopWord w s)
  else if bits w 16 0 = 2 then (if inU 7 (bits w 23 17) then Sys2Proof.Machine.execCpwait (bits w 23 17) s else illopWord w s)
  else illopWord w s

/-- Major 0xE9. -/
def runE9 (w : Nat) (s : State) : Out :=
  if bits w 2 0 = 0 then (if inU 7 (bits w 23 17) && inU 7 (bits w 16 10) && inU 7 (bits w 9 3) then Sys2Proof.Machine.execRld (bits w 23 17) (bits w 16 10) (bits w 9 3) s else illopWord w s)
  else if bits w 2 0 = 1 then (if inU 7 (bits w 23 17) && inU 7 (bits w 16 10) && inU 7 (bits w 9 3) then Sys2Proof.Machine.execRst (bits w 23 17) (bits w 16 10) (bits w 9 3) s else illopWord w s)
  else illopWord w s

/-- Major 0xF0. -/
def runF0 (w : Nat) (s : State) : Out :=
  if bits w 31 10 = 3932160 then (if inU 10 (bits w 9 0) then Sys2Proof.Machine.execTrap (bits w 9 0) s else illopWord w s)
  else illopWord w s

/-- Major 0xF1. -/
def runF1 (w : Nat) (s : State) : Out :=
  if bits w 31 0 = 4043309056 then (Sys2Proof.Machine.execTret s)
  else illopWord w s

/-- Major 0xF2. -/
def runF2 (w : Nat) (s : State) : Out :=
  if bits w 16 10 = 0 then (if inU 7 (bits w 23 17) && inU 10 (bits w 9 0) then Sys2Proof.Machine.execCsrr (bits w 23 17) (bits w 9 0) s else illopWord w s)
  else illopWord w s

/-- Major 0xF3. -/
def runF3 (w : Nat) (s : State) : Out :=
  if bits w 31 17 = 31104 then (if inU 7 (bits w 16 10) && inU 10 (bits w 9 0) then Sys2Proof.Machine.execCsrw (bits w 16 10) (bits w 9 0) s else illopWord w s)
  else illopWord w s

/-- Major 0xF4. -/
def runF4 (w : Nat) (s : State) : Out :=
  if bits w 31 17 = 31232 then (if inU 7 (bits w 16 10) && inU 10 (bits w 9 0) then Sys2Proof.Machine.execCsrs (bits w 16 10) (bits w 9 0) s else illopWord w s)
  else illopWord w s

/-- Major 0xF5. -/
def runF5 (w : Nat) (s : State) : Out :=
  if bits w 31 17 = 31360 then (if inU 7 (bits w 16 10) && inU 10 (bits w 9 0) then Sys2Proof.Machine.execCsrc (bits w 16 10) (bits w 9 0) s else illopWord w s)
  else illopWord w s

/-- Major 0xF6. -/
def runF6 (w : Nat) (s : State) : Out :=
  if bits w 31 17 = 31488 then (if inU 7 (bits w 16 10) && inU 10 (bits w 9 0) && decide ((bits w 9 0) < 8) then Sys2Proof.Machine.execCtxsv (bits w 16 10) (bits w 9 0) s else illopWord w s)
  else illopWord w s

/-- Major 0xF7. -/
def runF7 (w : Nat) (s : State) : Out :=
  if bits w 31 17 = 31616 then (if inU 7 (bits w 16 10) && inU 10 (bits w 9 0) && decide ((bits w 9 0) < 8) then Sys2Proof.Machine.execCtxrs (bits w 16 10) (bits w 9 0) s else illopWord w s)
  else illopWord w s

/-- Major 0xF8. -/
def runF8 (w : Nat) (s : State) : Out :=
  if bits w 31 0 = 4160749568 then (Sys2Proof.Machine.execFencei s)
  else illopWord w s

/-- Major 0xF9. -/
def runF9 (w : Nat) (s : State) : Out :=
  if bits w 31 0 = 4177526784 then (Sys2Proof.Machine.execBkpt s)
  else illopWord w s

/-- Major 0xFA. -/
def runFA (w : Nat) (s : State) : Out :=
  if bits w 31 0 = 4194304000 then (Sys2Proof.Machine.execHalt s)
  else illopWord w s

/-- Major 0xFB. -/
def runFB (w : Nat) (s : State) : Out :=
  if bits w 2 0 = 0 ∧ bits w 31 17 = 32128 then (if inU 7 (bits w 16 10) && inU 7 (bits w 9 3) then Sys2Proof.Machine.execTlbinv (bits w 16 10) (bits w 9 3) s else illopWord w s)
  else if bits w 9 0 = 1 then (if inU 7 (bits w 23 17) && inU 7 (bits w 16 10) then Sys2Proof.Machine.execProbe (bits w 23 17) (bits w 16 10) s else illopWord w s)
  else illopWord w s

/-- Major 0xFC. -/
def runFC (w : Nat) (s : State) : Out :=
  if inU 4 (bits w 23 20) && inU 8 (bits w 19 12) && inU 4 (bits w 11 8) && inU 4 (bits w 7 4) && inU 4 (bits w 3 0) then Sys2Proof.Machine.execFrame (bits w 23 20) (bits w 19 12) (bits w 11 8) (bits w 7 4) (bits w 3 0) s else illopWord w s

/-- Major 0xFE. -/
def runFE (w : Nat) (s : State) : Out :=
  if inU 24 (bits w 23 0) then Sys2Proof.Machine.execXimm (bits w 23 0) s else illopWord w s

/-- Majors 0xD0 to 0xDF. -/
def runMajorD (w : Nat) (s : State) : Out :=
  match bits w 27 24 with
  | 0x0 => runD0 w s
  | 0x1 => runD1 w s
  | 0x2 => runD2 w s
  | 0x3 => runD3 w s
  | 0x4 => runD4 w s
  | 0x5 => runD5 w s
  | 0x6 => runD6 w s
  | 0x7 => runD7 w s
  | 0x8 => runD8 w s
  | 0x9 => runD9 w s
  | 0xA => runDA w s
  | 0xB => runDB w s
  | 0xC => runDC w s
  | 0xD => runDD w s
  | _ => illopWord w s

/-- Majors 0xE0 to 0xEF. -/
def runMajorE (w : Nat) (s : State) : Out :=
  match bits w 27 24 with
  | 0x0 => runE0 w s
  | 0x8 => runE8 w s
  | 0x9 => runE9 w s
  | _ => illopWord w s

/-- Majors 0xF0 to 0xFF. -/
def runMajorF (w : Nat) (s : State) : Out :=
  match bits w 27 24 with
  | 0x0 => runF0 w s
  | 0x1 => runF1 w s
  | 0x2 => runF2 w s
  | 0x3 => runF3 w s
  | 0x4 => runF4 w s
  | 0x5 => runF5 w s
  | 0x6 => runF6 w s
  | 0x7 => runF7 w s
  | 0x8 => runF8 w s
  | 0x9 => runF9 w s
  | 0xA => runFA w s
  | 0xB => runFB w s
  | 0xC => runFC w s
  | 0xE => runFE w s
  | _ => illopWord w s

/-- The meaning of a word whose major is 0xD0 or above. -/
def runHigh (w : Nat) (s : State) : Out :=
  match bits w 31 28 with
  | 0xD => runMajorD w s
  | 0xE => runMajorE w s
  | 0xF => runMajorF w s
  | _ => illopWord w s

end Sys2Proof.Machine
end

