-- ==== Sys2Proof/Machine/Words.lean ====
section
/-! DEFINITION. The meaning of an instruction word, and its equal in a form Lean's compiler can run (the compiler cannot
build a constructor with fields past the 245th of `Instr`, so `decodeWord` itself is never run). -/

namespace Sys2Proof.Machine

noncomputable section

/-- The meaning of an instruction word: of the instruction it decodes to, else ILLOP (R53). -/
def runWord (w : Nat) (s : State) : Out :=
  match decodeWord w with
  | .error _ => illopWord w s
  | .ok i => exec i s

/-- The meaning of what the opcode table gives for a word. -/
def runDecoded (w : Nat) (s : State) (o : Option Instr) : Out :=
  match o with
  | none => illopWord w s
  | some i => if i.wellFormed then exec i s else illopWord w s

end

/-- The same, in a form Lean's compiler can run. -/
def runWordC (w : Nat) (s : State) : Out :=
  if bits w 31 28 < 13 then
    match decodeLowWord w with
    | .error _ => illopWord w s
    | .ok i => exec i s
  else runHigh w s

theorem runWord_eq_runDecoded (w : Nat) (s : State) : runWord w s = runDecoded w s (decodeRow w) := by
  unfold runWord decodeWord
  cases decodeRow w with
  | none => rfl
  | some i => simp only [runDecoded]; cases i.wellFormed <;> rfl

theorem runDecoded_decodeLow (w : Nat) (s : State) :
    runDecoded w s (decodeLow w) = match decodeLowWord w with
      | .error _ => illopWord w s
      | .ok i => exec i s := by
  unfold decodeLowWord
  cases decodeLow w with
  | none => rfl
  | some i => simp only [runDecoded]; cases i.wellFormed <;> rfl

theorem runDecoded_decodeD0 (w : Nat) (s : State) : runDecoded w s (decodeD0 w) = runD0 w s := by
  unfold decodeD0 runD0; rfl

theorem runDecoded_decodeD1 (w : Nat) (s : State) : runDecoded w s (decodeD1 w) = runD1 w s := by
  unfold decodeD1 runD1; rfl

theorem runDecoded_decodeD2 (w : Nat) (s : State) : runDecoded w s (decodeD2 w) = runD2 w s := by
  unfold decodeD2 runD2; repeat' (first | rfl | split)

theorem runDecoded_decodeD3 (w : Nat) (s : State) : runDecoded w s (decodeD3 w) = runD3 w s := by
  unfold decodeD3 runD3; repeat' (first | rfl | split)

theorem runDecoded_decodeD4 (w : Nat) (s : State) : runDecoded w s (decodeD4 w) = runD4 w s := by
  unfold decodeD4 runD4; repeat' (first | rfl | split)

theorem runDecoded_decodeD5 (w : Nat) (s : State) : runDecoded w s (decodeD5 w) = runD5 w s := by
  unfold decodeD5 runD5; repeat' (first | rfl | split)

theorem runDecoded_decodeD6 (w : Nat) (s : State) : runDecoded w s (decodeD6 w) = runD6 w s := by
  unfold decodeD6 runD6; repeat' (first | rfl | split)

theorem runDecoded_decodeD7 (w : Nat) (s : State) : runDecoded w s (decodeD7 w) = runD7 w s := by
  unfold decodeD7 runD7; repeat' (first | rfl | split)

theorem runDecoded_decodeD8 (w : Nat) (s : State) : runDecoded w s (decodeD8 w) = runD8 w s := by
  unfold decodeD8 runD8; repeat' (first | rfl | split)

theorem runDecoded_decodeD9 (w : Nat) (s : State) : runDecoded w s (decodeD9 w) = runD9 w s := by
  unfold decodeD9 runD9; repeat' (first | rfl | split)

theorem runDecoded_decodeDA (w : Nat) (s : State) : runDecoded w s (decodeDA w) = runDA w s := by
  unfold decodeDA runDA; repeat' (first | rfl | split)

theorem runDecoded_decodeDB (w : Nat) (s : State) : runDecoded w s (decodeDB w) = runDB w s := by
  unfold decodeDB runDB; repeat' (first | rfl | split)

theorem runDecoded_decodeDC (w : Nat) (s : State) : runDecoded w s (decodeDC w) = runDC w s := by
  unfold decodeDC runDC; repeat' (first | rfl | split)

theorem runDecoded_decodeDD (w : Nat) (s : State) : runDecoded w s (decodeDD w) = runDD w s := by
  unfold decodeDD runDD; repeat' (first | rfl | split)

theorem runDecoded_decodeE0 (w : Nat) (s : State) : runDecoded w s (decodeE0 w) = runE0 w s := by
  unfold decodeE0 runE0; repeat' (first | rfl | split)

theorem runDecoded_decodeE8 (w : Nat) (s : State) : runDecoded w s (decodeE8 w) = runE8 w s := by
  unfold decodeE8 runE8; repeat' (first | rfl | split)

theorem runDecoded_decodeE9 (w : Nat) (s : State) : runDecoded w s (decodeE9 w) = runE9 w s := by
  unfold decodeE9 runE9; repeat' (first | rfl | split)

theorem runDecoded_decodeF0 (w : Nat) (s : State) : runDecoded w s (decodeF0 w) = runF0 w s := by
  unfold decodeF0 runF0; repeat' (first | rfl | split)

theorem runDecoded_decodeF1 (w : Nat) (s : State) : runDecoded w s (decodeF1 w) = runF1 w s := by
  unfold decodeF1 runF1; repeat' (first | rfl | split)

theorem runDecoded_decodeF2 (w : Nat) (s : State) : runDecoded w s (decodeF2 w) = runF2 w s := by
  unfold decodeF2 runF2; repeat' (first | rfl | split)

theorem runDecoded_decodeF3 (w : Nat) (s : State) : runDecoded w s (decodeF3 w) = runF3 w s := by
  unfold decodeF3 runF3; repeat' (first | rfl | split)

theorem runDecoded_decodeF4 (w : Nat) (s : State) : runDecoded w s (decodeF4 w) = runF4 w s := by
  unfold decodeF4 runF4; repeat' (first | rfl | split)

theorem runDecoded_decodeF5 (w : Nat) (s : State) : runDecoded w s (decodeF5 w) = runF5 w s := by
  unfold decodeF5 runF5; repeat' (first | rfl | split)

theorem runDecoded_decodeF6 (w : Nat) (s : State) : runDecoded w s (decodeF6 w) = runF6 w s := by
  unfold decodeF6 runF6; repeat' (first | rfl | split)

theorem runDecoded_decodeF7 (w : Nat) (s : State) : runDecoded w s (decodeF7 w) = runF7 w s := by
  unfold decodeF7 runF7; repeat' (first | rfl | split)

theorem runDecoded_decodeF8 (w : Nat) (s : State) : runDecoded w s (decodeF8 w) = runF8 w s := by
  unfold decodeF8 runF8; repeat' (first | rfl | split)

theorem runDecoded_decodeF9 (w : Nat) (s : State) : runDecoded w s (decodeF9 w) = runF9 w s := by
  unfold decodeF9 runF9; repeat' (first | rfl | split)

theorem runDecoded_decodeFA (w : Nat) (s : State) : runDecoded w s (decodeFA w) = runFA w s := by
  unfold decodeFA runFA; repeat' (first | rfl | split)

theorem runDecoded_decodeFB (w : Nat) (s : State) : runDecoded w s (decodeFB w) = runFB w s := by
  unfold decodeFB runFB; repeat' (first | rfl | split)

theorem runDecoded_decodeFC (w : Nat) (s : State) : runDecoded w s (decodeFC w) = runFC w s := by
  unfold decodeFC runFC; rfl

theorem runDecoded_decodeFE (w : Nat) (s : State) : runDecoded w s (decodeFE w) = runFE w s := by
  unfold decodeFE runFE; rfl

theorem runDecoded_decodeMajorD (w : Nat) (s : State) : runDecoded w s (decodeMajorD w) = runMajorD w s := by
  unfold decodeMajorD runMajorD
  generalize bits w 27 24 = n
  match n with
  | 0 => exact runDecoded_decodeD0 w s
  | 1 => exact runDecoded_decodeD1 w s
  | 2 => exact runDecoded_decodeD2 w s
  | 3 => exact runDecoded_decodeD3 w s
  | 4 => exact runDecoded_decodeD4 w s
  | 5 => exact runDecoded_decodeD5 w s
  | 6 => exact runDecoded_decodeD6 w s
  | 7 => exact runDecoded_decodeD7 w s
  | 8 => exact runDecoded_decodeD8 w s
  | 9 => exact runDecoded_decodeD9 w s
  | 10 => exact runDecoded_decodeDA w s
  | 11 => exact runDecoded_decodeDB w s
  | 12 => exact runDecoded_decodeDC w s
  | 13 => exact runDecoded_decodeDD w s
  | 14 => rfl
  | 15 => rfl
  | _ + 16 => rfl

theorem runDecoded_decodeMajorE (w : Nat) (s : State) : runDecoded w s (decodeMajorE w) = runMajorE w s := by
  unfold decodeMajorE runMajorE
  generalize bits w 27 24 = n
  match n with
  | 0 => exact runDecoded_decodeE0 w s
  | 8 => exact runDecoded_decodeE8 w s
  | 9 => exact runDecoded_decodeE9 w s
  | 1 => rfl
  | 2 => rfl
  | 3 => rfl
  | 4 => rfl
  | 5 => rfl
  | 6 => rfl
  | 7 => rfl
  | 10 => rfl
  | 11 => rfl
  | 12 => rfl
  | 13 => rfl
  | 14 => rfl
  | 15 => rfl
  | _ + 16 => rfl

theorem runDecoded_decodeMajorF (w : Nat) (s : State) : runDecoded w s (decodeMajorF w) = runMajorF w s := by
  unfold decodeMajorF runMajorF
  generalize bits w 27 24 = n
  match n with
  | 0 => exact runDecoded_decodeF0 w s
  | 1 => exact runDecoded_decodeF1 w s
  | 2 => exact runDecoded_decodeF2 w s
  | 3 => exact runDecoded_decodeF3 w s
  | 4 => exact runDecoded_decodeF4 w s
  | 5 => exact runDecoded_decodeF5 w s
  | 6 => exact runDecoded_decodeF6 w s
  | 7 => exact runDecoded_decodeF7 w s
  | 8 => exact runDecoded_decodeF8 w s
  | 9 => exact runDecoded_decodeF9 w s
  | 10 => exact runDecoded_decodeFA w s
  | 11 => exact runDecoded_decodeFB w s
  | 12 => exact runDecoded_decodeFC w s
  | 14 => exact runDecoded_decodeFE w s
  | 13 => rfl
  | 15 => rfl
  | _ + 16 => rfl

theorem runDecoded_decodeHigh (w : Nat) (s : State) : runDecoded w s (decodeHigh w) = runHigh w s := by
  unfold decodeHigh runHigh
  generalize bits w 31 28 = n
  match n with
  | 13 => exact runDecoded_decodeMajorD w s
  | 14 => exact runDecoded_decodeMajorE w s
  | 15 => exact runDecoded_decodeMajorF w s
  | 0 => rfl
  | 1 => rfl
  | 2 => rfl
  | 3 => rfl
  | 4 => rfl
  | 5 => rfl
  | 6 => rfl
  | 7 => rfl
  | 8 => rfl
  | 9 => rfl
  | 10 => rfl
  | 11 => rfl
  | 12 => rfl
  | _ + 16 => rfl

@[csimp] theorem runWord_eq_runWordC : @runWord = @runWordC := by
  funext w s
  rw [runWord_eq_runDecoded]
  unfold decodeRow runWordC
  split
  · exact runDecoded_decodeLow w s
  · exact runDecoded_decodeHigh w s

end Sys2Proof.Machine
end

