-- ==== Sys2Proof/Machine/Run.lean ====
section
/-! DEFINITION. Issuing one instruction of an agent, and what happens when nobody says what comes next (log 1). -/

namespace Sys2Proof.Machine

/-- One instruction of the agent whose turn it is, which can issue: a token in its slot's cell completes its instruction (R311); else
a refused page traps first (R366), but for one that its instruction's unit is to meet; else the word at the PC is fetched and run. -/
def issueNow (s : State) : Out :=
  let a := s.me
  match tokenOf s s.cur, a.refused with
  | some r, _ => .next (tokenStep r s)
  | none, some va => .next (takeTrap (s.setMe { a with refused := none }) ⟨cPAGE, wordN va⟩)
  | none, none =>
    match (fetchWord s.ctx.pc).run { s with iw := 0 } with
    | .error e => .next (settle { s with iw := 0 } (.error e))
    | .ok (w, t) => runWord w { t with iw := w }

/-- Whether an agent's next instruction only waits, its accesses left outstanding when `defer`: it leaves its agent as it is, or only a
result of the Ridge comes to its register, and ends no program. -/
def stallsWith (s : State) (who : AgentId) (defer : Bool) : Bool :=
  let t := { s with cur := who, mode := .plain, defer := defer }
  match issueNow t with
  | .next u => (u.agent who == t.me || (!t.me.ridge.isEmpty && u.agent who == (deliverRidge t).me)) &&
      (u.prog (s.progKey who)).ending == (s.prog (s.progKey who)).ending
  | _ => false

/-- Whether a thread's next instruction cannot issue in this cycle: it is stalled, or awaits an operand (R308). -/
def stalled (s : State) (who : AgentId) : Bool := isSlot who && stallsWith s who false && stallsWith s who true

/-- Whether an agent is ready (R308): it waits for nothing, or at a gang pair that no longer stalls (R150), and its next instruction can
issue in this cycle. -/
def ready (s : State) (who : AgentId) : Bool :=
  match (s.agent who).wait with
  | .none => !stalled s who
  | .again => !stalled s who
  | .gangRoom id spurs => !gangStalls s (dieOf who) id spurs
  | _ => false

/-- Whether an agent can issue: it runs, its program is neither ending nor being saved (R308, R364, R367), its die is in service and the
package ACTIVE (R376, R400), and it is ready. -/
def canIssue (s : State) (who : AgentId) : Bool :=
  (s.agent who).live && (s.prog (s.progKey who)).ending.isNone &&
    (s.prog (s.progKey who)).saving.isNone && (s.die (dieOf who)).state == .up && s.power == .active && ready s who

/-! ### The rotation of a thread core (R308, R309) -/

/-- Whether a slot of a core can issue. -/
def canTurn (s : State) (c : Nat × Nat × Nat) (t : Nat) : Bool := canIssue s (.slot c.1 c.2.1 c.2.2 t)

/-- The turn of a core's next issue: members of the set that are no longer ready are passed over; at a boundary the set is the ready
slots but those that leave it, and where only those are ready, the boundary after it takes them. -/
def nextTurn (s : State) (c : Nat × Nat × Nat) : Turn :=
  let r := tabGet s.turns c ⟨[], []⟩
  match r.left.dropWhile fun t => !canTurn s c t with
  | t :: ts => { r with left := t :: ts }
  | [] =>
    let set := (List.range 31).filter (canTurn s c)
    let rest := set.filter fun t => !r.skip.contains t
    ⟨if rest = [] then set else rest, []⟩

/-- A cycle in which no slot of a core is ready is a boundary of its rotation (R308): the set is empty after it, and a slot that leaves
the next set has left it. -/
def idleTurns (s : State) (d : Nat) : State :=
  { s with turns := s.turns.filter fun x => !(x.1.1 == d && !(List.range 31).any (canTurn s x.1)) }

/-- The clocks of an issue: one cycle of the die, two of its masters (log 8). -/
def tickDie (s : State) (d n m : Nat) : State :=
  let s := idleTurns s d
  let r := s.die d
  s.setDie d { r with cycle := r.cycle + n, mcycle := r.mcycle + m }

/-- Whether an agent is offered the next issue: a thread when it is its slot's turn. -/
def hasTurn (s : State) (who : AgentId) : Bool :=
  match who with
  | .slot d p c t => (nextTurn s (d, p, c)).left.head? == some t
  | _ => true

/-- The issue of an agent begun: its clocks, its core's rotation, the start of its bounded wait, but for an instruction that issues
again (R312). -/
def startIssue (s : State) (who : AgentId) : State :=
  let s := match who with
    | .slot d p c _ =>
      let r := nextTurn s (d, p, c)
      { s with turns := tabSet s.turns (d, p, c) { r with left := r.left.drop 1 } }
    | _ => s
  let s := tickDie s (dieOf who) 1 2
  match (s.agent who).wait with
  | .none => s.setAgent who { s.agent who with since := s.clock who }
  | _ => s

/-- One issue of an agent whose turn it is, its accesses left outstanding when `defer`. -/
def issue (who : AgentId) (defer : Bool) (s : State) : Out :=
  if onPackage who then
    let s := { s with cur := who, mode := .plain, defer := defer }
    if canIssue s who && hasTurn s who then issueNow (startIssue s who) else .next s
  else .fault .noSuchAgent

/-- Firmware makes a bank HELD for test or containment, or gives it back, at a point where its spur holds no program (R315,
R334). -/
def holdBank (k : Nat × Nat) (b : Nat) (on : Bool) (s : State) : State :=
  let p := s.spur k
  if k.1 < 4 ∧ k.2 < 224 ∧ b < 32 ∧ p.owner = none then
    let l := p.heldOut.filter (· ≠ b)
    s.setSpur k { p with heldOut := if on then l ++ [b] else l }
  else s

/-- Firmware measures the inlet: above 45 °C it stops the device (R401). -/
def inletReading (celsius : Nat) (s : State) : State := if 45 < celsius ∧ fwRuns s then stopDevice s else s

/-- An entry of a TLB dropped (R343, R374). -/
def dropTlbEntry (k : Nat) (s : State) : State := { s with tlb := listDel s.tlb k }

/-! ### What an agent waits for -/

/-- An event that changes an agent, its program, or what its die holds for it. -/
def onAgent (s : State) (who : AgentId) (f : State → Out) : Option Out :=
  match f s with
  | .next t =>
    if t.agent who = s.agent who ∧ t.die (dieOf who) = s.die (dieOf who) ∧ t.prog (s.progKey who) = s.prog (s.progKey who)
    then none else some (.next t)
  | o => some o

/-- The events that can end an agent's wait, the reaching of its limit among them (R22, R312, R314); a thread that waits for a page parks
once it can (R310). -/
def waitEvents (who : AgentId) (a : Agent) : List (State → Out) :=
  let d := dieOf who
  match a.wait with
  | .load _ => [execLoadReply who]
  | .granule _ => [execFeWaitExpiry who]
  | .mem _ => [execWaitRecheck who, execWaitWlimExpiry who]
  | .bar _ => [execBarWlimExpiry who]
  | .join _ => [execJoinComplete d a.core]
  | .halt => [execJoinComplete d a.core]
  | .room => [execInlineChildStart who]
  | .ended => [execThreadEnd who]
  | .sfu => [execSfuRequestAccept d (spurOf who), execSfuResult d (spurOf who)]
  | .remote r => [execRemoteAccessPerform r.die r.spur 0, execRemoteWaitExpiry who]
  | .gang _ => [execGangParkExpiry who]
  | .gangRoom .. => [execGangRecordStallExpiry who]
  | .page _ => [fun s => .next (parkThread s who)]
  | .unit r =>
    match r.op with
    | .nzscan => [execNzscanComplete who]
    | .mgput => [execAretePutReply who]
    | .mgfin => [execAreteMergeComplete who]
    | .gtopk => [execGateOperationComplete d]
    | .ghist => [execGateOperationComplete d]
    | .gperm => [execGateOperationComplete d]
    | .mgopen => [execAreteCommandReply who]
    | .mgarea => [execAreteCommandReply who]
    | .mgend => [execAreteCommandReply who]
    | .mgstat => [execAreteCommandReply who]
    | _ => [execCairnAtomicStep who, execCairnOperationComplete who]
  | _ => []

/-! ### Held accesses replayed (R215) -/

/-- The slot of a live thread. -/
def threadSlot (s : State) (d core tag tid : Nat) : Option AgentId :=
  (s.agents.find? fun (a, r) =>
    isSlot a && dieOf a == d && r.live && r.core == core && r.tag == tag && r.ctx.tid.toNat == tid).map (·.1)

/-- A held access of a unit that its issuer waits for is performed at its turn. -/
def replayUnit (who : AgentId) (s : State) : Option Out :=
  match (s.agent who).wait with
  | .unit _ => (waitEvents who (s.agent who)).findSome? (onAgent s who)
  | _ => none

/-- The agent that held an access issues again before any other. -/
def replayIssue (who : AgentId) (s : State) : Out :=
  match replayUnit who s with
  | some o => o
  | none =>
    let s := { s with cur := who, mode := .plain, defer := false }
    if canIssue s who then issueNow (tickDie s (dieOf who) 1 2) else .next s

/-- The first idle slot of a spur, the lowest of its cores in turn. -/
def idleSlot (s : State) (d n : Nat) : Option AgentId :=
  (List.range 124).findSome? fun i =>
    let who := AgentId.slot d n (i % 4) (i / 4)
    if (s.agent who).live then none else some who

/-- A parked thread executes its held instruction where it stands, in the run list: it takes a slot's place for the one step. Where it
would wait there, it returns to an idle slot of its spur first, if there is one, and waits in its order (R215); a thread without a slot
is left to execute it when it returns. -/
def replayParked (k : Nat × Nat) (i : Nat) (x : Parked) (s : State) : State :=
  let who := AgentId.slot k.1 x.spur 0 0
  let old := s.agent who
  let t := { s.setAgent who { x.agent with wait := .none } with cur := who, mode := .plain, defer := false }
  let back (u : State) (y : Parked) : State :=
    let p := u.prog k
    { (u.setProg k { p with runList := listSet p.runList i y }).setAgent who old with
      cur := s.cur, mode := s.mode, defer := s.defer }
  let inSlot : State :=
    match idleSlot s k.1 x.spur with
    | some w =>
      if slotProg s w = some k ∧ !recordBusy s k x.record then
        match replayIssue w (returnParked k i x w s) with
        | .next u => u
        | _ => s
      else s
    | none => s
  match issueNow (tickDie t k.1 1 2) with
  | .next u =>
    let a := u.agent who
    if a.live ∧ a.wait = .none then back u { x with agent := a, runnable := true } else inSlot
  | _ => s

/-- The engine command of a number. -/
def findCmd (s : State) (id : Nat) : Option EngCmd :=
  (s.spurs.flatMap fun x => x.2.copyQ ++ x.2.gathQ).find? fun c => c.id == id

/-- An event that changes a queue. -/
def onQueueRec (s : State) (k : Nat × Nat) (f : State → Out) : Option Out :=
  match f s with
  | .next t => if t.queue k = s.queue k then none else some (.next t)
  | o => some o

/-- What goes on for a host queue. -/
def queueEvent (s : State) (x : (Nat × Nat) × Queue) : Option Out :=
  let (k, q) := x
  let run := (List.range q.started.length).flatMap fun i => [execCopyPacketDone k.1 k.2 i, execSignalWaitSatisfied k.1 k.2 i]
  let start := if q.tail = q.head then [] else
    [execPacketFetchFault k.1 k.2, execLaunch k.1 k.2, execCopy k.1 k.2, execSignalSet k.1 k.2, execSignalWait k.1 k.2,
     execFence k.1 k.2, execComplete k.1 k.2]
  (run ++ start).findSome? (onQueueRec s k)

/-- A held access performed before its agent's next access (R215): of an agent, an engine, the command processor for a queue, the end of a
program or its save. -/
def replay (w : Waiter) (s : State) : Out :=
  match w with
  | .master d c => replayIssue (.master d c) s
  | .engine id => match findCmd s id with
    | some c => .next (c.advance s)
    | none => .next s
  | .queue d q => (queueEvent s ((d, q), s.queue (d, q))).getD (.next s)
  | .ending d c => .next (concludeEnd (d, c) s)
  | .saving d c => execContextSaveComplete d c s
  | .thread d c tag tid =>
    match threadSlot s d c tag tid with
    | some who => replayIssue who s
    | none =>
      match (s.prog (d, c)).runList.zipIdx.find? fun (x, _) => x.agent.tag == tag && x.agent.ctx.tid.toNat == tid with
      | some (x, i) => .next (replayParked (d, c) i x s)
      | none => .next s

/-- An agent fetches the word after those it has fetched and not executed (R363). -/
def fetchAhead (who : AgentId) (s : State) : State :=
  let t := { s with cur := who }
  let act : Act Unit := do
    let keys ← fetchKeys (vaOf (t.ctx.pc + wordN (4 * t.me.ahead.length)))
    let w ← readWord keys
    mods fun s => s.setMe { s.me with ahead := s.me.ahead ++ [(keys.headD 0, w)] }
  if onPackage who && canIssue s who then
    match act.run t with
    | .ok (_, u) => { u with cur := s.cur }
    | .error _ => s
  else s

/-- A word leaves a spur's instruction buffer (R363). -/
def dropWord (k : Nat × Nat) (i : Nat) (s : State) : State :=
  s.setSpur k { s.spur k with ibuf := listDel (s.spur k).ibuf i }

/-- A move listed in the agenda. An instruction word is no event: it runs only when an agent issues it. -/
def doMove (m : Move) (s : State) : Out :=
  match m with
  | .issue who d => issue who d s
  | .event i => if (encode i).isSome then .next s else exec i { s with mode := .plain, defer := false }
  | .tick d n c => .next (tickDie s d n c)
  | .dropTlb k => .next (dropTlbEntry k s)
  | .conclude d c => .next (concludeEnd (d, c) s)
  | .replay w => replay w s
  | .fetchAhead who => .next (fetchAhead who s)
  | .dropWord d n k => .next (dropWord (d, n) k s)
  | .pcieError d q => .next (pcieFault (d, q) s)
  | .dropLookup k => .next (lookupDrop s k)
  | .slide f d n => .next (slideWrites f d n s)
  | .holdBank d n b on => .next (holdBank (d, n) b on s)
  | .inlet c => .next (inletReading c s)

/-! ### When no move is listed (log 1) -/

/-- An event that changes a program. -/
def onProg (s : State) (k : Nat × Nat) (f : State → Out) : Option Out :=
  match f s with
  | .next t => if t.prog k = s.prog k then none else some (.next t)
  | o => some o

/-- An event that changes a die. -/
def onDieRec (s : State) (d : Nat) (f : State → Out) : Option Out :=
  match f s with
  | .next t => if t.die d = s.die d then none else some (.next t)
  | o => some o

/-- An event that changes a spur. -/
def onSpur (s : State) (k : Nat × Nat) (f : State → Out) : Option Out :=
  match f s with
  | .next t => if t.spur k = s.spur k then none else some (.next t)
  | o => some o

/-- What goes on for an agent: its Ridge results, its outstanding accesses, then its wait. -/
def agentEvent (s : State) (x : AgentId × Agent) : Option Out :=
  let pend := if x.2.pend.isEmpty then [] else [execStorePerform x.1 0, execRedApply x.1 0]
  let pend := if x.2.ridge.isEmpty then pend else execRidgeReply x.1 :: pend
  (pend ++ waitEvents x.1 x.2).findSome? (onAgent s x.1)

/-- What goes on for the claims of words. -/
def claimEvent (s : State) : Option Out :=
  s.claims.findSome? fun (w, _) =>
    let f := if s.granted.contains w then execClaimRelease w else execClaimGrant w
    match f s with
    | .next t => if t.claims = s.claims ∧ t.granted = s.granted then none else some (.next t)
    | o => some o

/-- What goes on for gangs and engines of a die. -/
def engineEvent (s : State) (d : Nat) : Option Out :=
  ((s.die d).gangs.findSome? fun g =>
    let n := g.spurs.headD 0
    match g.state with
    | .started =>
      if g.begun then onDieRec s d (execMatrixOpComplete d n g.id)
      else if mayStart s d g then onDieRec s d (execMatrixOpStart d n g.id) else none
    | _ => none) <|>
  (s.spurs.findSome? fun (k, p) =>
    if k.1 ≠ d then none
    else
      ((List.range p.copyQ.length).findSome? fun i => onSpur s k (execCopyCommandComplete d k.2 i)) <|>
      ((List.range p.gathQ.length).findSome? fun i => onSpur s k (execGatherCommandComplete d k.2 i)) <|>
      ((List.range p.copyQ.length).findSome? fun i => onSpur s k (execEngineFaultStop d k.2 1 i)) <|>
      ((List.range p.gathQ.length).findSome? fun i => onSpur s k (execEngineFaultStop d k.2 2 i)))

/-- What goes on for a program: its end, its save, a resident placement, a thread for an idle slot. -/
def progEvent (s : State) (x : (Nat × Nat) × Prog) : Option Out :=
  let (k, p) := x
  if !p.running then none
  else if p.ending.isSome then onProg s k fun s => .next (concludeEnd k s)
  else if p.saving.isSome then onProg s k (execContextSaveComplete k.1 k.2)
  else if p.held.isSome then onProg s k (execResidentPlacement k.1 k.2)
  else if p.runList.any (·.runnable) ∨ p.rerun ≠ [] ∨ 0 < p.u ∨ 0 < p.d then
    p.spawn.quota.findSome? fun n =>
      match idleSlot s k.1 n with
      | none => none
      | some who => [execParkedThreadReturn who, execRerunTake who, execNumberGrant who, execScreeDraw who].findSome? (onAgent s who)
  else none

/-- What goes on for a die's fault service and fault ring: a fault not yet decided goes to the host. -/
def faultEvent (s : State) (d : Nat) : Option Out :=
  ((List.range (s.die d).faults.length).findSome? fun i => onDieRec s d (execPageFaultService d i 1 0)) <|>
  (if (s.die d).ring.out.isEmpty then none else onDieRec s d (execFaultRingWrite d))

/-- The first event that can occur. -/
def nextEvent (s : State) : Option Out :=
  s.progs.findSome? (progEvent s) <|> claimEvent s <|> s.agents.findSome? (agentEvent s) <|>
  (List.range 4).findSome? (engineEvent s) <|> s.queues.findSome? (queueEvent s) <|> (List.range 4).findSome? (faultEvent s)

/-- The agent that issues next: the first after the one whose turn it was that can and is offered an issue, in the order of the
table. -/
def nextAgent (s : State) : Option AgentId :=
  let l := s.agents.map (·.1)
  let i := (l.findIdx? (· == s.cur)).getD 0 + 1
  (l.drop i ++ l.take i).find? fun a => canIssue s a && hasTurn s a

/-- Whether the wait of an agent ends when its limit is reached (R314). -/
def limited (a : Agent) : Bool :=
  match a.wait with
  | .granule _ => true
  | .mem _ => true
  | .bar _ => true
  | .gang _ => true
  | .gangRoom .. => true
  | .remote r => r.fe
  | _ => false

/-- How long until the limit of an agent's wait, in cycles of its own clock. -/
def untilLimit (s : State) (who : AgentId) : Nat := (s.agent who).since + waitLimit s who - s.clock who

/-- When nothing else can happen, time passes: to the nearest limit of a wait, or a cycle for a matrix operation that may not start in
this one. -/
def passTime (s : State) : State :=
  let ws := ((s.agents.filter fun x => x.2.live && limited x.2 && bounded s x.1).map (·.1)).filter fun a => 0 < untilLimit s a
  let gang := (List.range 4).find? fun d => (s.die d).gangs.any fun g => g.state == .started && !g.begun
  match gang, ws with
  | some d, _ => tickDie s d 1 2
  | none, [] => s
  | none, w :: ws =>
    let a := ws.foldl (fun b x => if untilLimit s x < untilLimit s b then x else b) w
    let n := untilLimit s a
    if isMaster a then tickDie s (dieOf a) (n / 2) n else tickDie s (dieOf a) n (2 * n)

/-- What happens next: the first move of the agenda; where none is listed, an event that can occur, else an agent's issue, else time
passes. -/
def stepRaw (s : State) : Out :=
  match s.agenda with
  | m :: rest => doMove m { s with agenda := rest }
  | [] => (nextEvent s).getD (match nextAgent s with
    | some a => issue a false s
    | none => .next (passTime s))

/-! ### What every step leaves behind -/

/-- The PROT trap that an agent took in a step, with its address space and its TVAL; no access to remote scratch has an address. -/
def protTaken (s t : State) (x : AgentId × Agent) : Option (Nat × Nat × Nat) :=
  let c := x.2.ctx
  if c.tcause ≠ (s.agent x.1).ctx.tcause ∧ c.tcause.toNat % 256 = cPROT ∧ c.tcause.getLsbD 8 ∧ bits t.iw 31 24 ≠ 0xE9 then
    some (dieOf x.1, (t.prog (t.progKey x.1)).asid, c.tval.toNat) else none

/-- The PROT trap that ended a program in a step (R357). -/
def protEnded (s t : State) (x : (Nat × Nat) × Prog) : Option (Nat × Nat × Nat) :=
  match x.2.ending, (s.prog x.1).ending with
  | some r, none =>
    if (r.reason = 1 ∨ r.reason = 2) ∧ r.cause = cPROT ∧ bits t.iw 31 24 ≠ 0xE9 then some (x.1.1, x.2.asid, r.tval.toNat) else none
  | _, _ => none

/-- The malformed entries that agents met in a step are in the fault service's log (R341). -/
def logWalks (s t : State) : State :=
  (t.agents.filterMap (protTaken s t) ++ t.progs.filterMap (protEnded s t)).foldl (fun u (d, asid, va) => u.logWalk d asid cPROT va) t

/-- A queue that is READY with a packet to start makes the package ACTIVE (R400). -/
def leaveIdle (s : State) : State := if s.power == .idle && busy s then { s with power := .active } else s

/-- What follows from a step's change: requests before full tables take the entries that are free (R246), the governor notes requests
(R306), the fault service logs malformed entries (R341), the package is ACTIVE where there is work (R400), and the active complex records
the changes of the state table (R383). -/
def tidy (s t : State) : State :=
  let t := admitPorts t.ports.length t
  journalChanges s (leaveIdle (logWalks s ((List.range 4).foldl (fun u d => noteAsks d u) t)))

/-- One step: what happens next, with what follows from it. -/
def stepNext (s : State) : Out :=
  match stepRaw s with
  | .next t => .next (tidy s t)
  | o => o

/-! ### A word placed where the next step fetches it (log 14) -/

/-- Where the word is placed: a virtual address that is its own physical address. -/
def placeVa : Nat := 0x100000

/-- Memory with a page table at 0x1000 that maps the first GiB onto itself, readable, writable and executable, and a word
at `placeVa` with a zero word after it. -/
def placeMem (m : List Host.Cell) (w : Nat) : List Host.Cell :=
  let m := memSets m (span 0x1000 8) (leBytes 8 0x2001)
  let m := memSets m (span 0x2000 8) (leBytes 8 0x1F)
  memSets m (span placeVa 8) (leBytes 4 w ++ leBytes 4 0)

/-- A program on master core 0 of die 0 whose next instruction is the given word. -/
def State.placeWord (s : State) (nbits w : Nat) : State :=
  let who := AgentId.master 0 0
  let a := s.agent who
  let s := { s with
    mem := placeMem s.mem (w % 2 ^ nbits)
    bad := s.bad.filter fun l => l ≠ 0x1000 / 64 ∧ l ≠ 0x2000 / 64 ∧ l ≠ placeVa / 64
    roots := tabSet s.roots 1 0x1001
    tlb := s.tlb.filter fun t => t.asid ≠ 1
    cur := who
    agenda := [.issue who false] }
  let s := ({ s with power := .active }.setDie 0 { s.die 0 with state := .up }).setAgent who { a with
    live := true, wait := .none, refused := none, ahead := [], ctx := { a.ctx with pc := wordN placeVa, inFrame := false } }
  s.setProg (0, 0) { s.prog (0, 0) with running := true, asid := 1, ending := none, saving := none }

end Sys2Proof.Machine
end

