-- ==== Sys2Proof/Machine/Step.lean ====
section
/-! DEFINITION. One step of the package, and where a program's next instruction lies. -/

namespace Sys2Proof.Machine

/-- One step of the package (log 1). -/
def step (s : State) : Host.Outcome State Fault Refusal := stepNext s

/-- The state in which the next step fetches and runs the given word (log 14). -/
def State.withFetchWord (s : State) (nbits w : Nat) : State := s.placeWord nbits w

end Sys2Proof.Machine
end

