-- ==== Sys2Proof/Laws/PerInstr.lean ====
section
/-! SUPPORT. For each instruction: its word has 32 bits and decodes to it (02_encoding.md R44 to R53); an event of the package has no word. -/

open Sys2Proof

/-- The word of a well-formed instruction has 32 bits and decodes to it, or, of two rows with one encoding, to the first. -/
def Sys2Proof.Laws.RoundTrip.Statement (i : Instr) : Prop :=
  ∀ w, i.wellFormed = true → encode i = some w → w < 2 ^ 32 ∧ decodeWord w = .ok i.canon

namespace Sys2Proof.Laws.RoundTrip

/-- A row that decodes to a well-formed instruction gives it. -/
theorem word_ok {w : Nat} {i : Instr} (hr : decodeRow w = some i) (hw : i.wellFormed = true) : decodeWord w = .ok i := by
  simp [decodeWord, hr, hw]

/-- A signed field keeps its value. -/
theorem sext_ofSigned (n : Nat) (v : Int) (hn : 0 < n) (h1 : -(2 ^ (n - 1) : Int) ≤ v) (h2 : v < (2 ^ (n - 1) : Int)) :
    sext n (ofSigned n v) = v ∧ ofSigned n v < 2 ^ n := by
  obtain ⟨m, rfl⟩ : ∃ m, n = m + 1 := ⟨n - 1, by omega⟩
  have hp : (2 : Int) ^ (m + 1) = 2 * 2 ^ m := by rw [Int.pow_succ]; omega
  have hq : (2 : Nat) ^ (m + 1) = 2 * 2 ^ m := by rw [Nat.pow_succ]; omega
  have hc : ((2 ^ m : Nat) : Int) = 2 ^ m := by simp
  simp only [Nat.add_sub_cancel] at h1 h2
  unfold sext ofSigned
  simp only [Nat.add_sub_cancel]
  rw [hp, hq]
  have hpos : (0 : Int) < 2 ^ m := Int.pow_pos (by decide)
  generalize (2 : Int) ^ m = p at *
  have : v % (2 * p) = if v < 0 then v + 2 * p else v := by
    split
    · rw [← Int.add_emod_right, Int.emod_eq_of_lt] <;> omega
    · rw [Int.emod_eq_of_lt] <;> omega
  rw [this]
  constructor
  · split <;> split <;> omega
  · split <;> omega

/-! ### The row of a word, by its major -/

theorem row_01 (w : Nat) (h : w / 16777216 = 1) : decodeRow w = decode01 w := by
  have a : bits w 31 28 = 0 := by show w / 268435456 % 16 = _; omega
  have b : bits w 27 24 = 1 := by show w / 16777216 % 16 = _; omega
  simp only [decodeRow, decodeLow, decodeMajor0, a, b]; rfl

theorem row_02 (w : Nat) (h : w / 16777216 = 2) : decodeRow w = decode02 w := by
  have a : bits w 31 28 = 0 := by show w / 268435456 % 16 = _; omega
  have b : bits w 27 24 = 2 := by show w / 16777216 % 16 = _; omega
  simp only [decodeRow, decodeLow, decodeMajor0, a, b]; rfl

theorem row_03 (w : Nat) (h : w / 16777216 = 3) : decodeRow w = decode03 w := by
  have a : bits w 31 28 = 0 := by show w / 268435456 % 16 = _; omega
  have b : bits w 27 24 = 3 := by show w / 16777216 % 16 = _; omega
  simp only [decodeRow, decodeLow, decodeMajor0, a, b]; rfl

theorem row_04 (w : Nat) (h : w / 16777216 = 4) : decodeRow w = decode04 w := by
  have a : bits w 31 28 = 0 := by show w / 268435456 % 16 = _; omega
  have b : bits w 27 24 = 4 := by show w / 16777216 % 16 = _; omega
  simp only [decodeRow, decodeLow, decodeMajor0, a, b]; rfl

theorem row_05 (w : Nat) (h : w / 16777216 = 5) : decodeRow w = decode05 w := by
  have a : bits w 31 28 = 0 := by show w / 268435456 % 16 = _; omega
  have b : bits w 27 24 = 5 := by show w / 16777216 % 16 = _; omega
  simp only [decodeRow, decodeLow, decodeMajor0, a, b]; rfl

theorem row_06 (w : Nat) (h : w / 16777216 = 6) : decodeRow w = decode06 w := by
  have a : bits w 31 28 = 0 := by show w / 268435456 % 16 = _; omega
  have b : bits w 27 24 = 6 := by show w / 16777216 % 16 = _; omega
  simp only [decodeRow, decodeLow, decodeMajor0, a, b]; rfl

theorem row_07 (w : Nat) (h : w / 16777216 = 7) : decodeRow w = decode07 w := by
  have a : bits w 31 28 = 0 := by show w / 268435456 % 16 = _; omega
  have b : bits w 27 24 = 7 := by show w / 16777216 % 16 = _; omega
  simp only [decodeRow, decodeLow, decodeMajor0, a, b]; rfl

theorem row_08 (w : Nat) (h : w / 16777216 = 8) : decodeRow w = decode08 w := by
  have a : bits w 31 28 = 0 := by show w / 268435456 % 16 = _; omega
  have b : bits w 27 24 = 8 := by show w / 16777216 % 16 = _; omega
  simp only [decodeRow, decodeLow, decodeMajor0, a, b]; rfl

theorem row_09 (w : Nat) (h : w / 16777216 = 9) : decodeRow w = decode09 w := by
  have a : bits w 31 28 = 0 := by show w / 268435456 % 16 = _; omega
  have b : bits w 27 24 = 9 := by show w / 16777216 % 16 = _; omega
  simp only [decodeRow, decodeLow, decodeMajor0, a, b]; rfl

theorem row_0A (w : Nat) (h : w / 16777216 = 10) : decodeRow w = decode0A w := by
  have a : bits w 31 28 = 0 := by show w / 268435456 % 16 = _; omega
  have b : bits w 27 24 = 10 := by show w / 16777216 % 16 = _; omega
  simp only [decodeRow, decodeLow, decodeMajor0, a, b]; rfl

theorem row_10 (w : Nat) (h : w / 16777216 = 16) : decodeRow w = decode10 w := by
  have a : bits w 31 28 = 1 := by show w / 268435456 % 16 = _; omega
  have b : bits w 27 24 = 0 := by show w / 16777216 % 16 = _; omega
  simp only [decodeRow, decodeLow, decodeMajor1, a, b]; rfl

theorem row_11 (w : Nat) (h : w / 16777216 = 17) : decodeRow w = decode11 w := by
  have a : bits w 31 28 = 1 := by show w / 268435456 % 16 = _; omega
  have b : bits w 27 24 = 1 := by show w / 16777216 % 16 = _; omega
  simp only [decodeRow, decodeLow, decodeMajor1, a, b]; rfl

theorem row_12 (w : Nat) (h : w / 16777216 = 18) : decodeRow w = decode12 w := by
  have a : bits w 31 28 = 1 := by show w / 268435456 % 16 = _; omega
  have b : bits w 27 24 = 2 := by show w / 16777216 % 16 = _; omega
  simp only [decodeRow, decodeLow, decodeMajor1, a, b]; rfl

theorem row_13 (w : Nat) (h : w / 16777216 = 19) : decodeRow w = decode13 w := by
  have a : bits w 31 28 = 1 := by show w / 268435456 % 16 = _; omega
  have b : bits w 27 24 = 3 := by show w / 16777216 % 16 = _; omega
  simp only [decodeRow, decodeLow, decodeMajor1, a, b]; rfl

theorem row_14 (w : Nat) (h : w / 16777216 = 20) : decodeRow w = decode14 w := by
  have a : bits w 31 28 = 1 := by show w / 268435456 % 16 = _; omega
  have b : bits w 27 24 = 4 := by show w / 16777216 % 16 = _; omega
  simp only [decodeRow, decodeLow, decodeMajor1, a, b]; rfl

theorem row_15 (w : Nat) (h : w / 16777216 = 21) : decodeRow w = decode15 w := by
  have a : bits w 31 28 = 1 := by show w / 268435456 % 16 = _; omega
  have b : bits w 27 24 = 5 := by show w / 16777216 % 16 = _; omega
  simp only [decodeRow, decodeLow, decodeMajor1, a, b]; rfl

theorem row_16 (w : Nat) (h : w / 16777216 = 22) : decodeRow w = decode16 w := by
  have a : bits w 31 28 = 1 := by show w / 268435456 % 16 = _; omega
  have b : bits w 27 24 = 6 := by show w / 16777216 % 16 = _; omega
  simp only [decodeRow, decodeLow, decodeMajor1, a, b]; rfl

theorem row_17 (w : Nat) (h : w / 16777216 = 23) : decodeRow w = decode17 w := by
  have a : bits w 31 28 = 1 := by show w / 268435456 % 16 = _; omega
  have b : bits w 27 24 = 7 := by show w / 16777216 % 16 = _; omega
  simp only [decodeRow, decodeLow, decodeMajor1, a, b]; rfl

theorem row_18 (w : Nat) (h : w / 16777216 = 24) : decodeRow w = decode18 w := by
  have a : bits w 31 28 = 1 := by show w / 268435456 % 16 = _; omega
  have b : bits w 27 24 = 8 := by show w / 16777216 % 16 = _; omega
  simp only [decodeRow, decodeLow, decodeMajor1, a, b]; rfl

theorem row_20 (w : Nat) (h : w / 16777216 = 32) : decodeRow w = decode20 w := by
  have a : bits w 31 28 = 2 := by show w / 268435456 % 16 = _; omega
  have b : bits w 27 24 = 0 := by show w / 16777216 % 16 = _; omega
  simp only [decodeRow, decodeLow, decodeMajor2, a, b]; rfl

theorem row_21 (w : Nat) (h : w / 16777216 = 33) : decodeRow w = decode21 w := by
  have a : bits w 31 28 = 2 := by show w / 268435456 % 16 = _; omega
  have b : bits w 27 24 = 1 := by show w / 16777216 % 16 = _; omega
  simp only [decodeRow, decodeLow, decodeMajor2, a, b]; rfl

theorem row_22 (w : Nat) (h : w / 16777216 = 34) : decodeRow w = decode22 w := by
  have a : bits w 31 28 = 2 := by show w / 268435456 % 16 = _; omega
  have b : bits w 27 24 = 2 := by show w / 16777216 % 16 = _; omega
  simp only [decodeRow, decodeLow, decodeMajor2, a, b]; rfl

theorem row_23 (w : Nat) (h : w / 16777216 = 35) : decodeRow w = decode23 w := by
  have a : bits w 31 28 = 2 := by show w / 268435456 % 16 = _; omega
  have b : bits w 27 24 = 3 := by show w / 16777216 % 16 = _; omega
  simp only [decodeRow, decodeLow, decodeMajor2, a, b]; rfl

theorem row_40 (w : Nat) (h : 64 ≤ w / 16777216 ∧ w / 16777216 ≤ 67) : decodeRow w = decode40 w := by
  have a : bits w 31 28 = 4 := by show w / 268435456 % 16 = _; omega
  have b : bits w 27 24 = 0 ∨ bits w 27 24 = 1 ∨ bits w 27 24 = 2 ∨ bits w 27 24 = 3 := by
    show w / 16777216 % 16 = 0 ∨ w / 16777216 % 16 = 1 ∨ w / 16777216 % 16 = 2 ∨ w / 16777216 % 16 = 3
    omega
  obtain b | b | b | b := b <;> (simp only [decodeRow, decodeLow, decodeMajor4, a, b]; rfl)

theorem row_44 (w : Nat) (h : 68 ≤ w / 16777216 ∧ w / 16777216 ≤ 71) : decodeRow w = decode44 w := by
  have a : bits w 31 28 = 4 := by show w / 268435456 % 16 = _; omega
  have b : bits w 27 24 = 4 ∨ bits w 27 24 = 5 ∨ bits w 27 24 = 6 ∨ bits w 27 24 = 7 := by
    show w / 16777216 % 16 = 4 ∨ w / 16777216 % 16 = 5 ∨ w / 16777216 % 16 = 6 ∨ w / 16777216 % 16 = 7
    omega
  obtain b | b | b | b := b <;> (simp only [decodeRow, decodeLow, decodeMajor4, a, b]; rfl)

theorem row_48 (w : Nat) (h : 72 ≤ w / 16777216 ∧ w / 16777216 ≤ 75) : decodeRow w = decode48 w := by
  have a : bits w 31 28 = 4 := by show w / 268435456 % 16 = _; omega
  have b : bits w 27 24 = 8 ∨ bits w 27 24 = 9 ∨ bits w 27 24 = 10 ∨ bits w 27 24 = 11 := by
    show w / 16777216 % 16 = 8 ∨ w / 16777216 % 16 = 9 ∨ w / 16777216 % 16 = 10 ∨ w / 16777216 % 16 = 11
    omega
  obtain b | b | b | b := b <;> (simp only [decodeRow, decodeLow, decodeMajor4, a, b]; rfl)

theorem row_4C (w : Nat) (h : w / 16777216 = 76) : decodeRow w = decode4C w := by
  have a : bits w 31 28 = 4 := by show w / 268435456 % 16 = _; omega
  have b : bits w 27 24 = 12 := by show w / 16777216 % 16 = _; omega
  simp only [decodeRow, decodeLow, decodeMajor4, a, b]; rfl

theorem row_50 (w : Nat) (h : w / 16777216 = 80) : decodeRow w = decode50 w := by
  have a : bits w 31 28 = 5 := by show w / 268435456 % 16 = _; omega
  have b : bits w 27 24 = 0 := by show w / 16777216 % 16 = _; omega
  simp only [decodeRow, decodeLow, decodeMajor5, a, b]; rfl

theorem row_58 (w : Nat) (h : w / 16777216 = 88) : decodeRow w = decode58 w := by
  have a : bits w 31 28 = 5 := by show w / 268435456 % 16 = _; omega
  have b : bits w 27 24 = 8 := by show w / 16777216 % 16 = _; omega
  simp only [decodeRow, decodeLow, decodeMajor5, a, b]; rfl

theorem row_59 (w : Nat) (h : w / 16777216 = 89) : decodeRow w = decode59 w := by
  have a : bits w 31 28 = 5 := by show w / 268435456 % 16 = _; omega
  have b : bits w 27 24 = 9 := by show w / 16777216 % 16 = _; omega
  simp only [decodeRow, decodeLow, decodeMajor5, a, b]; rfl

theorem row_5A (w : Nat) (h : w / 16777216 = 90) : decodeRow w = decode5A w := by
  have a : bits w 31 28 = 5 := by show w / 268435456 % 16 = _; omega
  have b : bits w 27 24 = 10 := by show w / 16777216 % 16 = _; omega
  simp only [decodeRow, decodeLow, decodeMajor5, a, b]; rfl

theorem row_5B (w : Nat) (h : w / 16777216 = 91) : decodeRow w = decode5B w := by
  have a : bits w 31 28 = 5 := by show w / 268435456 % 16 = _; omega
  have b : bits w 27 24 = 11 := by show w / 16777216 % 16 = _; omega
  simp only [decodeRow, decodeLow, decodeMajor5, a, b]; rfl

theorem row_5C (w : Nat) (h : w / 16777216 = 92) : decodeRow w = decode5C w := by
  have a : bits w 31 28 = 5 := by show w / 268435456 % 16 = _; omega
  have b : bits w 27 24 = 12 := by show w / 16777216 % 16 = _; omega
  simp only [decodeRow, decodeLow, decodeMajor5, a, b]; rfl

theorem row_5D (w : Nat) (h : w / 16777216 = 93) : decodeRow w = decode5D w := by
  have a : bits w 31 28 = 5 := by show w / 268435456 % 16 = _; omega
  have b : bits w 27 24 = 13 := by show w / 16777216 % 16 = _; omega
  simp only [decodeRow, decodeLow, decodeMajor5, a, b]; rfl

theorem row_5E (w : Nat) (h : w / 16777216 = 94) : decodeRow w = decode5E w := by
  have a : bits w 31 28 = 5 := by show w / 268435456 % 16 = _; omega
  have b : bits w 27 24 = 14 := by show w / 16777216 % 16 = _; omega
  simp only [decodeRow, decodeLow, decodeMajor5, a, b]; rfl

theorem row_5F (w : Nat) (h : w / 16777216 = 95) : decodeRow w = decode5F w := by
  have a : bits w 31 28 = 5 := by show w / 268435456 % 16 = _; omega
  have b : bits w 27 24 = 15 := by show w / 16777216 % 16 = _; omega
  simp only [decodeRow, decodeLow, decodeMajor5, a, b]; rfl

theorem row_60 (w : Nat) (h : w / 16777216 = 96) : decodeRow w = decode60 w := by
  have a : bits w 31 28 = 6 := by show w / 268435456 % 16 = _; omega
  have b : bits w 27 24 = 0 := by show w / 16777216 % 16 = _; omega
  simp only [decodeRow, decodeLow, decodeMajor6, a, b]; rfl

theorem row_61 (w : Nat) (h : w / 16777216 = 97) : decodeRow w = decode61 w := by
  have a : bits w 31 28 = 6 := by show w / 268435456 % 16 = _; omega
  have b : bits w 27 24 = 1 := by show w / 16777216 % 16 = _; omega
  simp only [decodeRow, decodeLow, decodeMajor6, a, b]; rfl

theorem row_62 (w : Nat) (h : w / 16777216 = 98) : decodeRow w = decode62 w := by
  have a : bits w 31 28 = 6 := by show w / 268435456 % 16 = _; omega
  have b : bits w 27 24 = 2 := by show w / 16777216 % 16 = _; omega
  simp only [decodeRow, decodeLow, decodeMajor6, a, b]; rfl

theorem row_63 (w : Nat) (h : w / 16777216 = 99) : decodeRow w = decode63 w := by
  have a : bits w 31 28 = 6 := by show w / 268435456 % 16 = _; omega
  have b : bits w 27 24 = 3 := by show w / 16777216 % 16 = _; omega
  simp only [decodeRow, decodeLow, decodeMajor6, a, b]; rfl

theorem row_64 (w : Nat) (h : w / 16777216 = 100) : decodeRow w = decode64 w := by
  have a : bits w 31 28 = 6 := by show w / 268435456 % 16 = _; omega
  have b : bits w 27 24 = 4 := by show w / 16777216 % 16 = _; omega
  simp only [decodeRow, decodeLow, decodeMajor6, a, b]; rfl

theorem row_65 (w : Nat) (h : w / 16777216 = 101) : decodeRow w = decode65 w := by
  have a : bits w 31 28 = 6 := by show w / 268435456 % 16 = _; omega
  have b : bits w 27 24 = 5 := by show w / 16777216 % 16 = _; omega
  simp only [decodeRow, decodeLow, decodeMajor6, a, b]; rfl

theorem row_66 (w : Nat) (h : w / 16777216 = 102) : decodeRow w = decode66 w := by
  have a : bits w 31 28 = 6 := by show w / 268435456 % 16 = _; omega
  have b : bits w 27 24 = 6 := by show w / 16777216 % 16 = _; omega
  simp only [decodeRow, decodeLow, decodeMajor6, a, b]; rfl

theorem row_67 (w : Nat) (h : w / 16777216 = 103) : decodeRow w = decode67 w := by
  have a : bits w 31 28 = 6 := by show w / 268435456 % 16 = _; omega
  have b : bits w 27 24 = 7 := by show w / 16777216 % 16 = _; omega
  simp only [decodeRow, decodeLow, decodeMajor6, a, b]; rfl

theorem row_68 (w : Nat) (h : w / 16777216 = 104) : decodeRow w = decode68 w := by
  have a : bits w 31 28 = 6 := by show w / 268435456 % 16 = _; omega
  have b : bits w 27 24 = 8 := by show w / 16777216 % 16 = _; omega
  simp only [decodeRow, decodeLow, decodeMajor6, a, b]; rfl

theorem row_69 (w : Nat) (h : w / 16777216 = 105) : decodeRow w = decode69 w := by
  have a : bits w 31 28 = 6 := by show w / 268435456 % 16 = _; omega
  have b : bits w 27 24 = 9 := by show w / 16777216 % 16 = _; omega
  simp only [decodeRow, decodeLow, decodeMajor6, a, b]; rfl

theorem row_6A (w : Nat) (h : w / 16777216 = 106) : decodeRow w = decode6A w := by
  have a : bits w 31 28 = 6 := by show w / 268435456 % 16 = _; omega
  have b : bits w 27 24 = 10 := by show w / 16777216 % 16 = _; omega
  simp only [decodeRow, decodeLow, decodeMajor6, a, b]; rfl

theorem row_6B (w : Nat) (h : w / 16777216 = 107) : decodeRow w = decode6B w := by
  have a : bits w 31 28 = 6 := by show w / 268435456 % 16 = _; omega
  have b : bits w 27 24 = 11 := by show w / 16777216 % 16 = _; omega
  simp only [decodeRow, decodeLow, decodeMajor6, a, b]; rfl

theorem row_6C (w : Nat) (h : w / 16777216 = 108) : decodeRow w = decode6C w := by
  have a : bits w 31 28 = 6 := by show w / 268435456 % 16 = _; omega
  have b : bits w 27 24 = 12 := by show w / 16777216 % 16 = _; omega
  simp only [decodeRow, decodeLow, decodeMajor6, a, b]; rfl

theorem row_6D (w : Nat) (h : w / 16777216 = 109) : decodeRow w = decode6D w := by
  have a : bits w 31 28 = 6 := by show w / 268435456 % 16 = _; omega
  have b : bits w 27 24 = 13 := by show w / 16777216 % 16 = _; omega
  simp only [decodeRow, decodeLow, decodeMajor6, a, b]; rfl

theorem row_6E (w : Nat) (h : w / 16777216 = 110) : decodeRow w = decode6E w := by
  have a : bits w 31 28 = 6 := by show w / 268435456 % 16 = _; omega
  have b : bits w 27 24 = 14 := by show w / 16777216 % 16 = _; omega
  simp only [decodeRow, decodeLow, decodeMajor6, a, b]; rfl

theorem row_6F (w : Nat) (h : w / 16777216 = 111) : decodeRow w = decode6F w := by
  have a : bits w 31 28 = 6 := by show w / 268435456 % 16 = _; omega
  have b : bits w 27 24 = 15 := by show w / 16777216 % 16 = _; omega
  simp only [decodeRow, decodeLow, decodeMajor6, a, b]; rfl

theorem row_70 (w : Nat) (h : w / 16777216 = 112) : decodeRow w = decode70 w := by
  have a : bits w 31 28 = 7 := by show w / 268435456 % 16 = _; omega
  have b : bits w 27 24 = 0 := by show w / 16777216 % 16 = _; omega
  simp only [decodeRow, decodeLow, decodeMajor7, a, b]; rfl

theorem row_71 (w : Nat) (h : w / 16777216 = 113) : decodeRow w = decode71 w := by
  have a : bits w 31 28 = 7 := by show w / 268435456 % 16 = _; omega
  have b : bits w 27 24 = 1 := by show w / 16777216 % 16 = _; omega
  simp only [decodeRow, decodeLow, decodeMajor7, a, b]; rfl

theorem row_72 (w : Nat) (h : w / 16777216 = 114) : decodeRow w = decode72 w := by
  have a : bits w 31 28 = 7 := by show w / 268435456 % 16 = _; omega
  have b : bits w 27 24 = 2 := by show w / 16777216 % 16 = _; omega
  simp only [decodeRow, decodeLow, decodeMajor7, a, b]; rfl

theorem row_73 (w : Nat) (h : w / 16777216 = 115) : decodeRow w = decode73 w := by
  have a : bits w 31 28 = 7 := by show w / 268435456 % 16 = _; omega
  have b : bits w 27 24 = 3 := by show w / 16777216 % 16 = _; omega
  simp only [decodeRow, decodeLow, decodeMajor7, a, b]; rfl

theorem row_74 (w : Nat) (h : w / 16777216 = 116) : decodeRow w = decode74 w := by
  have a : bits w 31 28 = 7 := by show w / 268435456 % 16 = _; omega
  have b : bits w 27 24 = 4 := by show w / 16777216 % 16 = _; omega
  simp only [decodeRow, decodeLow, decodeMajor7, a, b]; rfl

theorem row_75 (w : Nat) (h : w / 16777216 = 117) : decodeRow w = decode75 w := by
  have a : bits w 31 28 = 7 := by show w / 268435456 % 16 = _; omega
  have b : bits w 27 24 = 5 := by show w / 16777216 % 16 = _; omega
  simp only [decodeRow, decodeLow, decodeMajor7, a, b]; rfl

theorem row_76 (w : Nat) (h : w / 16777216 = 118) : decodeRow w = decode76 w := by
  have a : bits w 31 28 = 7 := by show w / 268435456 % 16 = _; omega
  have b : bits w 27 24 = 6 := by show w / 16777216 % 16 = _; omega
  simp only [decodeRow, decodeLow, decodeMajor7, a, b]; rfl

theorem row_77 (w : Nat) (h : w / 16777216 = 119) : decodeRow w = decode77 w := by
  have a : bits w 31 28 = 7 := by show w / 268435456 % 16 = _; omega
  have b : bits w 27 24 = 7 := by show w / 16777216 % 16 = _; omega
  simp only [decodeRow, decodeLow, decodeMajor7, a, b]; rfl

theorem row_78 (w : Nat) (h : w / 16777216 = 120) : decodeRow w = decode78 w := by
  have a : bits w 31 28 = 7 := by show w / 268435456 % 16 = _; omega
  have b : bits w 27 24 = 8 := by show w / 16777216 % 16 = _; omega
  simp only [decodeRow, decodeLow, decodeMajor7, a, b]; rfl

theorem row_79 (w : Nat) (h : w / 16777216 = 121) : decodeRow w = decode79 w := by
  have a : bits w 31 28 = 7 := by show w / 268435456 % 16 = _; omega
  have b : bits w 27 24 = 9 := by show w / 16777216 % 16 = _; omega
  simp only [decodeRow, decodeLow, decodeMajor7, a, b]; rfl

theorem row_7A (w : Nat) (h : w / 16777216 = 122) : decodeRow w = decode7A w := by
  have a : bits w 31 28 = 7 := by show w / 268435456 % 16 = _; omega
  have b : bits w 27 24 = 10 := by show w / 16777216 % 16 = _; omega
  simp only [decodeRow, decodeLow, decodeMajor7, a, b]; rfl

theorem row_7B (w : Nat) (h : w / 16777216 = 123) : decodeRow w = decode7B w := by
  have a : bits w 31 28 = 7 := by show w / 268435456 % 16 = _; omega
  have b : bits w 27 24 = 11 := by show w / 16777216 % 16 = _; omega
  simp only [decodeRow, decodeLow, decodeMajor7, a, b]; rfl

theorem row_80 (w : Nat) (h : w / 16777216 = 128) : decodeRow w = decode80 w := by
  have a : bits w 31 28 = 8 := by show w / 268435456 % 16 = _; omega
  have b : bits w 27 24 = 0 := by show w / 16777216 % 16 = _; omega
  simp only [decodeRow, decodeLow, decodeMajor8, a, b]; rfl

theorem row_81 (w : Nat) (h : w / 16777216 = 129) : decodeRow w = decode81 w := by
  have a : bits w 31 28 = 8 := by show w / 268435456 % 16 = _; omega
  have b : bits w 27 24 = 1 := by show w / 16777216 % 16 = _; omega
  simp only [decodeRow, decodeLow, decodeMajor8, a, b]; rfl

theorem row_82 (w : Nat) (h : w / 16777216 = 130) : decodeRow w = decode82 w := by
  have a : bits w 31 28 = 8 := by show w / 268435456 % 16 = _; omega
  have b : bits w 27 24 = 2 := by show w / 16777216 % 16 = _; omega
  simp only [decodeRow, decodeLow, decodeMajor8, a, b]; rfl

theorem row_83 (w : Nat) (h : w / 16777216 = 131) : decodeRow w = decode83 w := by
  have a : bits w 31 28 = 8 := by show w / 268435456 % 16 = _; omega
  have b : bits w 27 24 = 3 := by show w / 16777216 % 16 = _; omega
  simp only [decodeRow, decodeLow, decodeMajor8, a, b]; rfl

theorem row_84 (w : Nat) (h : w / 16777216 = 132) : decodeRow w = decode84 w := by
  have a : bits w 31 28 = 8 := by show w / 268435456 % 16 = _; omega
  have b : bits w 27 24 = 4 := by show w / 16777216 % 16 = _; omega
  simp only [decodeRow, decodeLow, decodeMajor8, a, b]; rfl

theorem row_85 (w : Nat) (h : w / 16777216 = 133) : decodeRow w = decode85 w := by
  have a : bits w 31 28 = 8 := by show w / 268435456 % 16 = _; omega
  have b : bits w 27 24 = 5 := by show w / 16777216 % 16 = _; omega
  simp only [decodeRow, decodeLow, decodeMajor8, a, b]; rfl

theorem row_86 (w : Nat) (h : w / 16777216 = 134) : decodeRow w = decode86 w := by
  have a : bits w 31 28 = 8 := by show w / 268435456 % 16 = _; omega
  have b : bits w 27 24 = 6 := by show w / 16777216 % 16 = _; omega
  simp only [decodeRow, decodeLow, decodeMajor8, a, b]; rfl

theorem row_87 (w : Nat) (h : w / 16777216 = 135) : decodeRow w = decode87 w := by
  have a : bits w 31 28 = 8 := by show w / 268435456 % 16 = _; omega
  have b : bits w 27 24 = 7 := by show w / 16777216 % 16 = _; omega
  simp only [decodeRow, decodeLow, decodeMajor8, a, b]; rfl

theorem row_88 (w : Nat) (h : w / 16777216 = 136) : decodeRow w = decode88 w := by
  have a : bits w 31 28 = 8 := by show w / 268435456 % 16 = _; omega
  have b : bits w 27 24 = 8 := by show w / 16777216 % 16 = _; omega
  simp only [decodeRow, decodeLow, decodeMajor8, a, b]; rfl

theorem row_89 (w : Nat) (h : w / 16777216 = 137) : decodeRow w = decode89 w := by
  have a : bits w 31 28 = 8 := by show w / 268435456 % 16 = _; omega
  have b : bits w 27 24 = 9 := by show w / 16777216 % 16 = _; omega
  simp only [decodeRow, decodeLow, decodeMajor8, a, b]; rfl

theorem row_8A (w : Nat) (h : w / 16777216 = 138) : decodeRow w = decode8A w := by
  have a : bits w 31 28 = 8 := by show w / 268435456 % 16 = _; omega
  have b : bits w 27 24 = 10 := by show w / 16777216 % 16 = _; omega
  simp only [decodeRow, decodeLow, decodeMajor8, a, b]; rfl

theorem row_8B (w : Nat) (h : w / 16777216 = 139) : decodeRow w = decode8B w := by
  have a : bits w 31 28 = 8 := by show w / 268435456 % 16 = _; omega
  have b : bits w 27 24 = 11 := by show w / 16777216 % 16 = _; omega
  simp only [decodeRow, decodeLow, decodeMajor8, a, b]; rfl

theorem row_90 (w : Nat) (h : w / 16777216 = 144) : decodeRow w = decode90 w := by
  have a : bits w 31 28 = 9 := by show w / 268435456 % 16 = _; omega
  have b : bits w 27 24 = 0 := by show w / 16777216 % 16 = _; omega
  simp only [decodeRow, decodeLow, decodeMajor9, a, b]; rfl

theorem row_91 (w : Nat) (h : w / 16777216 = 145) : decodeRow w = decode91 w := by
  have a : bits w 31 28 = 9 := by show w / 268435456 % 16 = _; omega
  have b : bits w 27 24 = 1 := by show w / 16777216 % 16 = _; omega
  simp only [decodeRow, decodeLow, decodeMajor9, a, b]; rfl

theorem row_92 (w : Nat) (h : w / 16777216 = 146) : decodeRow w = decode92 w := by
  have a : bits w 31 28 = 9 := by show w / 268435456 % 16 = _; omega
  have b : bits w 27 24 = 2 := by show w / 16777216 % 16 = _; omega
  simp only [decodeRow, decodeLow, decodeMajor9, a, b]; rfl

theorem row_93 (w : Nat) (h : w / 16777216 = 147) : decodeRow w = decode93 w := by
  have a : bits w 31 28 = 9 := by show w / 268435456 % 16 = _; omega
  have b : bits w 27 24 = 3 := by show w / 16777216 % 16 = _; omega
  simp only [decodeRow, decodeLow, decodeMajor9, a, b]; rfl

theorem row_94 (w : Nat) (h : w / 16777216 = 148) : decodeRow w = decode94 w := by
  have a : bits w 31 28 = 9 := by show w / 268435456 % 16 = _; omega
  have b : bits w 27 24 = 4 := by show w / 16777216 % 16 = _; omega
  simp only [decodeRow, decodeLow, decodeMajor9, a, b]; rfl

theorem row_95 (w : Nat) (h : w / 16777216 = 149) : decodeRow w = decode95 w := by
  have a : bits w 31 28 = 9 := by show w / 268435456 % 16 = _; omega
  have b : bits w 27 24 = 5 := by show w / 16777216 % 16 = _; omega
  simp only [decodeRow, decodeLow, decodeMajor9, a, b]; rfl

theorem row_96 (w : Nat) (h : w / 16777216 = 150) : decodeRow w = decode96 w := by
  have a : bits w 31 28 = 9 := by show w / 268435456 % 16 = _; omega
  have b : bits w 27 24 = 6 := by show w / 16777216 % 16 = _; omega
  simp only [decodeRow, decodeLow, decodeMajor9, a, b]; rfl

theorem row_98 (w : Nat) (h : w / 16777216 = 152) : decodeRow w = decode98 w := by
  have a : bits w 31 28 = 9 := by show w / 268435456 % 16 = _; omega
  have b : bits w 27 24 = 8 := by show w / 16777216 % 16 = _; omega
  simp only [decodeRow, decodeLow, decodeMajor9, a, b]; rfl

theorem row_99 (w : Nat) (h : w / 16777216 = 153) : decodeRow w = decode99 w := by
  have a : bits w 31 28 = 9 := by show w / 268435456 % 16 = _; omega
  have b : bits w 27 24 = 9 := by show w / 16777216 % 16 = _; omega
  simp only [decodeRow, decodeLow, decodeMajor9, a, b]; rfl

theorem row_9A (w : Nat) (h : w / 16777216 = 154) : decodeRow w = decode9A w := by
  have a : bits w 31 28 = 9 := by show w / 268435456 % 16 = _; omega
  have b : bits w 27 24 = 10 := by show w / 16777216 % 16 = _; omega
  simp only [decodeRow, decodeLow, decodeMajor9, a, b]; rfl

theorem row_9B (w : Nat) (h : w / 16777216 = 155) : decodeRow w = decode9B w := by
  have a : bits w 31 28 = 9 := by show w / 268435456 % 16 = _; omega
  have b : bits w 27 24 = 11 := by show w / 16777216 % 16 = _; omega
  simp only [decodeRow, decodeLow, decodeMajor9, a, b]; rfl

theorem row_9C (w : Nat) (h : w / 16777216 = 156) : decodeRow w = decode9C w := by
  have a : bits w 31 28 = 9 := by show w / 268435456 % 16 = _; omega
  have b : bits w 27 24 = 12 := by show w / 16777216 % 16 = _; omega
  simp only [decodeRow, decodeLow, decodeMajor9, a, b]; rfl

theorem row_9D (w : Nat) (h : w / 16777216 = 157) : decodeRow w = decode9D w := by
  have a : bits w 31 28 = 9 := by show w / 268435456 % 16 = _; omega
  have b : bits w 27 24 = 13 := by show w / 16777216 % 16 = _; omega
  simp only [decodeRow, decodeLow, decodeMajor9, a, b]; rfl

theorem row_9E (w : Nat) (h : w / 16777216 = 158) : decodeRow w = decode9E w := by
  have a : bits w 31 28 = 9 := by show w / 268435456 % 16 = _; omega
  have b : bits w 27 24 = 14 := by show w / 16777216 % 16 = _; omega
  simp only [decodeRow, decodeLow, decodeMajor9, a, b]; rfl

theorem row_9F (w : Nat) (h : w / 16777216 = 159) : decodeRow w = decode9F w := by
  have a : bits w 31 28 = 9 := by show w / 268435456 % 16 = _; omega
  have b : bits w 27 24 = 15 := by show w / 16777216 % 16 = _; omega
  simp only [decodeRow, decodeLow, decodeMajor9, a, b]; rfl

theorem row_A0 (w : Nat) (h : w / 16777216 = 160) : decodeRow w = decodeA0 w := by
  have a : bits w 31 28 = 10 := by show w / 268435456 % 16 = _; omega
  have b : bits w 27 24 = 0 := by show w / 16777216 % 16 = _; omega
  simp only [decodeRow, decodeLow, decodeMajorA, a, b]; rfl

theorem row_A1 (w : Nat) (h : w / 16777216 = 161) : decodeRow w = decodeA1 w := by
  have a : bits w 31 28 = 10 := by show w / 268435456 % 16 = _; omega
  have b : bits w 27 24 = 1 := by show w / 16777216 % 16 = _; omega
  simp only [decodeRow, decodeLow, decodeMajorA, a, b]; rfl

theorem row_A2 (w : Nat) (h : w / 16777216 = 162) : decodeRow w = decodeA2 w := by
  have a : bits w 31 28 = 10 := by show w / 268435456 % 16 = _; omega
  have b : bits w 27 24 = 2 := by show w / 16777216 % 16 = _; omega
  simp only [decodeRow, decodeLow, decodeMajorA, a, b]; rfl

theorem row_A3 (w : Nat) (h : w / 16777216 = 163) : decodeRow w = decodeA3 w := by
  have a : bits w 31 28 = 10 := by show w / 268435456 % 16 = _; omega
  have b : bits w 27 24 = 3 := by show w / 16777216 % 16 = _; omega
  simp only [decodeRow, decodeLow, decodeMajorA, a, b]; rfl

theorem row_A4 (w : Nat) (h : w / 16777216 = 164) : decodeRow w = decodeA4 w := by
  have a : bits w 31 28 = 10 := by show w / 268435456 % 16 = _; omega
  have b : bits w 27 24 = 4 := by show w / 16777216 % 16 = _; omega
  simp only [decodeRow, decodeLow, decodeMajorA, a, b]; rfl

theorem row_A5 (w : Nat) (h : w / 16777216 = 165) : decodeRow w = decodeA5 w := by
  have a : bits w 31 28 = 10 := by show w / 268435456 % 16 = _; omega
  have b : bits w 27 24 = 5 := by show w / 16777216 % 16 = _; omega
  simp only [decodeRow, decodeLow, decodeMajorA, a, b]; rfl

theorem row_A6 (w : Nat) (h : w / 16777216 = 166) : decodeRow w = decodeA6 w := by
  have a : bits w 31 28 = 10 := by show w / 268435456 % 16 = _; omega
  have b : bits w 27 24 = 6 := by show w / 16777216 % 16 = _; omega
  simp only [decodeRow, decodeLow, decodeMajorA, a, b]; rfl

theorem row_A7 (w : Nat) (h : w / 16777216 = 167) : decodeRow w = decodeA7 w := by
  have a : bits w 31 28 = 10 := by show w / 268435456 % 16 = _; omega
  have b : bits w 27 24 = 7 := by show w / 16777216 % 16 = _; omega
  simp only [decodeRow, decodeLow, decodeMajorA, a, b]; rfl

theorem row_A8 (w : Nat) (h : w / 16777216 = 168) : decodeRow w = decodeA8 w := by
  have a : bits w 31 28 = 10 := by show w / 268435456 % 16 = _; omega
  have b : bits w 27 24 = 8 := by show w / 16777216 % 16 = _; omega
  simp only [decodeRow, decodeLow, decodeMajorA, a, b]; rfl

theorem row_A9 (w : Nat) (h : w / 16777216 = 169) : decodeRow w = decodeA9 w := by
  have a : bits w 31 28 = 10 := by show w / 268435456 % 16 = _; omega
  have b : bits w 27 24 = 9 := by show w / 16777216 % 16 = _; omega
  simp only [decodeRow, decodeLow, decodeMajorA, a, b]; rfl

theorem row_AA (w : Nat) (h : w / 16777216 = 170) : decodeRow w = decodeAA w := by
  have a : bits w 31 28 = 10 := by show w / 268435456 % 16 = _; omega
  have b : bits w 27 24 = 10 := by show w / 16777216 % 16 = _; omega
  simp only [decodeRow, decodeLow, decodeMajorA, a, b]; rfl

theorem row_AB (w : Nat) (h : w / 16777216 = 171) : decodeRow w = decodeAB w := by
  have a : bits w 31 28 = 10 := by show w / 268435456 % 16 = _; omega
  have b : bits w 27 24 = 11 := by show w / 16777216 % 16 = _; omega
  simp only [decodeRow, decodeLow, decodeMajorA, a, b]; rfl

theorem row_AC (w : Nat) (h : w / 16777216 = 172) : decodeRow w = decodeAC w := by
  have a : bits w 31 28 = 10 := by show w / 268435456 % 16 = _; omega
  have b : bits w 27 24 = 12 := by show w / 16777216 % 16 = _; omega
  simp only [decodeRow, decodeLow, decodeMajorA, a, b]; rfl

theorem row_AD (w : Nat) (h : w / 16777216 = 173) : decodeRow w = decodeAD w := by
  have a : bits w 31 28 = 10 := by show w / 268435456 % 16 = _; omega
  have b : bits w 27 24 = 13 := by show w / 16777216 % 16 = _; omega
  simp only [decodeRow, decodeLow, decodeMajorA, a, b]; rfl

theorem row_AE (w : Nat) (h : w / 16777216 = 174) : decodeRow w = decodeAE w := by
  have a : bits w 31 28 = 10 := by show w / 268435456 % 16 = _; omega
  have b : bits w 27 24 = 14 := by show w / 16777216 % 16 = _; omega
  simp only [decodeRow, decodeLow, decodeMajorA, a, b]; rfl

theorem row_AF (w : Nat) (h : w / 16777216 = 175) : decodeRow w = decodeAF w := by
  have a : bits w 31 28 = 10 := by show w / 268435456 % 16 = _; omega
  have b : bits w 27 24 = 15 := by show w / 16777216 % 16 = _; omega
  simp only [decodeRow, decodeLow, decodeMajorA, a, b]; rfl

theorem row_B0 (w : Nat) (h : w / 16777216 = 176) : decodeRow w = decodeB0 w := by
  have a : bits w 31 28 = 11 := by show w / 268435456 % 16 = _; omega
  have b : bits w 27 24 = 0 := by show w / 16777216 % 16 = _; omega
  simp only [decodeRow, decodeLow, decodeMajorB, a, b]; rfl

theorem row_B1 (w : Nat) (h : w / 16777216 = 177) : decodeRow w = decodeB1 w := by
  have a : bits w 31 28 = 11 := by show w / 268435456 % 16 = _; omega
  have b : bits w 27 24 = 1 := by show w / 16777216 % 16 = _; omega
  simp only [decodeRow, decodeLow, decodeMajorB, a, b]; rfl

theorem row_B2 (w : Nat) (h : w / 16777216 = 178) : decodeRow w = decodeB2 w := by
  have a : bits w 31 28 = 11 := by show w / 268435456 % 16 = _; omega
  have b : bits w 27 24 = 2 := by show w / 16777216 % 16 = _; omega
  simp only [decodeRow, decodeLow, decodeMajorB, a, b]; rfl

theorem row_B3 (w : Nat) (h : w / 16777216 = 179) : decodeRow w = decodeB3 w := by
  have a : bits w 31 28 = 11 := by show w / 268435456 % 16 = _; omega
  have b : bits w 27 24 = 3 := by show w / 16777216 % 16 = _; omega
  simp only [decodeRow, decodeLow, decodeMajorB, a, b]; rfl

theorem row_B4 (w : Nat) (h : w / 16777216 = 180) : decodeRow w = decodeB4 w := by
  have a : bits w 31 28 = 11 := by show w / 268435456 % 16 = _; omega
  have b : bits w 27 24 = 4 := by show w / 16777216 % 16 = _; omega
  simp only [decodeRow, decodeLow, decodeMajorB, a, b]; rfl

theorem row_B5 (w : Nat) (h : w / 16777216 = 181) : decodeRow w = decodeB5 w := by
  have a : bits w 31 28 = 11 := by show w / 268435456 % 16 = _; omega
  have b : bits w 27 24 = 5 := by show w / 16777216 % 16 = _; omega
  simp only [decodeRow, decodeLow, decodeMajorB, a, b]; rfl

theorem row_B6 (w : Nat) (h : w / 16777216 = 182) : decodeRow w = decodeB6 w := by
  have a : bits w 31 28 = 11 := by show w / 268435456 % 16 = _; omega
  have b : bits w 27 24 = 6 := by show w / 16777216 % 16 = _; omega
  simp only [decodeRow, decodeLow, decodeMajorB, a, b]; rfl

theorem row_B7 (w : Nat) (h : w / 16777216 = 183) : decodeRow w = decodeB7 w := by
  have a : bits w 31 28 = 11 := by show w / 268435456 % 16 = _; omega
  have b : bits w 27 24 = 7 := by show w / 16777216 % 16 = _; omega
  simp only [decodeRow, decodeLow, decodeMajorB, a, b]; rfl

theorem row_B8 (w : Nat) (h : w / 16777216 = 184) : decodeRow w = decodeB8 w := by
  have a : bits w 31 28 = 11 := by show w / 268435456 % 16 = _; omega
  have b : bits w 27 24 = 8 := by show w / 16777216 % 16 = _; omega
  simp only [decodeRow, decodeLow, decodeMajorB, a, b]; rfl

theorem row_B9 (w : Nat) (h : w / 16777216 = 185) : decodeRow w = decodeB9 w := by
  have a : bits w 31 28 = 11 := by show w / 268435456 % 16 = _; omega
  have b : bits w 27 24 = 9 := by show w / 16777216 % 16 = _; omega
  simp only [decodeRow, decodeLow, decodeMajorB, a, b]; rfl

theorem row_BA (w : Nat) (h : w / 16777216 = 186) : decodeRow w = decodeBA w := by
  have a : bits w 31 28 = 11 := by show w / 268435456 % 16 = _; omega
  have b : bits w 27 24 = 10 := by show w / 16777216 % 16 = _; omega
  simp only [decodeRow, decodeLow, decodeMajorB, a, b]; rfl

theorem row_BB (w : Nat) (h : w / 16777216 = 187) : decodeRow w = decodeBB w := by
  have a : bits w 31 28 = 11 := by show w / 268435456 % 16 = _; omega
  have b : bits w 27 24 = 11 := by show w / 16777216 % 16 = _; omega
  simp only [decodeRow, decodeLow, decodeMajorB, a, b]; rfl

theorem row_BC (w : Nat) (h : w / 16777216 = 188) : decodeRow w = decodeBC w := by
  have a : bits w 31 28 = 11 := by show w / 268435456 % 16 = _; omega
  have b : bits w 27 24 = 12 := by show w / 16777216 % 16 = _; omega
  simp only [decodeRow, decodeLow, decodeMajorB, a, b]; rfl

theorem row_BD (w : Nat) (h : w / 16777216 = 189) : decodeRow w = decodeBD w := by
  have a : bits w 31 28 = 11 := by show w / 268435456 % 16 = _; omega
  have b : bits w 27 24 = 13 := by show w / 16777216 % 16 = _; omega
  simp only [decodeRow, decodeLow, decodeMajorB, a, b]; rfl

theorem row_C0 (w : Nat) (h : w / 16777216 = 192) : decodeRow w = decodeC0 w := by
  have a : bits w 31 28 = 12 := by show w / 268435456 % 16 = _; omega
  have b : bits w 27 24 = 0 := by show w / 16777216 % 16 = _; omega
  simp only [decodeRow, decodeLow, decodeMajorC, a, b]; rfl

theorem row_C1 (w : Nat) (h : w / 16777216 = 193) : decodeRow w = decodeC1 w := by
  have a : bits w 31 28 = 12 := by show w / 268435456 % 16 = _; omega
  have b : bits w 27 24 = 1 := by show w / 16777216 % 16 = _; omega
  simp only [decodeRow, decodeLow, decodeMajorC, a, b]; rfl

theorem row_C2 (w : Nat) (h : w / 16777216 = 194) : decodeRow w = decodeC2 w := by
  have a : bits w 31 28 = 12 := by show w / 268435456 % 16 = _; omega
  have b : bits w 27 24 = 2 := by show w / 16777216 % 16 = _; omega
  simp only [decodeRow, decodeLow, decodeMajorC, a, b]; rfl

theorem row_C8 (w : Nat) (h : w / 16777216 = 200) : decodeRow w = decodeC8 w := by
  have a : bits w 31 28 = 12 := by show w / 268435456 % 16 = _; omega
  have b : bits w 27 24 = 8 := by show w / 16777216 % 16 = _; omega
  simp only [decodeRow, decodeLow, decodeMajorC, a, b]; rfl

theorem row_D0 (w : Nat) (h : w / 16777216 = 208) : decodeRow w = decodeD0 w := by
  have a : bits w 31 28 = 13 := by show w / 268435456 % 16 = _; omega
  have b : bits w 27 24 = 0 := by show w / 16777216 % 16 = _; omega
  simp only [decodeRow, decodeHigh, decodeMajorD, a, b]; rfl

theorem row_D1 (w : Nat) (h : w / 16777216 = 209) : decodeRow w = decodeD1 w := by
  have a : bits w 31 28 = 13 := by show w / 268435456 % 16 = _; omega
  have b : bits w 27 24 = 1 := by show w / 16777216 % 16 = _; omega
  simp only [decodeRow, decodeHigh, decodeMajorD, a, b]; rfl

theorem row_D2 (w : Nat) (h : w / 16777216 = 210) : decodeRow w = decodeD2 w := by
  have a : bits w 31 28 = 13 := by show w / 268435456 % 16 = _; omega
  have b : bits w 27 24 = 2 := by show w / 16777216 % 16 = _; omega
  simp only [decodeRow, decodeHigh, decodeMajorD, a, b]; rfl

theorem row_D3 (w : Nat) (h : w / 16777216 = 211) : decodeRow w = decodeD3 w := by
  have a : bits w 31 28 = 13 := by show w / 268435456 % 16 = _; omega
  have b : bits w 27 24 = 3 := by show w / 16777216 % 16 = _; omega
  simp only [decodeRow, decodeHigh, decodeMajorD, a, b]; rfl

theorem row_D4 (w : Nat) (h : w / 16777216 = 212) : decodeRow w = decodeD4 w := by
  have a : bits w 31 28 = 13 := by show w / 268435456 % 16 = _; omega
  have b : bits w 27 24 = 4 := by show w / 16777216 % 16 = _; omega
  simp only [decodeRow, decodeHigh, decodeMajorD, a, b]; rfl

theorem row_D5 (w : Nat) (h : w / 16777216 = 213) : decodeRow w = decodeD5 w := by
  have a : bits w 31 28 = 13 := by show w / 268435456 % 16 = _; omega
  have b : bits w 27 24 = 5 := by show w / 16777216 % 16 = _; omega
  simp only [decodeRow, decodeHigh, decodeMajorD, a, b]; rfl

theorem row_D6 (w : Nat) (h : w / 16777216 = 214) : decodeRow w = decodeD6 w := by
  have a : bits w 31 28 = 13 := by show w / 268435456 % 16 = _; omega
  have b : bits w 27 24 = 6 := by show w / 16777216 % 16 = _; omega
  simp only [decodeRow, decodeHigh, decodeMajorD, a, b]; rfl

theorem row_D7 (w : Nat) (h : w / 16777216 = 215) : decodeRow w = decodeD7 w := by
  have a : bits w 31 28 = 13 := by show w / 268435456 % 16 = _; omega
  have b : bits w 27 24 = 7 := by show w / 16777216 % 16 = _; omega
  simp only [decodeRow, decodeHigh, decodeMajorD, a, b]; rfl

theorem row_D8 (w : Nat) (h : w / 16777216 = 216) : decodeRow w = decodeD8 w := by
  have a : bits w 31 28 = 13 := by show w / 268435456 % 16 = _; omega
  have b : bits w 27 24 = 8 := by show w / 16777216 % 16 = _; omega
  simp only [decodeRow, decodeHigh, decodeMajorD, a, b]; rfl

theorem row_D9 (w : Nat) (h : w / 16777216 = 217) : decodeRow w = decodeD9 w := by
  have a : bits w 31 28 = 13 := by show w / 268435456 % 16 = _; omega
  have b : bits w 27 24 = 9 := by show w / 16777216 % 16 = _; omega
  simp only [decodeRow, decodeHigh, decodeMajorD, a, b]; rfl

theorem row_DA (w : Nat) (h : w / 16777216 = 218) : decodeRow w = decodeDA w := by
  have a : bits w 31 28 = 13 := by show w / 268435456 % 16 = _; omega
  have b : bits w 27 24 = 10 := by show w / 16777216 % 16 = _; omega
  simp only [decodeRow, decodeHigh, decodeMajorD, a, b]; rfl

theorem row_DB (w : Nat) (h : w / 16777216 = 219) : decodeRow w = decodeDB w := by
  have a : bits w 31 28 = 13 := by show w / 268435456 % 16 = _; omega
  have b : bits w 27 24 = 11 := by show w / 16777216 % 16 = _; omega
  simp only [decodeRow, decodeHigh, decodeMajorD, a, b]; rfl

theorem row_DC (w : Nat) (h : w / 16777216 = 220) : decodeRow w = decodeDC w := by
  have a : bits w 31 28 = 13 := by show w / 268435456 % 16 = _; omega
  have b : bits w 27 24 = 12 := by show w / 16777216 % 16 = _; omega
  simp only [decodeRow, decodeHigh, decodeMajorD, a, b]; rfl

theorem row_DD (w : Nat) (h : w / 16777216 = 221) : decodeRow w = decodeDD w := by
  have a : bits w 31 28 = 13 := by show w / 268435456 % 16 = _; omega
  have b : bits w 27 24 = 13 := by show w / 16777216 % 16 = _; omega
  simp only [decodeRow, decodeHigh, decodeMajorD, a, b]; rfl

theorem row_E0 (w : Nat) (h : w / 16777216 = 224) : decodeRow w = decodeE0 w := by
  have a : bits w 31 28 = 14 := by show w / 268435456 % 16 = _; omega
  have b : bits w 27 24 = 0 := by show w / 16777216 % 16 = _; omega
  simp only [decodeRow, decodeHigh, decodeMajorE, a, b]; rfl

theorem row_E8 (w : Nat) (h : w / 16777216 = 232) : decodeRow w = decodeE8 w := by
  have a : bits w 31 28 = 14 := by show w / 268435456 % 16 = _; omega
  have b : bits w 27 24 = 8 := by show w / 16777216 % 16 = _; omega
  simp only [decodeRow, decodeHigh, decodeMajorE, a, b]; rfl

theorem row_E9 (w : Nat) (h : w / 16777216 = 233) : decodeRow w = decodeE9 w := by
  have a : bits w 31 28 = 14 := by show w / 268435456 % 16 = _; omega
  have b : bits w 27 24 = 9 := by show w / 16777216 % 16 = _; omega
  simp only [decodeRow, decodeHigh, decodeMajorE, a, b]; rfl

theorem row_F0 (w : Nat) (h : w / 16777216 = 240) : decodeRow w = decodeF0 w := by
  have a : bits w 31 28 = 15 := by show w / 268435456 % 16 = _; omega
  have b : bits w 27 24 = 0 := by show w / 16777216 % 16 = _; omega
  simp only [decodeRow, decodeHigh, decodeMajorF, a, b]; rfl

theorem row_F1 (w : Nat) (h : w / 16777216 = 241) : decodeRow w = decodeF1 w := by
  have a : bits w 31 28 = 15 := by show w / 268435456 % 16 = _; omega
  have b : bits w 27 24 = 1 := by show w / 16777216 % 16 = _; omega
  simp only [decodeRow, decodeHigh, decodeMajorF, a, b]; rfl

theorem row_F2 (w : Nat) (h : w / 16777216 = 242) : decodeRow w = decodeF2 w := by
  have a : bits w 31 28 = 15 := by show w / 268435456 % 16 = _; omega
  have b : bits w 27 24 = 2 := by show w / 16777216 % 16 = _; omega
  simp only [decodeRow, decodeHigh, decodeMajorF, a, b]; rfl

theorem row_F3 (w : Nat) (h : w / 16777216 = 243) : decodeRow w = decodeF3 w := by
  have a : bits w 31 28 = 15 := by show w / 268435456 % 16 = _; omega
  have b : bits w 27 24 = 3 := by show w / 16777216 % 16 = _; omega
  simp only [decodeRow, decodeHigh, decodeMajorF, a, b]; rfl

theorem row_F4 (w : Nat) (h : w / 16777216 = 244) : decodeRow w = decodeF4 w := by
  have a : bits w 31 28 = 15 := by show w / 268435456 % 16 = _; omega
  have b : bits w 27 24 = 4 := by show w / 16777216 % 16 = _; omega
  simp only [decodeRow, decodeHigh, decodeMajorF, a, b]; rfl

theorem row_F5 (w : Nat) (h : w / 16777216 = 245) : decodeRow w = decodeF5 w := by
  have a : bits w 31 28 = 15 := by show w / 268435456 % 16 = _; omega
  have b : bits w 27 24 = 5 := by show w / 16777216 % 16 = _; omega
  simp only [decodeRow, decodeHigh, decodeMajorF, a, b]; rfl

theorem row_F6 (w : Nat) (h : w / 16777216 = 246) : decodeRow w = decodeF6 w := by
  have a : bits w 31 28 = 15 := by show w / 268435456 % 16 = _; omega
  have b : bits w 27 24 = 6 := by show w / 16777216 % 16 = _; omega
  simp only [decodeRow, decodeHigh, decodeMajorF, a, b]; rfl

theorem row_F7 (w : Nat) (h : w / 16777216 = 247) : decodeRow w = decodeF7 w := by
  have a : bits w 31 28 = 15 := by show w / 268435456 % 16 = _; omega
  have b : bits w 27 24 = 7 := by show w / 16777216 % 16 = _; omega
  simp only [decodeRow, decodeHigh, decodeMajorF, a, b]; rfl

theorem row_F8 (w : Nat) (h : w / 16777216 = 248) : decodeRow w = decodeF8 w := by
  have a : bits w 31 28 = 15 := by show w / 268435456 % 16 = _; omega
  have b : bits w 27 24 = 8 := by show w / 16777216 % 16 = _; omega
  simp only [decodeRow, decodeHigh, decodeMajorF, a, b]; rfl

theorem row_F9 (w : Nat) (h : w / 16777216 = 249) : decodeRow w = decodeF9 w := by
  have a : bits w 31 28 = 15 := by show w / 268435456 % 16 = _; omega
  have b : bits w 27 24 = 9 := by show w / 16777216 % 16 = _; omega
  simp only [decodeRow, decodeHigh, decodeMajorF, a, b]; rfl

theorem row_FA (w : Nat) (h : w / 16777216 = 250) : decodeRow w = decodeFA w := by
  have a : bits w 31 28 = 15 := by show w / 268435456 % 16 = _; omega
  have b : bits w 27 24 = 10 := by show w / 16777216 % 16 = _; omega
  simp only [decodeRow, decodeHigh, decodeMajorF, a, b]; rfl

theorem row_FB (w : Nat) (h : w / 16777216 = 251) : decodeRow w = decodeFB w := by
  have a : bits w 31 28 = 15 := by show w / 268435456 % 16 = _; omega
  have b : bits w 27 24 = 11 := by show w / 16777216 % 16 = _; omega
  simp only [decodeRow, decodeHigh, decodeMajorF, a, b]; rfl

theorem row_FC (w : Nat) (h : w / 16777216 = 252) : decodeRow w = decodeFC w := by
  have a : bits w 31 28 = 15 := by show w / 268435456 % 16 = _; omega
  have b : bits w 27 24 = 12 := by show w / 16777216 % 16 = _; omega
  simp only [decodeRow, decodeHigh, decodeMajorF, a, b]; rfl

theorem row_FE (w : Nat) (h : w / 16777216 = 254) : decodeRow w = decodeFE w := by
  have a : bits w 31 28 = 15 := by show w / 268435456 % 16 = _; omega
  have b : bits w 27 24 = 14 := by show w / 16777216 % 16 = _; omega
  simp only [decodeRow, decodeHigh, decodeMajorF, a, b]; rfl

/-! ### The fields of a word, by their places -/

theorem layout0 (x0 x1 x2 c : Nat) (hc : c < 4294967296) (z0 : c / 131072 % 128 = 0) (z1 : c / 1024 % 128 = 0) (z2 : c / 8 % 128 = 0) (f0 : x0 < 2 ^ 7) (f1 : x1 < 2 ^ 7) (f2 : x2 < 2 ^ 7)
    (w : Nat) (e : x0 * 131072 + (x1 * 1024 + (x2 * 8 + c)) = w) :
    w < 2 ^ 32 ∧
    w / 16777216 = c / 16777216 ∧
    bits w 23 17 = x0 ∧
    bits w 16 10 = x1 ∧
    bits w 9 3 = x2 ∧
    bits w 2 0 = bits c 2 0 := by
  show w < 2 ^ 32 ∧
    w / 16777216 = c / 16777216 ∧
    w / 131072 % 128 = x0 ∧
    w / 1024 % 128 = x1 ∧
    w / 8 % 128 = x2 ∧
    w / 1 % 8 = c / 1 % 8
  refine ⟨by omega, by omega, by omega, by omega, by omega, by omega⟩

theorem layout1 (x0 x1 c : Nat) (hc : c < 4294967296) (z0 : c / 131072 % 128 = 0) (z1 : c / 1024 % 128 = 0) (f0 : x0 < 2 ^ 7) (f1 : x1 < 2 ^ 7)
    (w : Nat) (e : x0 * 131072 + (x1 * 1024 + c) = w) :
    w < 2 ^ 32 ∧
    w / 16777216 = c / 16777216 ∧
    bits w 23 17 = x0 ∧
    bits w 16 10 = x1 ∧
    bits w 9 0 = bits c 9 0 ∧
    bits w 2 0 = bits c 2 0 := by
  show w < 2 ^ 32 ∧
    w / 16777216 = c / 16777216 ∧
    w / 131072 % 128 = x0 ∧
    w / 1024 % 128 = x1 ∧
    w / 1 % 1024 = c / 1 % 1024 ∧
    w / 1 % 8 = c / 1 % 8
  refine ⟨by omega, by omega, by omega, by omega, by omega, by omega⟩

theorem layout2 (x0 x1 x2 x3 c : Nat) (hc : c < 4294967296) (z0 : c / 131072 % 128 = 0) (z1 : c / 1024 % 128 = 0) (z2 : c / 8 % 128 = 0) (z3 : c / 1 % 8 = 0) (f0 : x0 < 2 ^ 7) (f1 : x1 < 2 ^ 7) (f2 : x2 < 2 ^ 7) (f3 : x3 < 2 ^ 3)
    (w : Nat) (e : x0 * 131072 + (x1 * 1024 + (x2 * 8 + (x3 * 1 + c))) = w) :
    w < 2 ^ 32 ∧
    w / 16777216 = c / 16777216 ∧
    bits w 23 17 = x0 ∧
    bits w 16 10 = x1 ∧
    bits w 9 3 = x2 ∧
    bits w 2 0 = x3 := by
  show w < 2 ^ 32 ∧
    w / 16777216 = c / 16777216 ∧
    w / 131072 % 128 = x0 ∧
    w / 1024 % 128 = x1 ∧
    w / 8 % 128 = x2 ∧
    w / 1 % 8 = x3
  refine ⟨by omega, by omega, by omega, by omega, by omega, by omega⟩

theorem layout3 (x0 x1 x2 c : Nat) (hc : c < 4294967296) (z0 : c / 2097152 % 8 = 0) (z1 : c / 16384 % 8 = 0) (z2 : c / 128 % 8 = 0) (f0 : x0 < 2 ^ 3) (f1 : x1 < 2 ^ 3) (f2 : x2 < 2 ^ 3)
    (w : Nat) (e : x0 * 2097152 + (x1 * 16384 + (x2 * 128 + c)) = w) :
    w < 2 ^ 32 ∧
    w / 16777216 = c / 16777216 ∧
    bits w 23 21 = x0 ∧
    bits w 16 14 = x1 ∧
    bits w 9 7 = x2 ∧
    bits w 6 0 = bits c 6 0 ∧
    bits w 13 10 = bits c 13 10 ∧
    bits w 20 17 = bits c 20 17 := by
  show w < 2 ^ 32 ∧
    w / 16777216 = c / 16777216 ∧
    w / 2097152 % 8 = x0 ∧
    w / 16384 % 8 = x1 ∧
    w / 128 % 8 = x2 ∧
    w / 1 % 128 = c / 1 % 128 ∧
    w / 1024 % 16 = c / 1024 % 16 ∧
    w / 131072 % 16 = c / 131072 % 16
  refine ⟨by omega, by omega, by omega, by omega, by omega, by omega, by omega, by omega⟩

theorem layout4 (x0 x1 c : Nat) (hc : c < 4294967296) (z0 : c / 2097152 % 8 = 0) (z1 : c / 16384 % 8 = 0) (f0 : x0 < 2 ^ 3) (f1 : x1 < 2 ^ 3)
    (w : Nat) (e : x0 * 2097152 + (x1 * 16384 + c) = w) :
    w < 2 ^ 32 ∧
    w / 16777216 = c / 16777216 ∧
    bits w 23 21 = x0 ∧
    bits w 16 14 = x1 ∧
    bits w 6 0 = bits c 6 0 ∧
    bits w 13 10 = bits c 13 10 ∧
    bits w 20 17 = bits c 20 17 ∧
    bits w 13 0 = bits c 13 0 := by
  show w < 2 ^ 32 ∧
    w / 16777216 = c / 16777216 ∧
    w / 2097152 % 8 = x0 ∧
    w / 16384 % 8 = x1 ∧
    w / 1 % 128 = c / 1 % 128 ∧
    w / 1024 % 16 = c / 1024 % 16 ∧
    w / 131072 % 16 = c / 131072 % 16 ∧
    w / 1 % 16384 = c / 1 % 16384
  refine ⟨by omega, by omega, by omega, by omega, by omega, by omega, by omega, by omega⟩

theorem layout5 (x0 x1 x2 c : Nat) (hc : c < 4294967296) (z0 : c / 2097152 % 8 = 0) (z1 : c / 16384 % 128 = 0) (z2 : c / 128 % 128 = 0) (f0 : x0 < 2 ^ 3) (f1 : x1 < 2 ^ 7) (f2 : x2 < 2 ^ 7)
    (w : Nat) (e : x0 * 2097152 + (x1 * 16384 + (x2 * 128 + c)) = w) :
    w < 2 ^ 32 ∧
    w / 16777216 = c / 16777216 ∧
    bits w 23 21 = x0 ∧
    bits w 20 14 = x1 ∧
    bits w 13 7 = x2 ∧
    bits w 6 0 = bits c 6 0 := by
  show w < 2 ^ 32 ∧
    w / 16777216 = c / 16777216 ∧
    w / 2097152 % 8 = x0 ∧
    w / 16384 % 128 = x1 ∧
    w / 128 % 128 = x2 ∧
    w / 1 % 128 = c / 1 % 128
  refine ⟨by omega, by omega, by omega, by omega, by omega, by omega⟩

theorem layout6 (x0 x1 x2 c : Nat) (hc : c < 4294967296) (z0 : c / 131072 % 128 = 0) (z1 : c / 1024 % 128 = 0) (z2 : c / 1 % 1024 = 0) (f0 : x0 < 2 ^ 7) (f1 : x1 < 2 ^ 7) (f2 : x2 < 2 ^ 10)
    (w : Nat) (e : x0 * 131072 + (x1 * 1024 + (x2 * 1 + c)) = w) :
    w < 2 ^ 32 ∧
    w / 16777216 = c / 16777216 ∧
    bits w 23 17 = x0 ∧
    bits w 16 10 = x1 ∧
    bits w 9 0 = x2 := by
  show w < 2 ^ 32 ∧
    w / 16777216 = c / 16777216 ∧
    w / 131072 % 128 = x0 ∧
    w / 1024 % 128 = x1 ∧
    w / 1 % 1024 = x2
  refine ⟨by omega, by omega, by omega, by omega, by omega⟩

theorem layout7 (x0 x1 x2 c : Nat) (hc : c < 4294967296) (z0 : c / 131072 % 128 = 0) (z1 : c / 1024 % 128 = 0) (z2 : c / 1 % 64 = 0) (f0 : x0 < 2 ^ 7) (f1 : x1 < 2 ^ 7) (f2 : x2 < 2 ^ 6)
    (w : Nat) (e : x0 * 131072 + (x1 * 1024 + (x2 * 1 + c)) = w) :
    w < 2 ^ 32 ∧
    w / 16777216 = c / 16777216 ∧
    bits w 23 17 = x0 ∧
    bits w 16 10 = x1 ∧
    bits w 5 0 = x2 ∧
    bits w 9 6 = bits c 9 6 := by
  show w < 2 ^ 32 ∧
    w / 16777216 = c / 16777216 ∧
    w / 131072 % 128 = x0 ∧
    w / 1024 % 128 = x1 ∧
    w / 1 % 64 = x2 ∧
    w / 64 % 16 = c / 64 % 16
  refine ⟨by omega, by omega, by omega, by omega, by omega, by omega⟩

theorem layout8 (x0 x1 x2 c : Nat) (hc : c < 4294967296) (z0 : c / 131072 % 128 = 0) (z1 : c / 1024 % 128 = 0) (z2 : c / 1 % 256 = 0) (f0 : x0 < 2 ^ 7) (f1 : x1 < 2 ^ 7) (f2 : x2 < 2 ^ 8)
    (w : Nat) (e : x0 * 131072 + (x1 * 1024 + (x2 * 1 + c)) = w) :
    w < 2 ^ 32 ∧
    w / 16777216 = c / 16777216 ∧
    bits w 23 17 = x0 ∧
    bits w 16 10 = x1 ∧
    bits w 7 0 = x2 ∧
    bits w 9 8 = bits c 9 8 := by
  show w < 2 ^ 32 ∧
    w / 16777216 = c / 16777216 ∧
    w / 131072 % 128 = x0 ∧
    w / 1024 % 128 = x1 ∧
    w / 1 % 256 = x2 ∧
    w / 256 % 4 = c / 256 % 4
  refine ⟨by omega, by omega, by omega, by omega, by omega, by omega⟩

theorem layout9 (x0 x1 x2 c : Nat) (hc : c < 4294967296) (z0 : c / 2097152 % 8 = 0) (z1 : c / 1048576 % 2 = 0) (z2 : c / 1 % 1048576 = 0) (f0 : x0 < 2 ^ 3) (f1 : x1 < 2 ^ 1) (f2 : x2 < 2 ^ 20)
    (w : Nat) (e : x0 * 2097152 + (x1 * 1048576 + (x2 * 1 + c)) = w) :
    w < 2 ^ 32 ∧
    w / 16777216 = c / 16777216 ∧
    bits w 23 21 = x0 ∧
    bits w 20 20 = x1 ∧
    bits w 19 0 = x2 := by
  show w < 2 ^ 32 ∧
    w / 16777216 = c / 16777216 ∧
    w / 2097152 % 8 = x0 ∧
    w / 1048576 % 2 = x1 ∧
    w / 1 % 1048576 = x2
  refine ⟨by omega, by omega, by omega, by omega, by omega⟩

theorem layout10 (x0 x1 c : Nat) (hc : c < 4294967296) (z0 : c / 131072 % 128 = 0) (z1 : c / 1 % 131072 = 0) (f0 : x0 < 2 ^ 7) (f1 : x1 < 2 ^ 17)
    (w : Nat) (e : x0 * 131072 + (x1 * 1 + c) = w) :
    w < 2 ^ 32 ∧
    w / 16777216 = c / 16777216 ∧
    bits w 23 17 = x0 ∧
    bits w 16 0 = x1 := by
  show w < 2 ^ 32 ∧
    w / 16777216 = c / 16777216 ∧
    w / 131072 % 128 = x0 ∧
    w / 1 % 131072 = x1
  refine ⟨by omega, by omega, by omega, by omega⟩

theorem layout11 (x0 x1 c : Nat) (hc : c < 4294967296) (z0 : c / 1024 % 128 = 0) (z1 : c / 1 % 1024 = 0) (f0 : x0 < 2 ^ 7) (f1 : x1 < 2 ^ 10)
    (w : Nat) (e : x0 * 1024 + (x1 * 1 + c) = w) :
    w < 2 ^ 32 ∧
    w / 16777216 = c / 16777216 ∧
    bits w 16 10 = x0 ∧
    bits w 9 0 = x1 ∧
    bits w 31 17 = bits c 31 17 := by
  show w < 2 ^ 32 ∧
    w / 16777216 = c / 16777216 ∧
    w / 1024 % 128 = x0 ∧
    w / 1 % 1024 = x1 ∧
    w / 131072 % 32768 = c / 131072 % 32768
  refine ⟨by omega, by omega, by omega, by omega, by omega⟩

theorem layout12 (x0 x1 x2 x3 c : Nat) (hc : c < 4294967296) (z0 : c / 16777216 % 4 = 0) (z1 : c / 131072 % 128 = 0) (z2 : c / 1024 % 128 = 0) (z3 : c / 8 % 128 = 0) (f0 : x0 < 2 ^ 2) (f1 : x1 < 2 ^ 7) (f2 : x2 < 2 ^ 7) (f3 : x3 < 2 ^ 7)
    (w : Nat) (e : x0 * 16777216 + (x1 * 131072 + (x2 * 1024 + (x3 * 8 + c))) = w) :
    w < 2 ^ 32 ∧
    w / 16777216 = x0 + c / 16777216 ∧
    bits w 25 24 = x0 ∧
    bits w 23 17 = x1 ∧
    bits w 16 10 = x2 ∧
    bits w 9 3 = x3 ∧
    bits w 2 0 = bits c 2 0 := by
  show w < 2 ^ 32 ∧
    w / 16777216 = x0 + c / 16777216 ∧
    w / 16777216 % 4 = x0 ∧
    w / 131072 % 128 = x1 ∧
    w / 1024 % 128 = x2 ∧
    w / 8 % 128 = x3 ∧
    w / 1 % 8 = c / 1 % 8
  refine ⟨by omega, by omega, by omega, by omega, by omega, by omega, by omega⟩

theorem layout13 (x0 x1 x2 c : Nat) (hc : c < 4294967296) (z0 : c / 16777216 % 4 = 0) (z1 : c / 131072 % 128 = 0) (z2 : c / 1024 % 128 = 0) (f0 : x0 < 2 ^ 2) (f1 : x1 < 2 ^ 7) (f2 : x2 < 2 ^ 7)
    (w : Nat) (e : x0 * 16777216 + (x1 * 131072 + (x2 * 1024 + c)) = w) :
    w < 2 ^ 32 ∧
    w / 16777216 = x0 + c / 16777216 ∧
    bits w 25 24 = x0 ∧
    bits w 23 17 = x1 ∧
    bits w 16 10 = x2 ∧
    bits w 2 0 = bits c 2 0 ∧
    bits w 9 0 = bits c 9 0 := by
  show w < 2 ^ 32 ∧
    w / 16777216 = x0 + c / 16777216 ∧
    w / 16777216 % 4 = x0 ∧
    w / 131072 % 128 = x1 ∧
    w / 1024 % 128 = x2 ∧
    w / 1 % 8 = c / 1 % 8 ∧
    w / 1 % 1024 = c / 1 % 1024
  refine ⟨by omega, by omega, by omega, by omega, by omega, by omega, by omega⟩

theorem layout14 (x0 x1 x2 x3 c : Nat) (hc : c < 4294967296) (z0 : c / 16777216 % 4 = 0) (z1 : c / 2097152 % 8 = 0) (z2 : c / 16384 % 128 = 0) (z3 : c / 128 % 128 = 0) (f0 : x0 < 2 ^ 2) (f1 : x1 < 2 ^ 3) (f2 : x2 < 2 ^ 7) (f3 : x3 < 2 ^ 7)
    (w : Nat) (e : x0 * 16777216 + (x1 * 2097152 + (x2 * 16384 + (x3 * 128 + c))) = w) :
    w < 2 ^ 32 ∧
    w / 16777216 = x0 + c / 16777216 ∧
    bits w 25 24 = x0 ∧
    bits w 23 21 = x1 ∧
    bits w 20 14 = x2 ∧
    bits w 13 7 = x3 ∧
    bits w 6 0 = bits c 6 0 := by
  show w < 2 ^ 32 ∧
    w / 16777216 = x0 + c / 16777216 ∧
    w / 16777216 % 4 = x0 ∧
    w / 2097152 % 8 = x1 ∧
    w / 16384 % 128 = x2 ∧
    w / 128 % 128 = x3 ∧
    w / 1 % 128 = c / 1 % 128
  refine ⟨by omega, by omega, by omega, by omega, by omega, by omega, by omega⟩

theorem layout15 (x0 x1 x2 x3 x4 c : Nat) (hc : c < 4294967296) (z0 : c / 131072 % 128 = 0) (z1 : c / 1024 % 128 = 0) (z2 : c / 128 % 8 = 0) (z3 : c / 8 % 8 = 0) (z4 : c / 1 % 8 = 0) (f0 : x0 < 2 ^ 7) (f1 : x1 < 2 ^ 7) (f2 : x2 < 2 ^ 3) (f3 : x3 < 2 ^ 3) (f4 : x4 < 2 ^ 3)
    (w : Nat) (e : x0 * 131072 + (x1 * 1024 + (x2 * 128 + (x3 * 8 + (x4 * 1 + c)))) = w) :
    w < 2 ^ 32 ∧
    w / 16777216 = c / 16777216 ∧
    bits w 23 17 = x0 ∧
    bits w 16 10 = x1 ∧
    bits w 9 7 = x2 ∧
    bits w 5 3 = x3 ∧
    bits w 2 0 = x4 ∧
    bits w 6 6 = bits c 6 6 := by
  show w < 2 ^ 32 ∧
    w / 16777216 = c / 16777216 ∧
    w / 131072 % 128 = x0 ∧
    w / 1024 % 128 = x1 ∧
    w / 128 % 8 = x2 ∧
    w / 8 % 8 = x3 ∧
    w / 1 % 8 = x4 ∧
    w / 64 % 2 = c / 64 % 2
  refine ⟨by omega, by omega, by omega, by omega, by omega, by omega, by omega, by omega⟩

theorem layout16 (x0 x1 x2 x3 c : Nat) (hc : c < 4294967296) (z0 : c / 262144 % 64 = 0) (z1 : c / 4096 % 64 = 0) (z2 : c / 8 % 8 = 0) (z3 : c / 1 % 8 = 0) (f0 : x0 < 2 ^ 6) (f1 : x1 < 2 ^ 6) (f2 : x2 < 2 ^ 3) (f3 : x3 < 2 ^ 3)
    (w : Nat) (e : x0 * 262144 + (x1 * 4096 + (x2 * 8 + (x3 * 1 + c))) = w) :
    w < 2 ^ 32 ∧
    w / 16777216 = c / 16777216 ∧
    bits w 23 18 = x0 ∧
    bits w 17 12 = x1 ∧
    bits w 5 3 = x2 ∧
    bits w 2 0 = x3 ∧
    bits w 11 6 = bits c 11 6 := by
  show w < 2 ^ 32 ∧
    w / 16777216 = c / 16777216 ∧
    w / 262144 % 64 = x0 ∧
    w / 4096 % 64 = x1 ∧
    w / 8 % 8 = x2 ∧
    w / 1 % 8 = x3 ∧
    w / 64 % 64 = c / 64 % 64
  refine ⟨by omega, by omega, by omega, by omega, by omega, by omega, by omega⟩

theorem layout17 (x0 x1 x2 x3 x4 c : Nat) (hc : c < 4294967296) (z0 : c / 262144 % 64 = 0) (z1 : c / 4096 % 64 = 0) (z2 : c / 64 % 64 = 0) (z3 : c / 8 % 8 = 0) (z4 : c / 1 % 8 = 0) (f0 : x0 < 2 ^ 6) (f1 : x1 < 2 ^ 6) (f2 : x2 < 2 ^ 6) (f3 : x3 < 2 ^ 3) (f4 : x4 < 2 ^ 3)
    (w : Nat) (e : x0 * 262144 + (x1 * 4096 + (x2 * 64 + (x3 * 8 + (x4 * 1 + c)))) = w) :
    w < 2 ^ 32 ∧
    w / 16777216 = c / 16777216 ∧
    bits w 23 18 = x0 ∧
    bits w 17 12 = x1 ∧
    bits w 11 6 = x2 ∧
    bits w 5 3 = x3 ∧
    bits w 2 0 = x4 := by
  show w < 2 ^ 32 ∧
    w / 16777216 = c / 16777216 ∧
    w / 262144 % 64 = x0 ∧
    w / 4096 % 64 = x1 ∧
    w / 64 % 64 = x2 ∧
    w / 8 % 8 = x3 ∧
    w / 1 % 8 = x4
  refine ⟨by omega, by omega, by omega, by omega, by omega, by omega, by omega⟩

theorem layout18 (x0 x1 x2 x3 x4 x5 c : Nat) (hc : c < 4294967296) (z0 : c / 262144 % 64 = 0) (z1 : c / 4096 % 64 = 0) (z2 : c / 512 % 8 = 0) (z3 : c / 64 % 8 = 0) (z4 : c / 8 % 8 = 0) (z5 : c / 1 % 8 = 0) (f0 : x0 < 2 ^ 6) (f1 : x1 < 2 ^ 6) (f2 : x2 < 2 ^ 3) (f3 : x3 < 2 ^ 3) (f4 : x4 < 2 ^ 3) (f5 : x5 < 2 ^ 3)
    (w : Nat) (e : x0 * 262144 + (x1 * 4096 + (x2 * 512 + (x3 * 64 + (x4 * 8 + (x5 * 1 + c))))) = w) :
    w < 2 ^ 32 ∧
    w / 16777216 = c / 16777216 ∧
    bits w 23 18 = x0 ∧
    bits w 17 12 = x1 ∧
    bits w 11 9 = x2 ∧
    bits w 8 6 = x3 ∧
    bits w 5 3 = x4 ∧
    bits w 2 0 = x5 := by
  show w < 2 ^ 32 ∧
    w / 16777216 = c / 16777216 ∧
    w / 262144 % 64 = x0 ∧
    w / 4096 % 64 = x1 ∧
    w / 512 % 8 = x2 ∧
    w / 64 % 8 = x3 ∧
    w / 8 % 8 = x4 ∧
    w / 1 % 8 = x5
  refine ⟨by omega, by omega, by omega, by omega, by omega, by omega, by omega, by omega⟩

theorem layout19 (x0 x1 x2 c : Nat) (hc : c < 4294967296) (z0 : c / 1024 % 128 = 0) (z1 : c / 8 % 128 = 0) (z2 : c / 1 % 8 = 0) (f0 : x0 < 2 ^ 7) (f1 : x1 < 2 ^ 7) (f2 : x2 < 2 ^ 3)
    (w : Nat) (e : x0 * 1024 + (x1 * 8 + (x2 * 1 + c)) = w) :
    w < 2 ^ 32 ∧
    w / 16777216 = c / 16777216 ∧
    bits w 16 10 = x0 ∧
    bits w 9 3 = x1 ∧
    bits w 2 0 = x2 ∧
    bits w 31 17 = bits c 31 17 := by
  show w < 2 ^ 32 ∧
    w / 16777216 = c / 16777216 ∧
    w / 1024 % 128 = x0 ∧
    w / 8 % 128 = x1 ∧
    w / 1 % 8 = x2 ∧
    w / 131072 % 32768 = c / 131072 % 32768
  refine ⟨by omega, by omega, by omega, by omega, by omega, by omega⟩

theorem layout21 (x0 x1 c : Nat) (hc : c < 4294967296) (z0 : c / 2097152 % 8 = 0) (z1 : c / 1 % 128 = 0) (f0 : x0 < 2 ^ 3) (f1 : x1 < 2 ^ 7)
    (w : Nat) (e : x0 * 2097152 + (x1 * 1 + c) = w) :
    w < 2 ^ 32 ∧
    w / 16777216 = c / 16777216 ∧
    bits w 23 21 = x0 ∧
    bits w 6 0 = x1 ∧
    bits w 20 7 = bits c 20 7 := by
  show w < 2 ^ 32 ∧
    w / 16777216 = c / 16777216 ∧
    w / 2097152 % 8 = x0 ∧
    w / 1 % 128 = x1 ∧
    w / 128 % 16384 = c / 128 % 16384
  refine ⟨by omega, by omega, by omega, by omega, by omega⟩

theorem layout22 (x0 x1 c : Nat) (hc : c < 4294967296) (z0 : c / 262144 % 8 = 0) (z1 : c / 1 % 128 = 0) (f0 : x0 < 2 ^ 3) (f1 : x1 < 2 ^ 7)
    (w : Nat) (e : x0 * 262144 + (x1 * 1 + c) = w) :
    w < 2 ^ 32 ∧
    w / 16777216 = c / 16777216 ∧
    bits w 20 18 = x0 ∧
    bits w 6 0 = x1 ∧
    bits w 17 7 = bits c 17 7 ∧
    bits w 31 21 = bits c 31 21 := by
  show w < 2 ^ 32 ∧
    w / 16777216 = c / 16777216 ∧
    w / 262144 % 8 = x0 ∧
    w / 1 % 128 = x1 ∧
    w / 128 % 2048 = c / 128 % 2048 ∧
    w / 2097152 % 2048 = c / 2097152 % 2048
  refine ⟨by omega, by omega, by omega, by omega, by omega, by omega⟩

theorem layout23 (x0 c : Nat) (hc : c < 4294967296) (z0 : c / 2097152 % 8 = 0) (f0 : x0 < 2 ^ 3)
    (w : Nat) (e : x0 * 2097152 + c = w) :
    w < 2 ^ 32 ∧
    w / 16777216 = c / 16777216 ∧
    bits w 23 21 = x0 ∧
    bits w 20 0 = bits c 20 0 := by
  show w < 2 ^ 32 ∧
    w / 16777216 = c / 16777216 ∧
    w / 2097152 % 8 = x0 ∧
    w / 1 % 2097152 = c / 1 % 2097152
  refine ⟨by omega, by omega, by omega, by omega⟩

theorem layout24 (x0 x1 c : Nat) (hc : c < 4294967296) (z0 : c / 2097152 % 8 = 0) (z1 : c / 262144 % 8 = 0) (f0 : x0 < 2 ^ 3) (f1 : x1 < 2 ^ 3)
    (w : Nat) (e : x0 * 2097152 + (x1 * 262144 + c) = w) :
    w < 2 ^ 32 ∧
    w / 16777216 = c / 16777216 ∧
    bits w 23 21 = x0 ∧
    bits w 20 18 = x1 ∧
    bits w 17 0 = bits c 17 0 := by
  show w < 2 ^ 32 ∧
    w / 16777216 = c / 16777216 ∧
    w / 2097152 % 8 = x0 ∧
    w / 262144 % 8 = x1 ∧
    w / 1 % 262144 = c / 1 % 262144
  refine ⟨by omega, by omega, by omega, by omega, by omega⟩

theorem layout25 (x0 x1 x2 x3 x4 x5 x6 c : Nat) (hc : c < 4294967296) (z0 : c / 2097152 % 8 = 0) (z1 : c / 262144 % 8 = 0) (z2 : c / 32768 % 8 = 0) (z3 : c / 1024 % 2 = 0) (z4 : c / 512 % 2 = 0) (z5 : c / 128 % 4 = 0) (z6 : c / 1 % 128 = 0) (f0 : x0 < 2 ^ 3) (f1 : x1 < 2 ^ 3) (f2 : x2 < 2 ^ 3) (f3 : x3 < 2 ^ 1) (f4 : x4 < 2 ^ 1) (f5 : x5 < 2 ^ 2) (f6 : x6 < 2 ^ 7)
    (w : Nat) (e : x0 * 2097152 + (x1 * 262144 + (x2 * 32768 + (x3 * 1024 + (x4 * 512 + (x5 * 128 + (x6 * 1 + c)))))) = w) :
    w < 2 ^ 32 ∧
    w / 16777216 = c / 16777216 ∧
    bits w 23 21 = x0 ∧
    bits w 20 18 = x1 ∧
    bits w 17 15 = x2 ∧
    bits w 10 10 = x3 ∧
    bits w 9 9 = x4 ∧
    bits w 8 7 = x5 ∧
    bits w 6 0 = x6 ∧
    bits w 14 11 = bits c 14 11 := by
  show w < 2 ^ 32 ∧
    w / 16777216 = c / 16777216 ∧
    w / 2097152 % 8 = x0 ∧
    w / 262144 % 8 = x1 ∧
    w / 32768 % 8 = x2 ∧
    w / 1024 % 2 = x3 ∧
    w / 512 % 2 = x4 ∧
    w / 128 % 4 = x5 ∧
    w / 1 % 128 = x6 ∧
    w / 2048 % 16 = c / 2048 % 16
  refine ⟨by omega, by omega, by omega, by omega, by omega, by omega, by omega, by omega, by omega, by omega⟩

theorem layout26 (x0 x1 x2 c : Nat) (hc : c < 4294967296) (z0 : c / 2097152 % 8 = 0) (z1 : c / 128 % 4 = 0) (z2 : c / 1 % 128 = 0) (f0 : x0 < 2 ^ 3) (f1 : x1 < 2 ^ 2) (f2 : x2 < 2 ^ 7)
    (w : Nat) (e : x0 * 2097152 + (x1 * 128 + (x2 * 1 + c)) = w) :
    w < 2 ^ 32 ∧
    w / 16777216 = c / 16777216 ∧
    bits w 23 21 = x0 ∧
    bits w 8 7 = x1 ∧
    bits w 6 0 = x2 ∧
    bits w 20 9 = bits c 20 9 := by
  show w < 2 ^ 32 ∧
    w / 16777216 = c / 16777216 ∧
    w / 2097152 % 8 = x0 ∧
    w / 128 % 4 = x1 ∧
    w / 1 % 128 = x2 ∧
    w / 512 % 4096 = c / 512 % 4096
  refine ⟨by omega, by omega, by omega, by omega, by omega, by omega⟩

theorem layout27 (x0 x1 x2 c : Nat) (hc : c < 4294967296) (z0 : c / 262144 % 8 = 0) (z1 : c / 128 % 4 = 0) (z2 : c / 1 % 128 = 0) (f0 : x0 < 2 ^ 3) (f1 : x1 < 2 ^ 2) (f2 : x2 < 2 ^ 7)
    (w : Nat) (e : x0 * 262144 + (x1 * 128 + (x2 * 1 + c)) = w) :
    w < 2 ^ 32 ∧
    w / 16777216 = c / 16777216 ∧
    bits w 20 18 = x0 ∧
    bits w 8 7 = x1 ∧
    bits w 6 0 = x2 ∧
    bits w 17 9 = bits c 17 9 ∧
    bits w 31 21 = bits c 31 21 := by
  show w < 2 ^ 32 ∧
    w / 16777216 = c / 16777216 ∧
    w / 262144 % 8 = x0 ∧
    w / 128 % 4 = x1 ∧
    w / 1 % 128 = x2 ∧
    w / 512 % 512 = c / 512 % 512 ∧
    w / 2097152 % 2048 = c / 2097152 % 2048
  refine ⟨by omega, by omega, by omega, by omega, by omega, by omega, by omega⟩

theorem layout28 (x0 x1 x2 x3 x4 c : Nat) (hc : c < 4294967296) (z0 : c / 2097152 % 8 = 0) (z1 : c / 262144 % 8 = 0) (z2 : c / 1024 % 4 = 0) (z3 : c / 128 % 8 = 0) (z4 : c / 1 % 128 = 0) (f0 : x0 < 2 ^ 3) (f1 : x1 < 2 ^ 3) (f2 : x2 < 2 ^ 2) (f3 : x3 < 2 ^ 3) (f4 : x4 < 2 ^ 7)
    (w : Nat) (e : x0 * 2097152 + (x1 * 262144 + (x2 * 1024 + (x3 * 128 + (x4 * 1 + c)))) = w) :
    w < 2 ^ 32 ∧
    w / 16777216 = c / 16777216 ∧
    bits w 23 21 = x0 ∧
    bits w 20 18 = x1 ∧
    bits w 11 10 = x2 ∧
    bits w 9 7 = x3 ∧
    bits w 6 0 = x4 ∧
    bits w 17 12 = bits c 17 12 := by
  show w < 2 ^ 32 ∧
    w / 16777216 = c / 16777216 ∧
    w / 2097152 % 8 = x0 ∧
    w / 262144 % 8 = x1 ∧
    w / 1024 % 4 = x2 ∧
    w / 128 % 8 = x3 ∧
    w / 1 % 128 = x4 ∧
    w / 4096 % 64 = c / 4096 % 64
  refine ⟨by omega, by omega, by omega, by omega, by omega, by omega, by omega, by omega⟩

theorem layout29 (x0 c : Nat) (hc : c < 4294967296) (z0 : c / 131072 % 128 = 0) (f0 : x0 < 2 ^ 7)
    (w : Nat) (e : x0 * 131072 + c = w) :
    w < 2 ^ 32 ∧
    w / 16777216 = c / 16777216 ∧
    bits w 23 17 = x0 ∧
    bits w 16 0 = bits c 16 0 ∧
    bits w 2 0 = bits c 2 0 := by
  show w < 2 ^ 32 ∧
    w / 16777216 = c / 16777216 ∧
    w / 131072 % 128 = x0 ∧
    w / 1 % 131072 = c / 1 % 131072 ∧
    w / 1 % 8 = c / 1 % 8
  refine ⟨by omega, by omega, by omega, by omega, by omega⟩

theorem layout30 (x0 x1 x2 c : Nat) (hc : c < 4294967296) (z0 : c / 131072 % 128 = 0) (z1 : c / 1024 % 128 = 0) (z2 : c / 1 % 4 = 0) (f0 : x0 < 2 ^ 7) (f1 : x1 < 2 ^ 7) (f2 : x2 < 2 ^ 2)
    (w : Nat) (e : x0 * 131072 + (x1 * 1024 + (x2 * 1 + c)) = w) :
    w < 2 ^ 32 ∧
    w / 16777216 = c / 16777216 ∧
    bits w 23 17 = x0 ∧
    bits w 16 10 = x1 ∧
    bits w 1 0 = x2 ∧
    bits w 9 2 = bits c 9 2 := by
  show w < 2 ^ 32 ∧
    w / 16777216 = c / 16777216 ∧
    w / 131072 % 128 = x0 ∧
    w / 1024 % 128 = x1 ∧
    w / 1 % 4 = x2 ∧
    w / 4 % 256 = c / 4 % 256
  refine ⟨by omega, by omega, by omega, by omega, by omega, by omega⟩

theorem layout31 (x0 x1 c : Nat) (hc : c < 4294967296) (z0 : c / 1024 % 128 = 0) (z1 : c / 8 % 128 = 0) (f0 : x0 < 2 ^ 7) (f1 : x1 < 2 ^ 7)
    (w : Nat) (e : x0 * 1024 + (x1 * 8 + c) = w) :
    w < 2 ^ 32 ∧
    w / 16777216 = c / 16777216 ∧
    bits w 16 10 = x0 ∧
    bits w 9 3 = x1 ∧
    bits w 2 0 = bits c 2 0 ∧
    bits w 31 17 = bits c 31 17 := by
  show w < 2 ^ 32 ∧
    w / 16777216 = c / 16777216 ∧
    w / 1024 % 128 = x0 ∧
    w / 8 % 128 = x1 ∧
    w / 1 % 8 = c / 1 % 8 ∧
    w / 131072 % 32768 = c / 131072 % 32768
  refine ⟨by omega, by omega, by omega, by omega, by omega, by omega⟩

theorem layout32 (x0 c : Nat) (hc : c < 4294967296) (z0 : c / 1 % 1024 = 0) (f0 : x0 < 2 ^ 10)
    (w : Nat) (e : x0 * 1 + c = w) :
    w < 2 ^ 32 ∧
    w / 16777216 = c / 16777216 ∧
    bits w 9 0 = x0 ∧
    bits w 31 10 = bits c 31 10 := by
  show w < 2 ^ 32 ∧
    w / 16777216 = c / 16777216 ∧
    w / 1 % 1024 = x0 ∧
    w / 1024 % 4194304 = c / 1024 % 4194304
  refine ⟨by omega, by omega, by omega, by omega⟩

theorem layout33 (x0 x1 c : Nat) (hc : c < 4294967296) (z0 : c / 131072 % 128 = 0) (z1 : c / 1 % 1024 = 0) (f0 : x0 < 2 ^ 7) (f1 : x1 < 2 ^ 10)
    (w : Nat) (e : x0 * 131072 + (x1 * 1 + c) = w) :
    w < 2 ^ 32 ∧
    w / 16777216 = c / 16777216 ∧
    bits w 23 17 = x0 ∧
    bits w 9 0 = x1 ∧
    bits w 16 10 = bits c 16 10 := by
  show w < 2 ^ 32 ∧
    w / 16777216 = c / 16777216 ∧
    w / 131072 % 128 = x0 ∧
    w / 1 % 1024 = x1 ∧
    w / 1024 % 128 = c / 1024 % 128
  refine ⟨by omega, by omega, by omega, by omega, by omega⟩

theorem layout34 (x0 x1 x2 x3 x4 c : Nat) (hc : c < 4294967296) (z0 : c / 1048576 % 16 = 0) (z1 : c / 4096 % 256 = 0) (z2 : c / 256 % 16 = 0) (z3 : c / 16 % 16 = 0) (z4 : c / 1 % 16 = 0) (f0 : x0 < 2 ^ 4) (f1 : x1 < 2 ^ 8) (f2 : x2 < 2 ^ 4) (f3 : x3 < 2 ^ 4) (f4 : x4 < 2 ^ 4)
    (w : Nat) (e : x0 * 1048576 + (x1 * 4096 + (x2 * 256 + (x3 * 16 + (x4 * 1 + c)))) = w) :
    w < 2 ^ 32 ∧
    w / 16777216 = c / 16777216 ∧
    bits w 23 20 = x0 ∧
    bits w 19 12 = x1 ∧
    bits w 11 8 = x2 ∧
    bits w 7 4 = x3 ∧
    bits w 3 0 = x4 := by
  show w < 2 ^ 32 ∧
    w / 16777216 = c / 16777216 ∧
    w / 1048576 % 16 = x0 ∧
    w / 4096 % 256 = x1 ∧
    w / 256 % 16 = x2 ∧
    w / 16 % 16 = x3 ∧
    w / 1 % 16 = x4
  refine ⟨by omega, by omega, by omega, by omega, by omega, by omega, by omega⟩

theorem layout35 (x0 c : Nat) (hc : c < 4294967296) (z0 : c / 1 % 16777216 = 0) (f0 : x0 < 2 ^ 24)
    (w : Nat) (e : x0 * 1 + c = w) :
    w < 2 ^ 32 ∧
    w / 16777216 = c / 16777216 ∧
    bits w 23 0 = x0 := by
  show w < 2 ^ 32 ∧
    w / 16777216 = c / 16777216 ∧
    w / 1 % 16777216 = x0
  refine ⟨by omega, by omega, by omega⟩

end Sys2Proof.Laws.RoundTrip

open Sys2Proof.Laws.RoundTrip

/-! ### The instructions -/

section
set_option Elab.async false

theorem Sys2Proof.Laws.RoundTrip.add (d a b : Nat) : Statement (.add d a b) := by
  intro wd hw he
  have hf : (inU 7 d && inU 7 a && inU 7 b) = true := hw
  simp only [Bool.and_eq_true, decide_eq_true_eq] at hf
  obtain ⟨⟨f0, f1⟩, f2⟩ := hf
  obtain ⟨lt, mj, h0, h1, h2, r0⟩ := layout0 d a b 16777216 (by decide) (by decide) (by decide) (by decide) f0 f1 f2 wd (Option.some.inj he)
  refine ⟨lt, word_ok ((row_01 wd (mj.trans (by decide))).trans ?_) hw⟩
  simp only [decode01, h0, h1, h2, r0]; rfl

theorem Sys2Proof.Laws.RoundTrip.sub (d a b : Nat) : Statement (.sub d a b) := by
  intro wd hw he
  have hf : (inU 7 d && inU 7 a && inU 7 b) = true := hw
  simp only [Bool.and_eq_true, decide_eq_true_eq] at hf
  obtain ⟨⟨f0, f1⟩, f2⟩ := hf
  obtain ⟨lt, mj, h0, h1, h2, r0⟩ := layout0 d a b 16777217 (by decide) (by decide) (by decide) (by decide) f0 f1 f2 wd (Option.some.inj he)
  refine ⟨lt, word_ok ((row_01 wd (mj.trans (by decide))).trans ?_) hw⟩
  simp only [decode01, h0, h1, h2, r0]; rfl

theorem Sys2Proof.Laws.RoundTrip.and (d a b : Nat) : Statement (.and d a b) := by
  intro wd hw he
  have hf : (inU 7 d && inU 7 a && inU 7 b) = true := hw
  simp only [Bool.and_eq_true, decide_eq_true_eq] at hf
  obtain ⟨⟨f0, f1⟩, f2⟩ := hf
  obtain ⟨lt, mj, h0, h1, h2, r0⟩ := layout0 d a b 16777218 (by decide) (by decide) (by decide) (by decide) f0 f1 f2 wd (Option.some.inj he)
  refine ⟨lt, word_ok ((row_01 wd (mj.trans (by decide))).trans ?_) hw⟩
  simp only [decode01, h0, h1, h2, r0]; rfl

theorem Sys2Proof.Laws.RoundTrip.or (d a b : Nat) : Statement (.or d a b) := by
  intro wd hw he
  have hf : (inU 7 d && inU 7 a && inU 7 b) = true := hw
  simp only [Bool.and_eq_true, decide_eq_true_eq] at hf
  obtain ⟨⟨f0, f1⟩, f2⟩ := hf
  obtain ⟨lt, mj, h0, h1, h2, r0⟩ := layout0 d a b 16777219 (by decide) (by decide) (by decide) (by decide) f0 f1 f2 wd (Option.some.inj he)
  refine ⟨lt, word_ok ((row_01 wd (mj.trans (by decide))).trans ?_) hw⟩
  simp only [decode01, h0, h1, h2, r0]; rfl

theorem Sys2Proof.Laws.RoundTrip.xor (d a b : Nat) : Statement (.xor d a b) := by
  intro wd hw he
  have hf : (inU 7 d && inU 7 a && inU 7 b) = true := hw
  simp only [Bool.and_eq_true, decide_eq_true_eq] at hf
  obtain ⟨⟨f0, f1⟩, f2⟩ := hf
  obtain ⟨lt, mj, h0, h1, h2, r0⟩ := layout0 d a b 16777220 (by decide) (by decide) (by decide) (by decide) f0 f1 f2 wd (Option.some.inj he)
  refine ⟨lt, word_ok ((row_01 wd (mj.trans (by decide))).trans ?_) hw⟩
  simp only [decode01, h0, h1, h2, r0]; rfl

theorem Sys2Proof.Laws.RoundTrip.andn (d a b : Nat) : Statement (.andn d a b) := by
  intro wd hw he
  have hf : (inU 7 d && inU 7 a && inU 7 b) = true := hw
  simp only [Bool.and_eq_true, decide_eq_true_eq] at hf
  obtain ⟨⟨f0, f1⟩, f2⟩ := hf
  obtain ⟨lt, mj, h0, h1, h2, r0⟩ := layout0 d a b 16777221 (by decide) (by decide) (by decide) (by decide) f0 f1 f2 wd (Option.some.inj he)
  refine ⟨lt, word_ok ((row_01 wd (mj.trans (by decide))).trans ?_) hw⟩
  simp only [decode01, h0, h1, h2, r0]; rfl

theorem Sys2Proof.Laws.RoundTrip.min (d a b : Nat) : Statement (.min d a b) := by
  intro wd hw he
  have hf : (inU 7 d && inU 7 a && inU 7 b) = true := hw
  simp only [Bool.and_eq_true, decide_eq_true_eq] at hf
  obtain ⟨⟨f0, f1⟩, f2⟩ := hf
  obtain ⟨lt, mj, h0, h1, h2, r0⟩ := layout0 d a b 16777222 (by decide) (by decide) (by decide) (by decide) f0 f1 f2 wd (Option.some.inj he)
  refine ⟨lt, word_ok ((row_01 wd (mj.trans (by decide))).trans ?_) hw⟩
  simp only [decode01, h0, h1, h2, r0]; rfl

theorem Sys2Proof.Laws.RoundTrip.max (d a b : Nat) : Statement (.max d a b) := by
  intro wd hw he
  have hf : (inU 7 d && inU 7 a && inU 7 b) = true := hw
  simp only [Bool.and_eq_true, decide_eq_true_eq] at hf
  obtain ⟨⟨f0, f1⟩, f2⟩ := hf
  obtain ⟨lt, mj, h0, h1, h2, r0⟩ := layout0 d a b 16777223 (by decide) (by decide) (by decide) (by decide) f0 f1 f2 wd (Option.some.inj he)
  refine ⟨lt, word_ok ((row_01 wd (mj.trans (by decide))).trans ?_) hw⟩
  simp only [decode01, h0, h1, h2, r0]; rfl

theorem Sys2Proof.Laws.RoundTrip.minu (d a b : Nat) : Statement (.minu d a b) := by
  intro wd hw he
  have hf : (inU 7 d && inU 7 a && inU 7 b) = true := hw
  simp only [Bool.and_eq_true, decide_eq_true_eq] at hf
  obtain ⟨⟨f0, f1⟩, f2⟩ := hf
  obtain ⟨lt, mj, h0, h1, h2, r0⟩ := layout0 d a b 33554432 (by decide) (by decide) (by decide) (by decide) f0 f1 f2 wd (Option.some.inj he)
  refine ⟨lt, word_ok ((row_02 wd (mj.trans (by decide))).trans ?_) hw⟩
  simp only [decode02, h0, h1, h2, r0]; rfl

theorem Sys2Proof.Laws.RoundTrip.maxu (d a b : Nat) : Statement (.maxu d a b) := by
  intro wd hw he
  have hf : (inU 7 d && inU 7 a && inU 7 b) = true := hw
  simp only [Bool.and_eq_true, decide_eq_true_eq] at hf
  obtain ⟨⟨f0, f1⟩, f2⟩ := hf
  obtain ⟨lt, mj, h0, h1, h2, r0⟩ := layout0 d a b 33554433 (by decide) (by decide) (by decide) (by decide) f0 f1 f2 wd (Option.some.inj he)
  refine ⟨lt, word_ok ((row_02 wd (mj.trans (by decide))).trans ?_) hw⟩
  simp only [decode02, h0, h1, h2, r0]; rfl

theorem Sys2Proof.Laws.RoundTrip.shl (d a b : Nat) : Statement (.shl d a b) := by
  intro wd hw he
  have hf : (inU 7 d && inU 7 a && inU 7 b) = true := hw
  simp only [Bool.and_eq_true, decide_eq_true_eq] at hf
  obtain ⟨⟨f0, f1⟩, f2⟩ := hf
  obtain ⟨lt, mj, h0, h1, h2, r0⟩ := layout0 d a b 33554434 (by decide) (by decide) (by decide) (by decide) f0 f1 f2 wd (Option.some.inj he)
  refine ⟨lt, word_ok ((row_02 wd (mj.trans (by decide))).trans ?_) hw⟩
  simp only [decode02, h0, h1, h2, r0]; rfl

theorem Sys2Proof.Laws.RoundTrip.shr (d a b : Nat) : Statement (.shr d a b) := by
  intro wd hw he
  have hf : (inU 7 d && inU 7 a && inU 7 b) = true := hw
  simp only [Bool.and_eq_true, decide_eq_true_eq] at hf
  obtain ⟨⟨f0, f1⟩, f2⟩ := hf
  obtain ⟨lt, mj, h0, h1, h2, r0⟩ := layout0 d a b 33554435 (by decide) (by decide) (by decide) (by decide) f0 f1 f2 wd (Option.some.inj he)
  refine ⟨lt, word_ok ((row_02 wd (mj.trans (by decide))).trans ?_) hw⟩
  simp only [decode02, h0, h1, h2, r0]; rfl

theorem Sys2Proof.Laws.RoundTrip.sra (d a b : Nat) : Statement (.sra d a b) := by
  intro wd hw he
  have hf : (inU 7 d && inU 7 a && inU 7 b) = true := hw
  simp only [Bool.and_eq_true, decide_eq_true_eq] at hf
  obtain ⟨⟨f0, f1⟩, f2⟩ := hf
  obtain ⟨lt, mj, h0, h1, h2, r0⟩ := layout0 d a b 33554436 (by decide) (by decide) (by decide) (by decide) f0 f1 f2 wd (Option.some.inj he)
  refine ⟨lt, word_ok ((row_02 wd (mj.trans (by decide))).trans ?_) hw⟩
  simp only [decode02, h0, h1, h2, r0]; rfl

theorem Sys2Proof.Laws.RoundTrip.rotr (d a b : Nat) : Statement (.rotr d a b) := by
  intro wd hw he
  have hf : (inU 7 d && inU 7 a && inU 7 b) = true := hw
  simp only [Bool.and_eq_true, decide_eq_true_eq] at hf
  obtain ⟨⟨f0, f1⟩, f2⟩ := hf
  obtain ⟨lt, mj, h0, h1, h2, r0⟩ := layout0 d a b 33554437 (by decide) (by decide) (by decide) (by decide) f0 f1 f2 wd (Option.some.inj he)
  refine ⟨lt, word_ok ((row_02 wd (mj.trans (by decide))).trans ?_) hw⟩
  simp only [decode02, h0, h1, h2, r0]; rfl

theorem Sys2Proof.Laws.RoundTrip.mul (d a b : Nat) : Statement (.mul d a b) := by
  intro wd hw he
  have hf : (inU 7 d && inU 7 a && inU 7 b) = true := hw
  simp only [Bool.and_eq_true, decide_eq_true_eq] at hf
  obtain ⟨⟨f0, f1⟩, f2⟩ := hf
  obtain ⟨lt, mj, h0, h1, h2, r0⟩ := layout0 d a b 50331648 (by decide) (by decide) (by decide) (by decide) f0 f1 f2 wd (Option.some.inj he)
  refine ⟨lt, word_ok ((row_03 wd (mj.trans (by decide))).trans ?_) hw⟩
  simp only [decode03, h0, h1, h2, r0]; rfl

theorem Sys2Proof.Laws.RoundTrip.mulh (d a b : Nat) : Statement (.mulh d a b) := by
  intro wd hw he
  have hf : (inU 7 d && inU 7 a && inU 7 b) = true := hw
  simp only [Bool.and_eq_true, decide_eq_true_eq] at hf
  obtain ⟨⟨f0, f1⟩, f2⟩ := hf
  obtain ⟨lt, mj, h0, h1, h2, r0⟩ := layout0 d a b 50331649 (by decide) (by decide) (by decide) (by decide) f0 f1 f2 wd (Option.some.inj he)
  refine ⟨lt, word_ok ((row_03 wd (mj.trans (by decide))).trans ?_) hw⟩
  simp only [decode03, h0, h1, h2, r0]; rfl

theorem Sys2Proof.Laws.RoundTrip.mulhu (d a b : Nat) : Statement (.mulhu d a b) := by
  intro wd hw he
  have hf : (inU 7 d && inU 7 a && inU 7 b) = true := hw
  simp only [Bool.and_eq_true, decide_eq_true_eq] at hf
  obtain ⟨⟨f0, f1⟩, f2⟩ := hf
  obtain ⟨lt, mj, h0, h1, h2, r0⟩ := layout0 d a b 50331650 (by decide) (by decide) (by decide) (by decide) f0 f1 f2 wd (Option.some.inj he)
  refine ⟨lt, word_ok ((row_03 wd (mj.trans (by decide))).trans ?_) hw⟩
  simp only [decode03, h0, h1, h2, r0]; rfl

theorem Sys2Proof.Laws.RoundTrip.div (d a b : Nat) : Statement (.div d a b) := by
  intro wd hw he
  have hf : (inU 7 d && inU 7 a && inU 7 b) = true := hw
  simp only [Bool.and_eq_true, decide_eq_true_eq] at hf
  obtain ⟨⟨f0, f1⟩, f2⟩ := hf
  obtain ⟨lt, mj, h0, h1, h2, r0⟩ := layout0 d a b 50331651 (by decide) (by decide) (by decide) (by decide) f0 f1 f2 wd (Option.some.inj he)
  refine ⟨lt, word_ok ((row_03 wd (mj.trans (by decide))).trans ?_) hw⟩
  simp only [decode03, h0, h1, h2, r0]; rfl

theorem Sys2Proof.Laws.RoundTrip.divu (d a b : Nat) : Statement (.divu d a b) := by
  intro wd hw he
  have hf : (inU 7 d && inU 7 a && inU 7 b) = true := hw
  simp only [Bool.and_eq_true, decide_eq_true_eq] at hf
  obtain ⟨⟨f0, f1⟩, f2⟩ := hf
  obtain ⟨lt, mj, h0, h1, h2, r0⟩ := layout0 d a b 50331652 (by decide) (by decide) (by decide) (by decide) f0 f1 f2 wd (Option.some.inj he)
  refine ⟨lt, word_ok ((row_03 wd (mj.trans (by decide))).trans ?_) hw⟩
  simp only [decode03, h0, h1, h2, r0]; rfl

theorem Sys2Proof.Laws.RoundTrip.rem (d a b : Nat) : Statement (.rem d a b) := by
  intro wd hw he
  have hf : (inU 7 d && inU 7 a && inU 7 b) = true := hw
  simp only [Bool.and_eq_true, decide_eq_true_eq] at hf
  obtain ⟨⟨f0, f1⟩, f2⟩ := hf
  obtain ⟨lt, mj, h0, h1, h2, r0⟩ := layout0 d a b 50331653 (by decide) (by decide) (by decide) (by decide) f0 f1 f2 wd (Option.some.inj he)
  refine ⟨lt, word_ok ((row_03 wd (mj.trans (by decide))).trans ?_) hw⟩
  simp only [decode03, h0, h1, h2, r0]; rfl

theorem Sys2Proof.Laws.RoundTrip.remu (d a b : Nat) : Statement (.remu d a b) := by
  intro wd hw he
  have hf : (inU 7 d && inU 7 a && inU 7 b) = true := hw
  simp only [Bool.and_eq_true, decide_eq_true_eq] at hf
  obtain ⟨⟨f0, f1⟩, f2⟩ := hf
  obtain ⟨lt, mj, h0, h1, h2, r0⟩ := layout0 d a b 50331654 (by decide) (by decide) (by decide) (by decide) f0 f1 f2 wd (Option.some.inj he)
  refine ⟨lt, word_ok ((row_03 wd (mj.trans (by decide))).trans ?_) hw⟩
  simp only [decode03, h0, h1, h2, r0]; rfl

theorem Sys2Proof.Laws.RoundTrip.clz (d a : Nat) : Statement (.clz d a) := by
  intro wd hw he
  have hf : (inU 7 d && inU 7 a) = true := hw
  simp only [Bool.and_eq_true, decide_eq_true_eq] at hf
  obtain ⟨f0, f1⟩ := hf
  obtain ⟨lt, mj, h0, h1, r0, r1⟩ := layout1 d a 67108864 (by decide) (by decide) (by decide) f0 f1 wd (Option.some.inj he)
  refine ⟨lt, word_ok ((row_04 wd (mj.trans (by decide))).trans ?_) hw⟩
  simp only [decode04, h0, h1, r0, r1]; rfl

theorem Sys2Proof.Laws.RoundTrip.ctz (d a : Nat) : Statement (.ctz d a) := by
  intro wd hw he
  have hf : (inU 7 d && inU 7 a) = true := hw
  simp only [Bool.and_eq_true, decide_eq_true_eq] at hf
  obtain ⟨f0, f1⟩ := hf
  obtain ⟨lt, mj, h0, h1, r0, r1⟩ := layout1 d a 67108865 (by decide) (by decide) (by decide) f0 f1 wd (Option.some.inj he)
  refine ⟨lt, word_ok ((row_04 wd (mj.trans (by decide))).trans ?_) hw⟩
  simp only [decode04, h0, h1, r0, r1]; rfl

theorem Sys2Proof.Laws.RoundTrip.popc (d a : Nat) : Statement (.popc d a) := by
  intro wd hw he
  have hf : (inU 7 d && inU 7 a) = true := hw
  simp only [Bool.and_eq_true, decide_eq_true_eq] at hf
  obtain ⟨f0, f1⟩ := hf
  obtain ⟨lt, mj, h0, h1, r0, r1⟩ := layout1 d a 67108866 (by decide) (by decide) (by decide) f0 f1 wd (Option.some.inj he)
  refine ⟨lt, word_ok ((row_04 wd (mj.trans (by decide))).trans ?_) hw⟩
  simp only [decode04, h0, h1, r0, r1]; rfl

theorem Sys2Proof.Laws.RoundTrip.sel (d a b q : Nat) : Statement (.sel d a b q) := by
  intro wd hw he
  have hf : (inU 7 d && inU 7 a && inU 7 b && inU 3 q) = true := hw
  simp only [Bool.and_eq_true, decide_eq_true_eq] at hf
  obtain ⟨⟨⟨f0, f1⟩, f2⟩, f3⟩ := hf
  obtain ⟨lt, mj, h0, h1, h2, h3⟩ := layout2 d a b q 83886080 (by decide) (by decide) (by decide) (by decide) (by decide) f0 f1 f2 f3 wd (Option.some.inj he)
  refine ⟨lt, word_ok ((row_05 wd (mj.trans (by decide))).trans ?_) hw⟩
  simp only [decode05, h0, h1, h2, h3]; rfl

theorem Sys2Proof.Laws.RoundTrip.padd (d a b : Nat) : Statement (.padd d a b) := by
  intro wd hw he
  have hf : (inU 7 d && inU 7 a && inU 7 b) = true := hw
  simp only [Bool.and_eq_true, decide_eq_true_eq] at hf
  obtain ⟨⟨f0, f1⟩, f2⟩ := hf
  obtain ⟨lt, mj, h0, h1, h2, r0⟩ := layout0 d a b 100663296 (by decide) (by decide) (by decide) (by decide) f0 f1 f2 wd (Option.some.inj he)
  refine ⟨lt, word_ok ((row_06 wd (mj.trans (by decide))).trans ?_) hw⟩
  simp only [decode06, h0, h1, h2, r0]; rfl

theorem Sys2Proof.Laws.RoundTrip.qopAnd (d a b : Nat) : Statement (.qopAnd d a b) := by
  intro wd hw he
  have hf : (inU 3 d && inU 3 a && inU 3 b) = true := hw
  simp only [Bool.and_eq_true, decide_eq_true_eq] at hf
  obtain ⟨⟨f0, f1⟩, f2⟩ := hf
  obtain ⟨lt, mj, h0, h1, h2, r0, r1, r2⟩ := layout3 d a b 117440512 (by decide) (by decide) (by decide) (by decide) f0 f1 f2 wd (Option.some.inj he)
  refine ⟨lt, word_ok ((row_07 wd (mj.trans (by decide))).trans ?_) hw⟩
  simp only [decode07, h0, h1, h2, r0, r1, r2]; rfl

theorem Sys2Proof.Laws.RoundTrip.qopOr (d a b : Nat) : Statement (.qopOr d a b) := by
  intro wd hw he
  have hf : (inU 3 d && inU 3 a && inU 3 b) = true := hw
  simp only [Bool.and_eq_true, decide_eq_true_eq] at hf
  obtain ⟨⟨f0, f1⟩, f2⟩ := hf
  obtain ⟨lt, mj, h0, h1, h2, r0, r1, r2⟩ := layout3 d a b 117440528 (by decide) (by decide) (by decide) (by decide) f0 f1 f2 wd (Option.some.inj he)
  refine ⟨lt, word_ok ((row_07 wd (mj.trans (by decide))).trans ?_) hw⟩
  simp only [decode07, h0, h1, h2, r0, r1, r2]; rfl

theorem Sys2Proof.Laws.RoundTrip.qopXor (d a b : Nat) : Statement (.qopXor d a b) := by
  intro wd hw he
  have hf : (inU 3 d && inU 3 a && inU 3 b) = true := hw
  simp only [Bool.and_eq_true, decide_eq_true_eq] at hf
  obtain ⟨⟨f0, f1⟩, f2⟩ := hf
  obtain ⟨lt, mj, h0, h1, h2, r0, r1, r2⟩ := layout3 d a b 117440544 (by decide) (by decide) (by decide) (by decide) f0 f1 f2 wd (Option.some.inj he)
  refine ⟨lt, word_ok ((row_07 wd (mj.trans (by decide))).trans ?_) hw⟩
  simp only [decode07, h0, h1, h2, r0, r1, r2]; rfl

theorem Sys2Proof.Laws.RoundTrip.qopAndn (d a b : Nat) : Statement (.qopAndn d a b) := by
  intro wd hw he
  have hf : (inU 3 d && inU 3 a && inU 3 b) = true := hw
  simp only [Bool.and_eq_true, decide_eq_true_eq] at hf
  obtain ⟨⟨f0, f1⟩, f2⟩ := hf
  obtain ⟨lt, mj, h0, h1, h2, r0, r1, r2⟩ := layout3 d a b 117440560 (by decide) (by decide) (by decide) (by decide) f0 f1 f2 wd (Option.some.inj he)
  refine ⟨lt, word_ok ((row_07 wd (mj.trans (by decide))).trans ?_) hw⟩
  simp only [decode07, h0, h1, h2, r0, r1, r2]; rfl

theorem Sys2Proof.Laws.RoundTrip.qopOrn (d a b : Nat) : Statement (.qopOrn d a b) := by
  intro wd hw he
  have hf : (inU 3 d && inU 3 a && inU 3 b) = true := hw
  simp only [Bool.and_eq_true, decide_eq_true_eq] at hf
  obtain ⟨⟨f0, f1⟩, f2⟩ := hf
  obtain ⟨lt, mj, h0, h1, h2, r0, r1, r2⟩ := layout3 d a b 117440576 (by decide) (by decide) (by decide) (by decide) f0 f1 f2 wd (Option.some.inj he)
  refine ⟨lt, word_ok ((row_07 wd (mj.trans (by decide))).trans ?_) hw⟩
  simp only [decode07, h0, h1, h2, r0, r1, r2]; rfl

theorem Sys2Proof.Laws.RoundTrip.qopXnor (d a b : Nat) : Statement (.qopXnor d a b) := by
  intro wd hw he
  have hf : (inU 3 d && inU 3 a && inU 3 b) = true := hw
  simp only [Bool.and_eq_true, decide_eq_true_eq] at hf
  obtain ⟨⟨f0, f1⟩, f2⟩ := hf
  obtain ⟨lt, mj, h0, h1, h2, r0, r1, r2⟩ := layout3 d a b 117440592 (by decide) (by decide) (by decide) (by decide) f0 f1 f2 wd (Option.some.inj he)
  refine ⟨lt, word_ok ((row_07 wd (mj.trans (by decide))).trans ?_) hw⟩
  simp only [decode07, h0, h1, h2, r0, r1, r2]; rfl

theorem Sys2Proof.Laws.RoundTrip.qopNot (d a : Nat) : Statement (.qopNot d a) := by
  intro wd hw he
  have hf : (inU 3 d && inU 3 a) = true := hw
  simp only [Bool.and_eq_true, decide_eq_true_eq] at hf
  obtain ⟨f0, f1⟩ := hf
  obtain ⟨lt, mj, h0, h1, r0, r1, r2, r3⟩ := layout4 d a 117440608 (by decide) (by decide) (by decide) f0 f1 wd (Option.some.inj he)
  refine ⟨lt, word_ok ((row_07 wd (mj.trans (by decide))).trans ?_) hw⟩
  simp only [decode07, h0, h1, r0, r1, r2, r3]; rfl

theorem Sys2Proof.Laws.RoundTrip.cmpEq (q a b : Nat) : Statement (.cmpEq q a b) := by
  intro wd hw he
  have hf : (inU 3 q && inU 7 a && inU 7 b) = true := hw
  simp only [Bool.and_eq_true, decide_eq_true_eq] at hf
  obtain ⟨⟨f0, f1⟩, f2⟩ := hf
  obtain ⟨lt, mj, h0, h1, h2, r0⟩ := layout5 q a b 134217728 (by decide) (by decide) (by decide) (by decide) f0 f1 f2 wd (Option.some.inj he)
  refine ⟨lt, word_ok ((row_08 wd (mj.trans (by decide))).trans ?_) hw⟩
  simp only [decode08, h0, h1, h2, r0]; rfl

theorem Sys2Proof.Laws.RoundTrip.cmpNe (q a b : Nat) : Statement (.cmpNe q a b) := by
  intro wd hw he
  have hf : (inU 3 q && inU 7 a && inU 7 b) = true := hw
  simp only [Bool.and_eq_true, decide_eq_true_eq] at hf
  obtain ⟨⟨f0, f1⟩, f2⟩ := hf
  obtain ⟨lt, mj, h0, h1, h2, r0⟩ := layout5 q a b 134217744 (by decide) (by decide) (by decide) (by decide) f0 f1 f2 wd (Option.some.inj he)
  refine ⟨lt, word_ok ((row_08 wd (mj.trans (by decide))).trans ?_) hw⟩
  simp only [decode08, h0, h1, h2, r0]; rfl

theorem Sys2Proof.Laws.RoundTrip.cmpLt (q a b : Nat) : Statement (.cmpLt q a b) := by
  intro wd hw he
  have hf : (inU 3 q && inU 7 a && inU 7 b) = true := hw
  simp only [Bool.and_eq_true, decide_eq_true_eq] at hf
  obtain ⟨⟨f0, f1⟩, f2⟩ := hf
  obtain ⟨lt, mj, h0, h1, h2, r0⟩ := layout5 q a b 134217760 (by decide) (by decide) (by decide) (by decide) f0 f1 f2 wd (Option.some.inj he)
  refine ⟨lt, word_ok ((row_08 wd (mj.trans (by decide))).trans ?_) hw⟩
  simp only [decode08, h0, h1, h2, r0]; rfl

theorem Sys2Proof.Laws.RoundTrip.cmpGe (q a b : Nat) : Statement (.cmpGe q a b) := by
  intro wd hw he
  have hf : (inU 3 q && inU 7 a && inU 7 b) = true := hw
  simp only [Bool.and_eq_true, decide_eq_true_eq] at hf
  obtain ⟨⟨f0, f1⟩, f2⟩ := hf
  obtain ⟨lt, mj, h0, h1, h2, r0⟩ := layout5 q a b 134217776 (by decide) (by decide) (by decide) (by decide) f0 f1 f2 wd (Option.some.inj he)
  refine ⟨lt, word_ok ((row_08 wd (mj.trans (by decide))).trans ?_) hw⟩
  simp only [decode08, h0, h1, h2, r0]; rfl

theorem Sys2Proof.Laws.RoundTrip.cmpLtu (q a b : Nat) : Statement (.cmpLtu q a b) := by
  intro wd hw he
  have hf : (inU 3 q && inU 7 a && inU 7 b) = true := hw
  simp only [Bool.and_eq_true, decide_eq_true_eq] at hf
  obtain ⟨⟨f0, f1⟩, f2⟩ := hf
  obtain ⟨lt, mj, h0, h1, h2, r0⟩ := layout5 q a b 134217792 (by decide) (by decide) (by decide) (by decide) f0 f1 f2 wd (Option.some.inj he)
  refine ⟨lt, word_ok ((row_08 wd (mj.trans (by decide))).trans ?_) hw⟩
  simp only [decode08, h0, h1, h2, r0]; rfl

theorem Sys2Proof.Laws.RoundTrip.cmpGeu (q a b : Nat) : Statement (.cmpGeu q a b) := by
  intro wd hw he
  have hf : (inU 3 q && inU 7 a && inU 7 b) = true := hw
  simp only [Bool.and_eq_true, decide_eq_true_eq] at hf
  obtain ⟨⟨f0, f1⟩, f2⟩ := hf
  obtain ⟨lt, mj, h0, h1, h2, r0⟩ := layout5 q a b 134217808 (by decide) (by decide) (by decide) (by decide) f0 f1 f2 wd (Option.some.inj he)
  refine ⟨lt, word_ok ((row_08 wd (mj.trans (by decide))).trans ?_) hw⟩
  simp only [decode08, h0, h1, h2, r0]; rfl

theorem Sys2Proof.Laws.RoundTrip.cmpTst (q a b : Nat) : Statement (.cmpTst q a b) := by
  intro wd hw he
  have hf : (inU 3 q && inU 7 a && inU 7 b) = true := hw
  simp only [Bool.and_eq_true, decide_eq_true_eq] at hf
  obtain ⟨⟨f0, f1⟩, f2⟩ := hf
  obtain ⟨lt, mj, h0, h1, h2, r0⟩ := layout5 q a b 134217824 (by decide) (by decide) (by decide) (by decide) f0 f1 f2 wd (Option.some.inj he)
  refine ⟨lt, word_ok ((row_08 wd (mj.trans (by decide))).trans ?_) hw⟩
  simp only [decode08, h0, h1, h2, r0]; rfl

theorem Sys2Proof.Laws.RoundTrip.cmpiEq (q a : Nat) (i : Int) : Statement (.cmpiEq q a i) := by
  intro wd hw he
  have hf : (inU 3 q && inU 7 a && inS 7 i) = true := hw
  simp only [Bool.and_eq_true, decide_eq_true_eq] at hf
  obtain ⟨⟨f0, f1⟩, f2⟩ := hf
  obtain ⟨s1, s2⟩ := sext_ofSigned 7 i (by decide) f2.1 f2.2
  obtain ⟨lt, mj, h0, h1, h2, r0⟩ := layout5 q a (ofSigned 7 i) 150994944 (by decide) (by decide) (by decide) (by decide) f0 f1 s2 wd (Option.some.inj he)
  refine ⟨lt, word_ok ((row_09 wd (mj.trans (by decide))).trans ?_) hw⟩
  simp only [decode09, h0, h1, h2, r0, s1]; rfl

theorem Sys2Proof.Laws.RoundTrip.cmpiNe (q a : Nat) (i : Int) : Statement (.cmpiNe q a i) := by
  intro wd hw he
  have hf : (inU 3 q && inU 7 a && inS 7 i) = true := hw
  simp only [Bool.and_eq_true, decide_eq_true_eq] at hf
  obtain ⟨⟨f0, f1⟩, f2⟩ := hf
  obtain ⟨s1, s2⟩ := sext_ofSigned 7 i (by decide) f2.1 f2.2
  obtain ⟨lt, mj, h0, h1, h2, r0⟩ := layout5 q a (ofSigned 7 i) 150994960 (by decide) (by decide) (by decide) (by decide) f0 f1 s2 wd (Option.some.inj he)
  refine ⟨lt, word_ok ((row_09 wd (mj.trans (by decide))).trans ?_) hw⟩
  simp only [decode09, h0, h1, h2, r0, s1]; rfl

theorem Sys2Proof.Laws.RoundTrip.cmpiLt (q a : Nat) (i : Int) : Statement (.cmpiLt q a i) := by
  intro wd hw he
  have hf : (inU 3 q && inU 7 a && inS 7 i) = true := hw
  simp only [Bool.and_eq_true, decide_eq_true_eq] at hf
  obtain ⟨⟨f0, f1⟩, f2⟩ := hf
  obtain ⟨s1, s2⟩ := sext_ofSigned 7 i (by decide) f2.1 f2.2
  obtain ⟨lt, mj, h0, h1, h2, r0⟩ := layout5 q a (ofSigned 7 i) 150994976 (by decide) (by decide) (by decide) (by decide) f0 f1 s2 wd (Option.some.inj he)
  refine ⟨lt, word_ok ((row_09 wd (mj.trans (by decide))).trans ?_) hw⟩
  simp only [decode09, h0, h1, h2, r0, s1]; rfl

theorem Sys2Proof.Laws.RoundTrip.cmpiGe (q a : Nat) (i : Int) : Statement (.cmpiGe q a i) := by
  intro wd hw he
  have hf : (inU 3 q && inU 7 a && inS 7 i) = true := hw
  simp only [Bool.and_eq_true, decide_eq_true_eq] at hf
  obtain ⟨⟨f0, f1⟩, f2⟩ := hf
  obtain ⟨s1, s2⟩ := sext_ofSigned 7 i (by decide) f2.1 f2.2
  obtain ⟨lt, mj, h0, h1, h2, r0⟩ := layout5 q a (ofSigned 7 i) 150994992 (by decide) (by decide) (by decide) (by decide) f0 f1 s2 wd (Option.some.inj he)
  refine ⟨lt, word_ok ((row_09 wd (mj.trans (by decide))).trans ?_) hw⟩
  simp only [decode09, h0, h1, h2, r0, s1]; rfl

theorem Sys2Proof.Laws.RoundTrip.cmpiLtu (q a : Nat) (i : Int) : Statement (.cmpiLtu q a i) := by
  intro wd hw he
  have hf : (inU 3 q && inU 7 a && inS 7 i) = true := hw
  simp only [Bool.and_eq_true, decide_eq_true_eq] at hf
  obtain ⟨⟨f0, f1⟩, f2⟩ := hf
  obtain ⟨s1, s2⟩ := sext_ofSigned 7 i (by decide) f2.1 f2.2
  obtain ⟨lt, mj, h0, h1, h2, r0⟩ := layout5 q a (ofSigned 7 i) 150995008 (by decide) (by decide) (by decide) (by decide) f0 f1 s2 wd (Option.some.inj he)
  refine ⟨lt, word_ok ((row_09 wd (mj.trans (by decide))).trans ?_) hw⟩
  simp only [decode09, h0, h1, h2, r0, s1]; rfl

theorem Sys2Proof.Laws.RoundTrip.cmpiGeu (q a : Nat) (i : Int) : Statement (.cmpiGeu q a i) := by
  intro wd hw he
  have hf : (inU 3 q && inU 7 a && inS 7 i) = true := hw
  simp only [Bool.and_eq_true, decide_eq_true_eq] at hf
  obtain ⟨⟨f0, f1⟩, f2⟩ := hf
  obtain ⟨s1, s2⟩ := sext_ofSigned 7 i (by decide) f2.1 f2.2
  obtain ⟨lt, mj, h0, h1, h2, r0⟩ := layout5 q a (ofSigned 7 i) 150995024 (by decide) (by decide) (by decide) (by decide) f0 f1 s2 wd (Option.some.inj he)
  refine ⟨lt, word_ok ((row_09 wd (mj.trans (by decide))).trans ?_) hw⟩
  simp only [decode09, h0, h1, h2, r0, s1]; rfl

theorem Sys2Proof.Laws.RoundTrip.cmpiTst (q a : Nat) (i : Int) : Statement (.cmpiTst q a i) := by
  intro wd hw he
  have hf : (inU 3 q && inU 7 a && inS 7 i) = true := hw
  simp only [Bool.and_eq_true, decide_eq_true_eq] at hf
  obtain ⟨⟨f0, f1⟩, f2⟩ := hf
  obtain ⟨s1, s2⟩ := sext_ofSigned 7 i (by decide) f2.1 f2.2
  obtain ⟨lt, mj, h0, h1, h2, r0⟩ := layout5 q a (ofSigned 7 i) 150995040 (by decide) (by decide) (by decide) (by decide) f0 f1 s2 wd (Option.some.inj he)
  refine ⟨lt, word_ok ((row_09 wd (mj.trans (by decide))).trans ?_) hw⟩
  simp only [decode09, h0, h1, h2, r0, s1]; rfl

theorem Sys2Proof.Laws.RoundTrip.bfx (d a b : Nat) : Statement (.bfx d a b) := by
  intro wd hw he
  have hf : (inU 7 d && inU 7 a && inU 7 b) = true := hw
  simp only [Bool.and_eq_true, decide_eq_true_eq] at hf
  obtain ⟨⟨f0, f1⟩, f2⟩ := hf
  obtain ⟨lt, mj, h0, h1, h2, r0⟩ := layout0 d a b 167772160 (by decide) (by decide) (by decide) (by decide) f0 f1 f2 wd (Option.some.inj he)
  refine ⟨lt, word_ok ((row_0A wd (mj.trans (by decide))).trans ?_) hw⟩
  simp only [decode0A, h0, h1, h2, r0]; rfl

theorem Sys2Proof.Laws.RoundTrip.bfi (d a b : Nat) : Statement (.bfi d a b) := by
  intro wd hw he
  have hf : (inU 7 d && inU 7 a && inU 7 b) = true := hw
  simp only [Bool.and_eq_true, decide_eq_true_eq] at hf
  obtain ⟨⟨f0, f1⟩, f2⟩ := hf
  obtain ⟨lt, mj, h0, h1, h2, r0⟩ := layout0 d a b 167772161 (by decide) (by decide) (by decide) (by decide) f0 f1 f2 wd (Option.some.inj he)
  refine ⟨lt, word_ok ((row_0A wd (mj.trans (by decide))).trans ?_) hw⟩
  simp only [decode0A, h0, h1, h2, r0]; rfl

theorem Sys2Proof.Laws.RoundTrip.addi (d a : Nat) (i : Int) : Statement (.addi d a i) := by
  intro wd hw he
  have hf : (inU 7 d && inU 7 a && inS 10 i) = true := hw
  simp only [Bool.and_eq_true, decide_eq_true_eq] at hf
  obtain ⟨⟨f0, f1⟩, f2⟩ := hf
  obtain ⟨s1, s2⟩ := sext_ofSigned 10 i (by decide) f2.1 f2.2
  obtain ⟨lt, mj, h0, h1, h2⟩ := layout6 d a (ofSigned 10 i) 268435456 (by decide) (by decide) (by decide) (by decide) f0 f1 s2 wd (Option.some.inj he)
  refine ⟨lt, word_ok ((row_10 wd (mj.trans (by decide))).trans ?_) hw⟩
  simp only [decode10, h0, h1, h2, s1]; rfl

theorem Sys2Proof.Laws.RoundTrip.andi (d a : Nat) (i : Int) : Statement (.andi d a i) := by
  intro wd hw he
  have hf : (inU 7 d && inU 7 a && inS 10 i) = true := hw
  simp only [Bool.and_eq_true, decide_eq_true_eq] at hf
  obtain ⟨⟨f0, f1⟩, f2⟩ := hf
  obtain ⟨s1, s2⟩ := sext_ofSigned 10 i (by decide) f2.1 f2.2
  obtain ⟨lt, mj, h0, h1, h2⟩ := layout6 d a (ofSigned 10 i) 285212672 (by decide) (by decide) (by decide) (by decide) f0 f1 s2 wd (Option.some.inj he)
  refine ⟨lt, word_ok ((row_11 wd (mj.trans (by decide))).trans ?_) hw⟩
  simp only [decode11, h0, h1, h2, s1]; rfl

theorem Sys2Proof.Laws.RoundTrip.ori (d a : Nat) (i : Int) : Statement (.ori d a i) := by
  intro wd hw he
  have hf : (inU 7 d && inU 7 a && inS 10 i) = true := hw
  simp only [Bool.and_eq_true, decide_eq_true_eq] at hf
  obtain ⟨⟨f0, f1⟩, f2⟩ := hf
  obtain ⟨s1, s2⟩ := sext_ofSigned 10 i (by decide) f2.1 f2.2
  obtain ⟨lt, mj, h0, h1, h2⟩ := layout6 d a (ofSigned 10 i) 301989888 (by decide) (by decide) (by decide) (by decide) f0 f1 s2 wd (Option.some.inj he)
  refine ⟨lt, word_ok ((row_12 wd (mj.trans (by decide))).trans ?_) hw⟩
  simp only [decode12, h0, h1, h2, s1]; rfl

theorem Sys2Proof.Laws.RoundTrip.xori (d a : Nat) (i : Int) : Statement (.xori d a i) := by
  intro wd hw he
  have hf : (inU 7 d && inU 7 a && inS 10 i) = true := hw
  simp only [Bool.and_eq_true, decide_eq_true_eq] at hf
  obtain ⟨⟨f0, f1⟩, f2⟩ := hf
  obtain ⟨s1, s2⟩ := sext_ofSigned 10 i (by decide) f2.1 f2.2
  obtain ⟨lt, mj, h0, h1, h2⟩ := layout6 d a (ofSigned 10 i) 318767104 (by decide) (by decide) (by decide) (by decide) f0 f1 s2 wd (Option.some.inj he)
  refine ⟨lt, word_ok ((row_13 wd (mj.trans (by decide))).trans ?_) hw⟩
  simp only [decode13, h0, h1, h2, s1]; rfl

theorem Sys2Proof.Laws.RoundTrip.shli (d a i : Nat) : Statement (.shli d a i) := by
  intro wd hw he
  have hf : (inU 7 d && inU 7 a && inU 6 i) = true := hw
  simp only [Bool.and_eq_true, decide_eq_true_eq] at hf
  obtain ⟨⟨f0, f1⟩, f2⟩ := hf
  obtain ⟨lt, mj, h0, h1, h2, r0⟩ := layout7 d a i 335544320 (by decide) (by decide) (by decide) (by decide) f0 f1 f2 wd (Option.some.inj he)
  refine ⟨lt, word_ok ((row_14 wd (mj.trans (by decide))).trans ?_) hw⟩
  simp only [decode14, h0, h1, h2, r0]; rfl

theorem Sys2Proof.Laws.RoundTrip.shri (d a i : Nat) : Statement (.shri d a i) := by
  intro wd hw he
  have hf : (inU 7 d && inU 7 a && inU 6 i) = true := hw
  simp only [Bool.and_eq_true, decide_eq_true_eq] at hf
  obtain ⟨⟨f0, f1⟩, f2⟩ := hf
  obtain ⟨lt, mj, h0, h1, h2, r0⟩ := layout7 d a i 352321536 (by decide) (by decide) (by decide) (by decide) f0 f1 f2 wd (Option.some.inj he)
  refine ⟨lt, word_ok ((row_15 wd (mj.trans (by decide))).trans ?_) hw⟩
  simp only [decode15, h0, h1, h2, r0]; rfl

theorem Sys2Proof.Laws.RoundTrip.srai (d a i : Nat) : Statement (.srai d a i) := by
  intro wd hw he
  have hf : (inU 7 d && inU 7 a && inU 6 i) = true := hw
  simp only [Bool.and_eq_true, decide_eq_true_eq] at hf
  obtain ⟨⟨f0, f1⟩, f2⟩ := hf
  obtain ⟨lt, mj, h0, h1, h2, r0⟩ := layout7 d a i 369098752 (by decide) (by decide) (by decide) (by decide) f0 f1 f2 wd (Option.some.inj he)
  refine ⟨lt, word_ok ((row_16 wd (mj.trans (by decide))).trans ?_) hw⟩
  simp only [decode16, h0, h1, h2, r0]; rfl

theorem Sys2Proof.Laws.RoundTrip.lih (d a : Nat) (i : Int) : Statement (.lih d a i) := by
  intro wd hw he
  have hf : (inU 7 d && inU 7 a && inS 10 i) = true := hw
  simp only [Bool.and_eq_true, decide_eq_true_eq] at hf
  obtain ⟨⟨f0, f1⟩, f2⟩ := hf
  obtain ⟨s1, s2⟩ := sext_ofSigned 10 i (by decide) f2.1 f2.2
  obtain ⟨lt, mj, h0, h1, h2⟩ := layout6 d a (ofSigned 10 i) 385875968 (by decide) (by decide) (by decide) (by decide) f0 f1 s2 wd (Option.some.inj he)
  refine ⟨lt, word_ok ((row_17 wd (mj.trans (by decide))).trans ?_) hw⟩
  simp only [decode17, h0, h1, h2, s1]; rfl

theorem Sys2Proof.Laws.RoundTrip.ptag (d a t : Nat) : Statement (.ptag d a t) := by
  intro wd hw he
  have hf : (inU 7 d && inU 7 a && inU 8 t) = true := hw
  simp only [Bool.and_eq_true, decide_eq_true_eq] at hf
  obtain ⟨⟨f0, f1⟩, f2⟩ := hf
  obtain ⟨lt, mj, h0, h1, h2, r0⟩ := layout8 d a t 402653184 (by decide) (by decide) (by decide) (by decide) f0 f1 f2 wd (Option.some.inj he)
  refine ⟨lt, word_ok ((row_18 wd (mj.trans (by decide))).trans ?_) hw⟩
  simp only [decode18, h0, h1, h2, r0]; rfl

theorem Sys2Proof.Laws.RoundTrip.br (q n : Nat) (o : Int) : Statement (.br q n o) := by
  intro wd hw he
  have hf : (inU 3 q && inU 1 n && inS 20 o && !(q == 0 && n == 1)) = true := hw
  simp only [Bool.and_eq_true, decide_eq_true_eq] at hf
  obtain ⟨⟨⟨f0, f1⟩, f2⟩, f3⟩ := hf
  obtain ⟨s1, s2⟩ := sext_ofSigned 20 o (by decide) f2.1 f2.2
  obtain ⟨lt, mj, h0, h1, h2⟩ := layout9 q n (ofSigned 20 o) 536870912 (by decide) (by decide) (by decide) (by decide) f0 f1 s2 wd (Option.some.inj he)
  refine ⟨lt, word_ok ((row_20 wd (mj.trans (by decide))).trans ?_) hw⟩
  simp only [decode20, h0, h1, h2, s1]; rfl

theorem Sys2Proof.Laws.RoundTrip.jal (d : Nat) (o : Int) : Statement (.jal d o) := by
  intro wd hw he
  have hf : (inU 7 d && inS 17 o) = true := hw
  simp only [Bool.and_eq_true, decide_eq_true_eq] at hf
  obtain ⟨f0, f1⟩ := hf
  obtain ⟨s1, s2⟩ := sext_ofSigned 17 o (by decide) f1.1 f1.2
  obtain ⟨lt, mj, h0, h1⟩ := layout10 d (ofSigned 17 o) 553648128 (by decide) (by decide) (by decide) f0 s2 wd (Option.some.inj he)
  refine ⟨lt, word_ok ((row_21 wd (mj.trans (by decide))).trans ?_) hw⟩
  simp only [decode21, h0, h1, s1]; rfl

theorem Sys2Proof.Laws.RoundTrip.jalr (d a : Nat) (i : Int) : Statement (.jalr d a i) := by
  intro wd hw he
  have hf : (inU 7 d && inU 7 a && inS 10 i) = true := hw
  simp only [Bool.and_eq_true, decide_eq_true_eq] at hf
  obtain ⟨⟨f0, f1⟩, f2⟩ := hf
  obtain ⟨s1, s2⟩ := sext_ofSigned 10 i (by decide) f2.1 f2.2
  obtain ⟨lt, mj, h0, h1, h2⟩ := layout6 d a (ofSigned 10 i) 570425344 (by decide) (by decide) (by decide) (by decide) f0 f1 s2 wd (Option.some.inj he)
  refine ⟨lt, word_ok ((row_22 wd (mj.trans (by decide))).trans ?_) hw⟩
  simp only [decode22, h0, h1, h2, s1]; rfl

theorem Sys2Proof.Laws.RoundTrip.rep (a : Nat) (i : Int) : Statement (.rep a i) := by
  intro wd hw he
  have hf : (inU 7 a && inS 10 i && a != 0 && decide (1 ≤ i)) = true := hw
  simp only [Bool.and_eq_true, decide_eq_true_eq] at hf
  obtain ⟨⟨⟨f0, f1⟩, f2⟩, f3⟩ := hf
  obtain ⟨s1, s2⟩ := sext_ofSigned 10 i (by decide) f1.1 f1.2
  obtain ⟨lt, mj, h0, h1, r0⟩ := layout11 a (ofSigned 10 i) 587202560 (by decide) (by decide) (by decide) f0 s2 wd (Option.some.inj he)
  refine ⟨lt, word_ok ((row_23 wd (mj.trans (by decide))).trans ?_) hw⟩
  simp only [decode23, h0, h1, r0, s1]; rfl

theorem Sys2Proof.Laws.RoundTrip.fadd (t d a b : Nat) : Statement (.fadd t d a b) := by
  intro wd hw he
  have hf : (inU 2 t && inU 7 d && inU 7 a && inU 7 b) = true := hw
  simp only [Bool.and_eq_true, decide_eq_true_eq] at hf
  obtain ⟨⟨⟨f0, f1⟩, f2⟩, f3⟩ := hf
  obtain ⟨lt, mj, h0, h1, h2, h3, r0⟩ := layout12 t d a b 1073741824 (by decide) (by decide) (by decide) (by decide) (by decide) f0 f1 f2 f3 wd (Option.some.inj he)
  refine ⟨lt, word_ok ((row_40 wd (by omega)).trans ?_) hw⟩
  simp only [decode40, h0, h1, h2, h3, r0]; rfl

theorem Sys2Proof.Laws.RoundTrip.fsub (t d a b : Nat) : Statement (.fsub t d a b) := by
  intro wd hw he
  have hf : (inU 2 t && inU 7 d && inU 7 a && inU 7 b) = true := hw
  simp only [Bool.and_eq_true, decide_eq_true_eq] at hf
  obtain ⟨⟨⟨f0, f1⟩, f2⟩, f3⟩ := hf
  obtain ⟨lt, mj, h0, h1, h2, h3, r0⟩ := layout12 t d a b 1073741825 (by decide) (by decide) (by decide) (by decide) (by decide) f0 f1 f2 f3 wd (Option.some.inj he)
  refine ⟨lt, word_ok ((row_40 wd (by omega)).trans ?_) hw⟩
  simp only [decode40, h0, h1, h2, h3, r0]; rfl

theorem Sys2Proof.Laws.RoundTrip.fmul (t d a b : Nat) : Statement (.fmul t d a b) := by
  intro wd hw he
  have hf : (inU 2 t && inU 7 d && inU 7 a && inU 7 b) = true := hw
  simp only [Bool.and_eq_true, decide_eq_true_eq] at hf
  obtain ⟨⟨⟨f0, f1⟩, f2⟩, f3⟩ := hf
  obtain ⟨lt, mj, h0, h1, h2, h3, r0⟩ := layout12 t d a b 1073741826 (by decide) (by decide) (by decide) (by decide) (by decide) f0 f1 f2 f3 wd (Option.some.inj he)
  refine ⟨lt, word_ok ((row_40 wd (by omega)).trans ?_) hw⟩
  simp only [decode40, h0, h1, h2, h3, r0]; rfl

theorem Sys2Proof.Laws.RoundTrip.fdiv (t d a b : Nat) : Statement (.fdiv t d a b) := by
  intro wd hw he
  have hf : (inU 2 t && inU 7 d && inU 7 a && inU 7 b) = true := hw
  simp only [Bool.and_eq_true, decide_eq_true_eq] at hf
  obtain ⟨⟨⟨f0, f1⟩, f2⟩, f3⟩ := hf
  obtain ⟨lt, mj, h0, h1, h2, h3, r0⟩ := layout12 t d a b 1073741827 (by decide) (by decide) (by decide) (by decide) (by decide) f0 f1 f2 f3 wd (Option.some.inj he)
  refine ⟨lt, word_ok ((row_40 wd (by omega)).trans ?_) hw⟩
  simp only [decode40, h0, h1, h2, h3, r0]; rfl

theorem Sys2Proof.Laws.RoundTrip.fmin (t d a b : Nat) : Statement (.fmin t d a b) := by
  intro wd hw he
  have hf : (inU 2 t && inU 7 d && inU 7 a && inU 7 b) = true := hw
  simp only [Bool.and_eq_true, decide_eq_true_eq] at hf
  obtain ⟨⟨⟨f0, f1⟩, f2⟩, f3⟩ := hf
  obtain ⟨lt, mj, h0, h1, h2, h3, r0⟩ := layout12 t d a b 1073741828 (by decide) (by decide) (by decide) (by decide) (by decide) f0 f1 f2 f3 wd (Option.some.inj he)
  refine ⟨lt, word_ok ((row_40 wd (by omega)).trans ?_) hw⟩
  simp only [decode40, h0, h1, h2, h3, r0]; rfl

theorem Sys2Proof.Laws.RoundTrip.fmax (t d a b : Nat) : Statement (.fmax t d a b) := by
  intro wd hw he
  have hf : (inU 2 t && inU 7 d && inU 7 a && inU 7 b) = true := hw
  simp only [Bool.and_eq_true, decide_eq_true_eq] at hf
  obtain ⟨⟨⟨f0, f1⟩, f2⟩, f3⟩ := hf
  obtain ⟨lt, mj, h0, h1, h2, h3, r0⟩ := layout12 t d a b 1073741829 (by decide) (by decide) (by decide) (by decide) (by decide) f0 f1 f2 f3 wd (Option.some.inj he)
  refine ⟨lt, word_ok ((row_40 wd (by omega)).trans ?_) hw⟩
  simp only [decode40, h0, h1, h2, h3, r0]; rfl

theorem Sys2Proof.Laws.RoundTrip.fminn (t d a b : Nat) : Statement (.fminn t d a b) := by
  intro wd hw he
  have hf : (inU 2 t && inU 7 d && inU 7 a && inU 7 b) = true := hw
  simp only [Bool.and_eq_true, decide_eq_true_eq] at hf
  obtain ⟨⟨⟨f0, f1⟩, f2⟩, f3⟩ := hf
  obtain ⟨lt, mj, h0, h1, h2, h3, r0⟩ := layout12 t d a b 1073741830 (by decide) (by decide) (by decide) (by decide) (by decide) f0 f1 f2 f3 wd (Option.some.inj he)
  refine ⟨lt, word_ok ((row_40 wd (by omega)).trans ?_) hw⟩
  simp only [decode40, h0, h1, h2, h3, r0]; rfl

theorem Sys2Proof.Laws.RoundTrip.fmaxn (t d a b : Nat) : Statement (.fmaxn t d a b) := by
  intro wd hw he
  have hf : (inU 2 t && inU 7 d && inU 7 a && inU 7 b) = true := hw
  simp only [Bool.and_eq_true, decide_eq_true_eq] at hf
  obtain ⟨⟨⟨f0, f1⟩, f2⟩, f3⟩ := hf
  obtain ⟨lt, mj, h0, h1, h2, h3, r0⟩ := layout12 t d a b 1073741831 (by decide) (by decide) (by decide) (by decide) (by decide) f0 f1 f2 f3 wd (Option.some.inj he)
  refine ⟨lt, word_ok ((row_40 wd (by omega)).trans ?_) hw⟩
  simp only [decode40, h0, h1, h2, h3, r0]; rfl

theorem Sys2Proof.Laws.RoundTrip.fma (t d a b : Nat) : Statement (.fma t d a b) := by
  intro wd hw he
  have hf : (inU 2 t && inU 7 d && inU 7 a && inU 7 b) = true := hw
  simp only [Bool.and_eq_true, decide_eq_true_eq] at hf
  obtain ⟨⟨⟨f0, f1⟩, f2⟩, f3⟩ := hf
  obtain ⟨lt, mj, h0, h1, h2, h3, r0⟩ := layout12 t d a b 1140850688 (by decide) (by decide) (by decide) (by decide) (by decide) f0 f1 f2 f3 wd (Option.some.inj he)
  refine ⟨lt, word_ok ((row_44 wd (by omega)).trans ?_) hw⟩
  simp only [decode44, h0, h1, h2, h3, r0]; rfl

theorem Sys2Proof.Laws.RoundTrip.fnma (t d a b : Nat) : Statement (.fnma t d a b) := by
  intro wd hw he
  have hf : (inU 2 t && inU 7 d && inU 7 a && inU 7 b) = true := hw
  simp only [Bool.and_eq_true, decide_eq_true_eq] at hf
  obtain ⟨⟨⟨f0, f1⟩, f2⟩, f3⟩ := hf
  obtain ⟨lt, mj, h0, h1, h2, h3, r0⟩ := layout12 t d a b 1140850689 (by decide) (by decide) (by decide) (by decide) (by decide) f0 f1 f2 f3 wd (Option.some.inj he)
  refine ⟨lt, word_ok ((row_44 wd (by omega)).trans ?_) hw⟩
  simp only [decode44, h0, h1, h2, h3, r0]; rfl

theorem Sys2Proof.Laws.RoundTrip.fsqrt (t d a : Nat) : Statement (.fsqrt t d a) := by
  intro wd hw he
  have hf : (inU 2 t && inU 7 d && inU 7 a) = true := hw
  simp only [Bool.and_eq_true, decide_eq_true_eq] at hf
  obtain ⟨⟨f0, f1⟩, f2⟩ := hf
  obtain ⟨lt, mj, h0, h1, h2, r0, r1⟩ := layout13 t d a 1140850690 (by decide) (by decide) (by decide) (by decide) f0 f1 f2 wd (Option.some.inj he)
  refine ⟨lt, word_ok ((row_44 wd (by omega)).trans ?_) hw⟩
  simp only [decode44, h0, h1, h2, r0, r1]; rfl

theorem Sys2Proof.Laws.RoundTrip.fclass (t d a : Nat) : Statement (.fclass t d a) := by
  intro wd hw he
  have hf : (inU 2 t && inU 7 d && inU 7 a) = true := hw
  simp only [Bool.and_eq_true, decide_eq_true_eq] at hf
  obtain ⟨⟨f0, f1⟩, f2⟩ := hf
  obtain ⟨lt, mj, h0, h1, h2, r0, r1⟩ := layout13 t d a 1140850691 (by decide) (by decide) (by decide) (by decide) f0 f1 f2 wd (Option.some.inj he)
  refine ⟨lt, word_ok ((row_44 wd (by omega)).trans ?_) hw⟩
  simp only [decode44, h0, h1, h2, r0, r1]; rfl

theorem Sys2Proof.Laws.RoundTrip.fcmpEq (t q a b : Nat) : Statement (.fcmpEq t q a b) := by
  intro wd hw he
  have hf : (inU 2 t && inU 3 q && inU 7 a && inU 7 b) = true := hw
  simp only [Bool.and_eq_true, decide_eq_true_eq] at hf
  obtain ⟨⟨⟨f0, f1⟩, f2⟩, f3⟩ := hf
  obtain ⟨lt, mj, h0, h1, h2, h3, r0⟩ := layout14 t q a b 1207959552 (by decide) (by decide) (by decide) (by decide) (by decide) f0 f1 f2 f3 wd (Option.some.inj he)
  refine ⟨lt, word_ok ((row_48 wd (by omega)).trans ?_) hw⟩
  simp only [decode48, h0, h1, h2, h3, r0]; rfl

theorem Sys2Proof.Laws.RoundTrip.fcmpNe (t q a b : Nat) : Statement (.fcmpNe t q a b) := by
  intro wd hw he
  have hf : (inU 2 t && inU 3 q && inU 7 a && inU 7 b) = true := hw
  simp only [Bool.and_eq_true, decide_eq_true_eq] at hf
  obtain ⟨⟨⟨f0, f1⟩, f2⟩, f3⟩ := hf
  obtain ⟨lt, mj, h0, h1, h2, h3, r0⟩ := layout14 t q a b 1207959568 (by decide) (by decide) (by decide) (by decide) (by decide) f0 f1 f2 f3 wd (Option.some.inj he)
  refine ⟨lt, word_ok ((row_48 wd (by omega)).trans ?_) hw⟩
  simp only [decode48, h0, h1, h2, h3, r0]; rfl

theorem Sys2Proof.Laws.RoundTrip.fcmpLt (t q a b : Nat) : Statement (.fcmpLt t q a b) := by
  intro wd hw he
  have hf : (inU 2 t && inU 3 q && inU 7 a && inU 7 b) = true := hw
  simp only [Bool.and_eq_true, decide_eq_true_eq] at hf
  obtain ⟨⟨⟨f0, f1⟩, f2⟩, f3⟩ := hf
  obtain ⟨lt, mj, h0, h1, h2, h3, r0⟩ := layout14 t q a b 1207959584 (by decide) (by decide) (by decide) (by decide) (by decide) f0 f1 f2 f3 wd (Option.some.inj he)
  refine ⟨lt, word_ok ((row_48 wd (by omega)).trans ?_) hw⟩
  simp only [decode48, h0, h1, h2, h3, r0]; rfl

theorem Sys2Proof.Laws.RoundTrip.fcmpLe (t q a b : Nat) : Statement (.fcmpLe t q a b) := by
  intro wd hw he
  have hf : (inU 2 t && inU 3 q && inU 7 a && inU 7 b) = true := hw
  simp only [Bool.and_eq_true, decide_eq_true_eq] at hf
  obtain ⟨⟨⟨f0, f1⟩, f2⟩, f3⟩ := hf
  obtain ⟨lt, mj, h0, h1, h2, h3, r0⟩ := layout14 t q a b 1207959600 (by decide) (by decide) (by decide) (by decide) (by decide) f0 f1 f2 f3 wd (Option.some.inj he)
  refine ⟨lt, word_ok ((row_48 wd (by omega)).trans ?_) hw⟩
  simp only [decode48, h0, h1, h2, h3, r0]; rfl

theorem Sys2Proof.Laws.RoundTrip.fcmpGt (t q a b : Nat) : Statement (.fcmpGt t q a b) := by
  intro wd hw he
  have hf : (inU 2 t && inU 3 q && inU 7 a && inU 7 b) = true := hw
  simp only [Bool.and_eq_true, decide_eq_true_eq] at hf
  obtain ⟨⟨⟨f0, f1⟩, f2⟩, f3⟩ := hf
  obtain ⟨lt, mj, h0, h1, h2, h3, r0⟩ := layout14 t q a b 1207959616 (by decide) (by decide) (by decide) (by decide) (by decide) f0 f1 f2 f3 wd (Option.some.inj he)
  refine ⟨lt, word_ok ((row_48 wd (by omega)).trans ?_) hw⟩
  simp only [decode48, h0, h1, h2, h3, r0]; rfl

theorem Sys2Proof.Laws.RoundTrip.fcmpGe (t q a b : Nat) : Statement (.fcmpGe t q a b) := by
  intro wd hw he
  have hf : (inU 2 t && inU 3 q && inU 7 a && inU 7 b) = true := hw
  simp only [Bool.and_eq_true, decide_eq_true_eq] at hf
  obtain ⟨⟨⟨f0, f1⟩, f2⟩, f3⟩ := hf
  obtain ⟨lt, mj, h0, h1, h2, h3, r0⟩ := layout14 t q a b 1207959632 (by decide) (by decide) (by decide) (by decide) (by decide) f0 f1 f2 f3 wd (Option.some.inj he)
  refine ⟨lt, word_ok ((row_48 wd (by omega)).trans ?_) hw⟩
  simp only [decode48, h0, h1, h2, h3, r0]; rfl

theorem Sys2Proof.Laws.RoundTrip.fcmpUn (t q a b : Nat) : Statement (.fcmpUn t q a b) := by
  intro wd hw he
  have hf : (inU 2 t && inU 3 q && inU 7 a && inU 7 b) = true := hw
  simp only [Bool.and_eq_true, decide_eq_true_eq] at hf
  obtain ⟨⟨⟨f0, f1⟩, f2⟩, f3⟩ := hf
  obtain ⟨lt, mj, h0, h1, h2, h3, r0⟩ := layout14 t q a b 1207959648 (by decide) (by decide) (by decide) (by decide) (by decide) f0 f1 f2 f3 wd (Option.some.inj he)
  refine ⟨lt, word_ok ((row_48 wd (by omega)).trans ?_) hw⟩
  simp only [decode48, h0, h1, h2, h3, r0]; rfl

theorem Sys2Proof.Laws.RoundTrip.fcmpOr (t q a b : Nat) : Statement (.fcmpOr t q a b) := by
  intro wd hw he
  have hf : (inU 2 t && inU 3 q && inU 7 a && inU 7 b) = true := hw
  simp only [Bool.and_eq_true, decide_eq_true_eq] at hf
  obtain ⟨⟨⟨f0, f1⟩, f2⟩, f3⟩ := hf
  obtain ⟨lt, mj, h0, h1, h2, h3, r0⟩ := layout14 t q a b 1207959664 (by decide) (by decide) (by decide) (by decide) (by decide) f0 f1 f2 f3 wd (Option.some.inj he)
  refine ⟨lt, word_ok ((row_48 wd (by omega)).trans ?_) hw⟩
  simp only [decode48, h0, h1, h2, h3, r0]; rfl

theorem Sys2Proof.Laws.RoundTrip.fcvt (d a t f r : Nat) : Statement (.fcvt d a t f r) := by
  intro wd hw he
  have hf : (inU 7 d && inU 7 a && inU 3 t && inU 3 f && inU 3 r && fcvtPair t f && roundCode r) = true := hw
  simp only [Bool.and_eq_true, decide_eq_true_eq] at hf
  obtain ⟨⟨⟨⟨⟨⟨f0, f1⟩, f2⟩, f3⟩, f4⟩, f5⟩, f6⟩ := hf
  obtain ⟨lt, mj, h0, h1, h2, h3, h4, r0⟩ := layout15 d a t f r 1275068416 (by decide) (by decide) (by decide) (by decide) (by decide) (by decide) f0 f1 f2 f3 f4 wd (Option.some.inj he)
  refine ⟨lt, word_ok ((row_4C wd (mj.trans (by decide))).trans ?_) hw⟩
  simp only [decode4C, h0, h1, h2, h3, h4, r0]; rfl

theorem Sys2Proof.Laws.RoundTrip.sfnExp2 (d a t : Nat) : Statement (.sfnExp2 d a t) := by
  intro wd hw he
  have hf : (inU 7 d && inU 7 a && inU 7 t && decide (t < 3)) = true := hw
  simp only [Bool.and_eq_true, decide_eq_true_eq] at hf
  obtain ⟨⟨⟨f0, f1⟩, f2⟩, f3⟩ := hf
  obtain ⟨lt, mj, h0, h1, h2, r0⟩ := layout0 d a t 1342177280 (by decide) (by decide) (by decide) (by decide) f0 f1 f2 wd (Option.some.inj he)
  refine ⟨lt, word_ok ((row_50 wd (mj.trans (by decide))).trans ?_) hw⟩
  simp only [decode50, h0, h1, h2, r0]; rfl

theorem Sys2Proof.Laws.RoundTrip.sfnLog2 (d a t : Nat) : Statement (.sfnLog2 d a t) := by
  intro wd hw he
  have hf : (inU 7 d && inU 7 a && inU 7 t && decide (t < 3)) = true := hw
  simp only [Bool.and_eq_true, decide_eq_true_eq] at hf
  obtain ⟨⟨⟨f0, f1⟩, f2⟩, f3⟩ := hf
  obtain ⟨lt, mj, h0, h1, h2, r0⟩ := layout0 d a t 1342177281 (by decide) (by decide) (by decide) (by decide) f0 f1 f2 wd (Option.some.inj he)
  refine ⟨lt, word_ok ((row_50 wd (mj.trans (by decide))).trans ?_) hw⟩
  simp only [decode50, h0, h1, h2, r0]; rfl

theorem Sys2Proof.Laws.RoundTrip.sfnRcp (d a t : Nat) : Statement (.sfnRcp d a t) := by
  intro wd hw he
  have hf : (inU 7 d && inU 7 a && inU 7 t && decide (t < 3)) = true := hw
  simp only [Bool.and_eq_true, decide_eq_true_eq] at hf
  obtain ⟨⟨⟨f0, f1⟩, f2⟩, f3⟩ := hf
  obtain ⟨lt, mj, h0, h1, h2, r0⟩ := layout0 d a t 1342177282 (by decide) (by decide) (by decide) (by decide) f0 f1 f2 wd (Option.some.inj he)
  refine ⟨lt, word_ok ((row_50 wd (mj.trans (by decide))).trans ?_) hw⟩
  simp only [decode50, h0, h1, h2, r0]; rfl

theorem Sys2Proof.Laws.RoundTrip.sfnRsq (d a t : Nat) : Statement (.sfnRsq d a t) := by
  intro wd hw he
  have hf : (inU 7 d && inU 7 a && inU 7 t && decide (t < 3)) = true := hw
  simp only [Bool.and_eq_true, decide_eq_true_eq] at hf
  obtain ⟨⟨⟨f0, f1⟩, f2⟩, f3⟩ := hf
  obtain ⟨lt, mj, h0, h1, h2, r0⟩ := layout0 d a t 1342177283 (by decide) (by decide) (by decide) (by decide) f0 f1 f2 wd (Option.some.inj he)
  refine ⟨lt, word_ok ((row_50 wd (mj.trans (by decide))).trans ?_) hw⟩
  simp only [decode50, h0, h1, h2, r0]; rfl

theorem Sys2Proof.Laws.RoundTrip.sfnSin (d a t : Nat) : Statement (.sfnSin d a t) := by
  intro wd hw he
  have hf : (inU 7 d && inU 7 a && inU 7 t && decide (t < 3)) = true := hw
  simp only [Bool.and_eq_true, decide_eq_true_eq] at hf
  obtain ⟨⟨⟨f0, f1⟩, f2⟩, f3⟩ := hf
  obtain ⟨lt, mj, h0, h1, h2, r0⟩ := layout0 d a t 1342177284 (by decide) (by decide) (by decide) (by decide) f0 f1 f2 wd (Option.some.inj he)
  refine ⟨lt, word_ok ((row_50 wd (mj.trans (by decide))).trans ?_) hw⟩
  simp only [decode50, h0, h1, h2, r0]; rfl

theorem Sys2Proof.Laws.RoundTrip.sfnCos (d a t : Nat) : Statement (.sfnCos d a t) := by
  intro wd hw he
  have hf : (inU 7 d && inU 7 a && inU 7 t && decide (t < 3)) = true := hw
  simp only [Bool.and_eq_true, decide_eq_true_eq] at hf
  obtain ⟨⟨⟨f0, f1⟩, f2⟩, f3⟩ := hf
  obtain ⟨lt, mj, h0, h1, h2, r0⟩ := layout0 d a t 1342177285 (by decide) (by decide) (by decide) (by decide) f0 f1 f2 wd (Option.some.inj he)
  refine ⟨lt, word_ok ((row_50 wd (mj.trans (by decide))).trans ?_) hw⟩
  simp only [decode50, h0, h1, h2, r0]; rfl

theorem Sys2Proof.Laws.RoundTrip.sfnTanh (d a t : Nat) : Statement (.sfnTanh d a t) := by
  intro wd hw he
  have hf : (inU 7 d && inU 7 a && inU 7 t && decide (t < 3)) = true := hw
  simp only [Bool.and_eq_true, decide_eq_true_eq] at hf
  obtain ⟨⟨⟨f0, f1⟩, f2⟩, f3⟩ := hf
  obtain ⟨lt, mj, h0, h1, h2, r0⟩ := layout0 d a t 1342177286 (by decide) (by decide) (by decide) (by decide) f0 f1 f2 wd (Option.some.inj he)
  refine ⟨lt, word_ok ((row_50 wd (mj.trans (by decide))).trans ?_) hw⟩
  simp only [decode50, h0, h1, h2, r0]; rfl

theorem Sys2Proof.Laws.RoundTrip.sfnErf (d a t : Nat) : Statement (.sfnErf d a t) := by
  intro wd hw he
  have hf : (inU 7 d && inU 7 a && inU 7 t && decide (t < 3)) = true := hw
  simp only [Bool.and_eq_true, decide_eq_true_eq] at hf
  obtain ⟨⟨⟨f0, f1⟩, f2⟩, f3⟩ := hf
  obtain ⟨lt, mj, h0, h1, h2, r0⟩ := layout0 d a t 1342177287 (by decide) (by decide) (by decide) (by decide) f0 f1 f2 wd (Option.some.inj he)
  refine ⟨lt, word_ok ((row_50 wd (mj.trans (by decide))).trans ?_) hw⟩
  simp only [decode50, h0, h1, h2, r0]; rfl

theorem Sys2Proof.Laws.RoundTrip.vsfnExp2 (d a m l : Nat) : Statement (.vsfnExp2 d a m l) := by
  intro wd hw he
  have hf : (inU 6 d && inU 6 a && inU 3 m && inU 3 l && decide (4 ≤ l && l ≤ 6)) = true := hw
  simp only [Bool.and_eq_true, decide_eq_true_eq] at hf
  obtain ⟨⟨⟨⟨f0, f1⟩, f2⟩, f3⟩, f4⟩ := hf
  obtain ⟨lt, mj, h0, h1, h2, h3, r0⟩ := layout16 d a m l 1476395008 (by decide) (by decide) (by decide) (by decide) (by decide) f0 f1 f2 f3 wd (Option.some.inj he)
  refine ⟨lt, word_ok ((row_58 wd (mj.trans (by decide))).trans ?_) hw⟩
  simp only [decode58, h0, h1, h2, h3, r0]; rfl

theorem Sys2Proof.Laws.RoundTrip.vsfnLog2 (d a m l : Nat) : Statement (.vsfnLog2 d a m l) := by
  intro wd hw he
  have hf : (inU 6 d && inU 6 a && inU 3 m && inU 3 l && decide (4 ≤ l && l ≤ 6)) = true := hw
  simp only [Bool.and_eq_true, decide_eq_true_eq] at hf
  obtain ⟨⟨⟨⟨f0, f1⟩, f2⟩, f3⟩, f4⟩ := hf
  obtain ⟨lt, mj, h0, h1, h2, h3, r0⟩ := layout16 d a m l 1493172224 (by decide) (by decide) (by decide) (by decide) (by decide) f0 f1 f2 f3 wd (Option.some.inj he)
  refine ⟨lt, word_ok ((row_59 wd (mj.trans (by decide))).trans ?_) hw⟩
  simp only [decode59, h0, h1, h2, h3, r0]; rfl

theorem Sys2Proof.Laws.RoundTrip.vsfnRcp (d a m l : Nat) : Statement (.vsfnRcp d a m l) := by
  intro wd hw he
  have hf : (inU 6 d && inU 6 a && inU 3 m && inU 3 l && decide (4 ≤ l && l ≤ 6)) = true := hw
  simp only [Bool.and_eq_true, decide_eq_true_eq] at hf
  obtain ⟨⟨⟨⟨f0, f1⟩, f2⟩, f3⟩, f4⟩ := hf
  obtain ⟨lt, mj, h0, h1, h2, h3, r0⟩ := layout16 d a m l 1509949440 (by decide) (by decide) (by decide) (by decide) (by decide) f0 f1 f2 f3 wd (Option.some.inj he)
  refine ⟨lt, word_ok ((row_5A wd (mj.trans (by decide))).trans ?_) hw⟩
  simp only [decode5A, h0, h1, h2, h3, r0]; rfl

theorem Sys2Proof.Laws.RoundTrip.vsfnRsq (d a m l : Nat) : Statement (.vsfnRsq d a m l) := by
  intro wd hw he
  have hf : (inU 6 d && inU 6 a && inU 3 m && inU 3 l && decide (4 ≤ l && l ≤ 6)) = true := hw
  simp only [Bool.and_eq_true, decide_eq_true_eq] at hf
  obtain ⟨⟨⟨⟨f0, f1⟩, f2⟩, f3⟩, f4⟩ := hf
  obtain ⟨lt, mj, h0, h1, h2, h3, r0⟩ := layout16 d a m l 1526726656 (by decide) (by decide) (by decide) (by decide) (by decide) f0 f1 f2 f3 wd (Option.some.inj he)
  refine ⟨lt, word_ok ((row_5B wd (mj.trans (by decide))).trans ?_) hw⟩
  simp only [decode5B, h0, h1, h2, h3, r0]; rfl

theorem Sys2Proof.Laws.RoundTrip.vsfnSin (d a m l : Nat) : Statement (.vsfnSin d a m l) := by
  intro wd hw he
  have hf : (inU 6 d && inU 6 a && inU 3 m && inU 3 l && decide (4 ≤ l && l ≤ 6)) = true := hw
  simp only [Bool.and_eq_true, decide_eq_true_eq] at hf
  obtain ⟨⟨⟨⟨f0, f1⟩, f2⟩, f3⟩, f4⟩ := hf
  obtain ⟨lt, mj, h0, h1, h2, h3, r0⟩ := layout16 d a m l 1543503872 (by decide) (by decide) (by decide) (by decide) (by decide) f0 f1 f2 f3 wd (Option.some.inj he)
  refine ⟨lt, word_ok ((row_5C wd (mj.trans (by decide))).trans ?_) hw⟩
  simp only [decode5C, h0, h1, h2, h3, r0]; rfl

theorem Sys2Proof.Laws.RoundTrip.vsfnCos (d a m l : Nat) : Statement (.vsfnCos d a m l) := by
  intro wd hw he
  have hf : (inU 6 d && inU 6 a && inU 3 m && inU 3 l && decide (4 ≤ l && l ≤ 6)) = true := hw
  simp only [Bool.and_eq_true, decide_eq_true_eq] at hf
  obtain ⟨⟨⟨⟨f0, f1⟩, f2⟩, f3⟩, f4⟩ := hf
  obtain ⟨lt, mj, h0, h1, h2, h3, r0⟩ := layout16 d a m l 1560281088 (by decide) (by decide) (by decide) (by decide) (by decide) f0 f1 f2 f3 wd (Option.some.inj he)
  refine ⟨lt, word_ok ((row_5D wd (mj.trans (by decide))).trans ?_) hw⟩
  simp only [decode5D, h0, h1, h2, h3, r0]; rfl

theorem Sys2Proof.Laws.RoundTrip.vsfnTanh (d a m l : Nat) : Statement (.vsfnTanh d a m l) := by
  intro wd hw he
  have hf : (inU 6 d && inU 6 a && inU 3 m && inU 3 l && decide (4 ≤ l && l ≤ 6)) = true := hw
  simp only [Bool.and_eq_true, decide_eq_true_eq] at hf
  obtain ⟨⟨⟨⟨f0, f1⟩, f2⟩, f3⟩, f4⟩ := hf
  obtain ⟨lt, mj, h0, h1, h2, h3, r0⟩ := layout16 d a m l 1577058304 (by decide) (by decide) (by decide) (by decide) (by decide) f0 f1 f2 f3 wd (Option.some.inj he)
  refine ⟨lt, word_ok ((row_5E wd (mj.trans (by decide))).trans ?_) hw⟩
  simp only [decode5E, h0, h1, h2, h3, r0]; rfl

theorem Sys2Proof.Laws.RoundTrip.vsfnErf (d a m l : Nat) : Statement (.vsfnErf d a m l) := by
  intro wd hw he
  have hf : (inU 6 d && inU 6 a && inU 3 m && inU 3 l && decide (4 ≤ l && l ≤ 6)) = true := hw
  simp only [Bool.and_eq_true, decide_eq_true_eq] at hf
  obtain ⟨⟨⟨⟨f0, f1⟩, f2⟩, f3⟩, f4⟩ := hf
  obtain ⟨lt, mj, h0, h1, h2, h3, r0⟩ := layout16 d a m l 1593835520 (by decide) (by decide) (by decide) (by decide) (by decide) f0 f1 f2 f3 wd (Option.some.inj he)
  refine ⟨lt, word_ok ((row_5F wd (mj.trans (by decide))).trans ?_) hw⟩
  simp only [decode5F, h0, h1, h2, h3, r0]; rfl

theorem Sys2Proof.Laws.RoundTrip.vadd (d a b m l : Nat) : Statement (.vadd d a b m l) := by
  intro wd hw he
  have hf : (inU 6 d && inU 6 a && inU 6 b && inU 3 m && inU 3 l && intLane l) = true := hw
  simp only [Bool.and_eq_true, decide_eq_true_eq] at hf
  obtain ⟨⟨⟨⟨⟨f0, f1⟩, f2⟩, f3⟩, f4⟩, f5⟩ := hf
  obtain ⟨lt, mj, h0, h1, h2, h3, h4⟩ := layout17 d a b m l 1610612736 (by decide) (by decide) (by decide) (by decide) (by decide) (by decide) f0 f1 f2 f3 f4 wd (Option.some.inj he)
  refine ⟨lt, word_ok ((row_60 wd (mj.trans (by decide))).trans ?_) hw⟩
  simp only [decode60, h0, h1, h2, h3, h4]; rfl

theorem Sys2Proof.Laws.RoundTrip.vsub (d a b m l : Nat) : Statement (.vsub d a b m l) := by
  intro wd hw he
  have hf : (inU 6 d && inU 6 a && inU 6 b && inU 3 m && inU 3 l && intLane l) = true := hw
  simp only [Bool.and_eq_true, decide_eq_true_eq] at hf
  obtain ⟨⟨⟨⟨⟨f0, f1⟩, f2⟩, f3⟩, f4⟩, f5⟩ := hf
  obtain ⟨lt, mj, h0, h1, h2, h3, h4⟩ := layout17 d a b m l 1627389952 (by decide) (by decide) (by decide) (by decide) (by decide) (by decide) f0 f1 f2 f3 f4 wd (Option.some.inj he)
  refine ⟨lt, word_ok ((row_61 wd (mj.trans (by decide))).trans ?_) hw⟩
  simp only [decode61, h0, h1, h2, h3, h4]; rfl

theorem Sys2Proof.Laws.RoundTrip.vadds (d a b m l : Nat) : Statement (.vadds d a b m l) := by
  intro wd hw he
  have hf : (inU 6 d && inU 6 a && inU 6 b && inU 3 m && inU 3 l && intLane l) = true := hw
  simp only [Bool.and_eq_true, decide_eq_true_eq] at hf
  obtain ⟨⟨⟨⟨⟨f0, f1⟩, f2⟩, f3⟩, f4⟩, f5⟩ := hf
  obtain ⟨lt, mj, h0, h1, h2, h3, h4⟩ := layout17 d a b m l 1644167168 (by decide) (by decide) (by decide) (by decide) (by decide) (by decide) f0 f1 f2 f3 f4 wd (Option.some.inj he)
  refine ⟨lt, word_ok ((row_62 wd (mj.trans (by decide))).trans ?_) hw⟩
  simp only [decode62, h0, h1, h2, h3, h4]; rfl

theorem Sys2Proof.Laws.RoundTrip.vsubs (d a b m l : Nat) : Statement (.vsubs d a b m l) := by
  intro wd hw he
  have hf : (inU 6 d && inU 6 a && inU 6 b && inU 3 m && inU 3 l && intLane l) = true := hw
  simp only [Bool.and_eq_true, decide_eq_true_eq] at hf
  obtain ⟨⟨⟨⟨⟨f0, f1⟩, f2⟩, f3⟩, f4⟩, f5⟩ := hf
  obtain ⟨lt, mj, h0, h1, h2, h3, h4⟩ := layout17 d a b m l 1660944384 (by decide) (by decide) (by decide) (by decide) (by decide) (by decide) f0 f1 f2 f3 f4 wd (Option.some.inj he)
  refine ⟨lt, word_ok ((row_63 wd (mj.trans (by decide))).trans ?_) hw⟩
  simp only [decode63, h0, h1, h2, h3, h4]; rfl

theorem Sys2Proof.Laws.RoundTrip.vmul (d a b m l : Nat) : Statement (.vmul d a b m l) := by
  intro wd hw he
  have hf : (inU 6 d && inU 6 a && inU 6 b && inU 3 m && inU 3 l && intLane l) = true := hw
  simp only [Bool.and_eq_true, decide_eq_true_eq] at hf
  obtain ⟨⟨⟨⟨⟨f0, f1⟩, f2⟩, f3⟩, f4⟩, f5⟩ := hf
  obtain ⟨lt, mj, h0, h1, h2, h3, h4⟩ := layout17 d a b m l 1677721600 (by decide) (by decide) (by decide) (by decide) (by decide) (by decide) f0 f1 f2 f3 f4 wd (Option.some.inj he)
  refine ⟨lt, word_ok ((row_64 wd (mj.trans (by decide))).trans ?_) hw⟩
  simp only [decode64, h0, h1, h2, h3, h4]; rfl

theorem Sys2Proof.Laws.RoundTrip.vmulh (d a b m l : Nat) : Statement (.vmulh d a b m l) := by
  intro wd hw he
  have hf : (inU 6 d && inU 6 a && inU 6 b && inU 3 m && inU 3 l && intLane l) = true := hw
  simp only [Bool.and_eq_true, decide_eq_true_eq] at hf
  obtain ⟨⟨⟨⟨⟨f0, f1⟩, f2⟩, f3⟩, f4⟩, f5⟩ := hf
  obtain ⟨lt, mj, h0, h1, h2, h3, h4⟩ := layout17 d a b m l 1694498816 (by decide) (by decide) (by decide) (by decide) (by decide) (by decide) f0 f1 f2 f3 f4 wd (Option.some.inj he)
  refine ⟨lt, word_ok ((row_65 wd (mj.trans (by decide))).trans ?_) hw⟩
  simp only [decode65, h0, h1, h2, h3, h4]; rfl

theorem Sys2Proof.Laws.RoundTrip.vmad (d a b m l : Nat) : Statement (.vmad d a b m l) := by
  intro wd hw he
  have hf : (inU 6 d && inU 6 a && inU 6 b && inU 3 m && inU 3 l && intLane l) = true := hw
  simp only [Bool.and_eq_true, decide_eq_true_eq] at hf
  obtain ⟨⟨⟨⟨⟨f0, f1⟩, f2⟩, f3⟩, f4⟩, f5⟩ := hf
  obtain ⟨lt, mj, h0, h1, h2, h3, h4⟩ := layout17 d a b m l 1711276032 (by decide) (by decide) (by decide) (by decide) (by decide) (by decide) f0 f1 f2 f3 f4 wd (Option.some.inj he)
  refine ⟨lt, word_ok ((row_66 wd (mj.trans (by decide))).trans ?_) hw⟩
  simp only [decode66, h0, h1, h2, h3, h4]; rfl

theorem Sys2Proof.Laws.RoundTrip.vmin (d a b m l : Nat) : Statement (.vmin d a b m l) := by
  intro wd hw he
  have hf : (inU 6 d && inU 6 a && inU 6 b && inU 3 m && inU 3 l && intLane l) = true := hw
  simp only [Bool.and_eq_true, decide_eq_true_eq] at hf
  obtain ⟨⟨⟨⟨⟨f0, f1⟩, f2⟩, f3⟩, f4⟩, f5⟩ := hf
  obtain ⟨lt, mj, h0, h1, h2, h3, h4⟩ := layout17 d a b m l 1728053248 (by decide) (by decide) (by decide) (by decide) (by decide) (by decide) f0 f1 f2 f3 f4 wd (Option.some.inj he)
  refine ⟨lt, word_ok ((row_67 wd (mj.trans (by decide))).trans ?_) hw⟩
  simp only [decode67, h0, h1, h2, h3, h4]; rfl

theorem Sys2Proof.Laws.RoundTrip.vmax (d a b m l : Nat) : Statement (.vmax d a b m l) := by
  intro wd hw he
  have hf : (inU 6 d && inU 6 a && inU 6 b && inU 3 m && inU 3 l && intLane l) = true := hw
  simp only [Bool.and_eq_true, decide_eq_true_eq] at hf
  obtain ⟨⟨⟨⟨⟨f0, f1⟩, f2⟩, f3⟩, f4⟩, f5⟩ := hf
  obtain ⟨lt, mj, h0, h1, h2, h3, h4⟩ := layout17 d a b m l 1744830464 (by decide) (by decide) (by decide) (by decide) (by decide) (by decide) f0 f1 f2 f3 f4 wd (Option.some.inj he)
  refine ⟨lt, word_ok ((row_68 wd (mj.trans (by decide))).trans ?_) hw⟩
  simp only [decode68, h0, h1, h2, h3, h4]; rfl

theorem Sys2Proof.Laws.RoundTrip.vand (d a b m l : Nat) : Statement (.vand d a b m l) := by
  intro wd hw he
  have hf : (inU 6 d && inU 6 a && inU 6 b && inU 3 m && inU 3 l) = true := hw
  simp only [Bool.and_eq_true, decide_eq_true_eq] at hf
  obtain ⟨⟨⟨⟨f0, f1⟩, f2⟩, f3⟩, f4⟩ := hf
  obtain ⟨lt, mj, h0, h1, h2, h3, h4⟩ := layout17 d a b m l 1761607680 (by decide) (by decide) (by decide) (by decide) (by decide) (by decide) f0 f1 f2 f3 f4 wd (Option.some.inj he)
  refine ⟨lt, word_ok ((row_69 wd (mj.trans (by decide))).trans ?_) hw⟩
  simp only [decode69, h0, h1, h2, h3, h4]; rfl

theorem Sys2Proof.Laws.RoundTrip.vor (d a b m l : Nat) : Statement (.vor d a b m l) := by
  intro wd hw he
  have hf : (inU 6 d && inU 6 a && inU 6 b && inU 3 m && inU 3 l) = true := hw
  simp only [Bool.and_eq_true, decide_eq_true_eq] at hf
  obtain ⟨⟨⟨⟨f0, f1⟩, f2⟩, f3⟩, f4⟩ := hf
  obtain ⟨lt, mj, h0, h1, h2, h3, h4⟩ := layout17 d a b m l 1778384896 (by decide) (by decide) (by decide) (by decide) (by decide) (by decide) f0 f1 f2 f3 f4 wd (Option.some.inj he)
  refine ⟨lt, word_ok ((row_6A wd (mj.trans (by decide))).trans ?_) hw⟩
  simp only [decode6A, h0, h1, h2, h3, h4]; rfl

theorem Sys2Proof.Laws.RoundTrip.vxor (d a b m l : Nat) : Statement (.vxor d a b m l) := by
  intro wd hw he
  have hf : (inU 6 d && inU 6 a && inU 6 b && inU 3 m && inU 3 l) = true := hw
  simp only [Bool.and_eq_true, decide_eq_true_eq] at hf
  obtain ⟨⟨⟨⟨f0, f1⟩, f2⟩, f3⟩, f4⟩ := hf
  obtain ⟨lt, mj, h0, h1, h2, h3, h4⟩ := layout17 d a b m l 1795162112 (by decide) (by decide) (by decide) (by decide) (by decide) (by decide) f0 f1 f2 f3 f4 wd (Option.some.inj he)
  refine ⟨lt, word_ok ((row_6B wd (mj.trans (by decide))).trans ?_) hw⟩
  simp only [decode6B, h0, h1, h2, h3, h4]; rfl

theorem Sys2Proof.Laws.RoundTrip.vshl (d a b m l : Nat) : Statement (.vshl d a b m l) := by
  intro wd hw he
  have hf : (inU 6 d && inU 6 a && inU 6 b && inU 3 m && inU 3 l && intLane l) = true := hw
  simp only [Bool.and_eq_true, decide_eq_true_eq] at hf
  obtain ⟨⟨⟨⟨⟨f0, f1⟩, f2⟩, f3⟩, f4⟩, f5⟩ := hf
  obtain ⟨lt, mj, h0, h1, h2, h3, h4⟩ := layout17 d a b m l 1811939328 (by decide) (by decide) (by decide) (by decide) (by decide) (by decide) f0 f1 f2 f3 f4 wd (Option.some.inj he)
  refine ⟨lt, word_ok ((row_6C wd (mj.trans (by decide))).trans ?_) hw⟩
  simp only [decode6C, h0, h1, h2, h3, h4]; rfl

theorem Sys2Proof.Laws.RoundTrip.vshr (d a b m l : Nat) : Statement (.vshr d a b m l) := by
  intro wd hw he
  have hf : (inU 6 d && inU 6 a && inU 6 b && inU 3 m && inU 3 l && intLane l) = true := hw
  simp only [Bool.and_eq_true, decide_eq_true_eq] at hf
  obtain ⟨⟨⟨⟨⟨f0, f1⟩, f2⟩, f3⟩, f4⟩, f5⟩ := hf
  obtain ⟨lt, mj, h0, h1, h2, h3, h4⟩ := layout17 d a b m l 1828716544 (by decide) (by decide) (by decide) (by decide) (by decide) (by decide) f0 f1 f2 f3 f4 wd (Option.some.inj he)
  refine ⟨lt, word_ok ((row_6D wd (mj.trans (by decide))).trans ?_) hw⟩
  simp only [decode6D, h0, h1, h2, h3, h4]; rfl

theorem Sys2Proof.Laws.RoundTrip.vsra (d a b m l : Nat) : Statement (.vsra d a b m l) := by
  intro wd hw he
  have hf : (inU 6 d && inU 6 a && inU 6 b && inU 3 m && inU 3 l && intLane l) = true := hw
  simp only [Bool.and_eq_true, decide_eq_true_eq] at hf
  obtain ⟨⟨⟨⟨⟨f0, f1⟩, f2⟩, f3⟩, f4⟩, f5⟩ := hf
  obtain ⟨lt, mj, h0, h1, h2, h3, h4⟩ := layout17 d a b m l 1845493760 (by decide) (by decide) (by decide) (by decide) (by decide) (by decide) f0 f1 f2 f3 f4 wd (Option.some.inj he)
  refine ⟨lt, word_ok ((row_6E wd (mj.trans (by decide))).trans ?_) hw⟩
  simp only [decode6E, h0, h1, h2, h3, h4]; rfl

theorem Sys2Proof.Laws.RoundTrip.vcmpEq (d a b m l : Nat) : Statement (.vcmpEq d a b m l) := by
  intro wd hw he
  have hf : (inU 6 d && inU 6 a && inU 6 b && inU 3 m && inU 3 l && intLane l) = true := hw
  simp only [Bool.and_eq_true, decide_eq_true_eq] at hf
  obtain ⟨⟨⟨⟨⟨f0, f1⟩, f2⟩, f3⟩, f4⟩, f5⟩ := hf
  obtain ⟨lt, mj, h0, h1, h2, h3, h4⟩ := layout17 d a b m l 1862270976 (by decide) (by decide) (by decide) (by decide) (by decide) (by decide) f0 f1 f2 f3 f4 wd (Option.some.inj he)
  refine ⟨lt, word_ok ((row_6F wd (mj.trans (by decide))).trans ?_) hw⟩
  simp only [decode6F, h0, h1, h2, h3, h4]; rfl

theorem Sys2Proof.Laws.RoundTrip.vcmpLt (d a b m l : Nat) : Statement (.vcmpLt d a b m l) := by
  intro wd hw he
  have hf : (inU 6 d && inU 6 a && inU 6 b && inU 3 m && inU 3 l && intLane l) = true := hw
  simp only [Bool.and_eq_true, decide_eq_true_eq] at hf
  obtain ⟨⟨⟨⟨⟨f0, f1⟩, f2⟩, f3⟩, f4⟩, f5⟩ := hf
  obtain ⟨lt, mj, h0, h1, h2, h3, h4⟩ := layout17 d a b m l 1879048192 (by decide) (by decide) (by decide) (by decide) (by decide) (by decide) f0 f1 f2 f3 f4 wd (Option.some.inj he)
  refine ⟨lt, word_ok ((row_70 wd (mj.trans (by decide))).trans ?_) hw⟩
  simp only [decode70, h0, h1, h2, h3, h4]; rfl

theorem Sys2Proof.Laws.RoundTrip.vcmpLtu (d a b m l : Nat) : Statement (.vcmpLtu d a b m l) := by
  intro wd hw he
  have hf : (inU 6 d && inU 6 a && inU 6 b && inU 3 m && inU 3 l && intLane l) = true := hw
  simp only [Bool.and_eq_true, decide_eq_true_eq] at hf
  obtain ⟨⟨⟨⟨⟨f0, f1⟩, f2⟩, f3⟩, f4⟩, f5⟩ := hf
  obtain ⟨lt, mj, h0, h1, h2, h3, h4⟩ := layout17 d a b m l 1895825408 (by decide) (by decide) (by decide) (by decide) (by decide) (by decide) f0 f1 f2 f3 f4 wd (Option.some.inj he)
  refine ⟨lt, word_ok ((row_71 wd (mj.trans (by decide))).trans ?_) hw⟩
  simp only [decode71, h0, h1, h2, h3, h4]; rfl

theorem Sys2Proof.Laws.RoundTrip.vcmpTst (d a b m l : Nat) : Statement (.vcmpTst d a b m l) := by
  intro wd hw he
  have hf : (inU 6 d && inU 6 a && inU 6 b && inU 3 m && inU 3 l && intLane l) = true := hw
  simp only [Bool.and_eq_true, decide_eq_true_eq] at hf
  obtain ⟨⟨⟨⟨⟨f0, f1⟩, f2⟩, f3⟩, f4⟩, f5⟩ := hf
  obtain ⟨lt, mj, h0, h1, h2, h3, h4⟩ := layout17 d a b m l 1912602624 (by decide) (by decide) (by decide) (by decide) (by decide) (by decide) f0 f1 f2 f3 f4 wd (Option.some.inj he)
  refine ⟨lt, word_ok ((row_72 wd (mj.trans (by decide))).trans ?_) hw⟩
  simp only [decode72, h0, h1, h2, h3, h4]; rfl

theorem Sys2Proof.Laws.RoundTrip.vsel (d a b m l : Nat) : Statement (.vsel d a b m l) := by
  intro wd hw he
  have hf : (inU 6 d && inU 6 a && inU 6 b && inU 3 m && inU 3 l) = true := hw
  simp only [Bool.and_eq_true, decide_eq_true_eq] at hf
  obtain ⟨⟨⟨⟨f0, f1⟩, f2⟩, f3⟩, f4⟩ := hf
  obtain ⟨lt, mj, h0, h1, h2, h3, h4⟩ := layout17 d a b m l 1929379840 (by decide) (by decide) (by decide) (by decide) (by decide) (by decide) f0 f1 f2 f3 f4 wd (Option.some.inj he)
  refine ⟨lt, word_ok ((row_73 wd (mj.trans (by decide))).trans ?_) hw⟩
  simp only [decode73, h0, h1, h2, h3, h4]; rfl

theorem Sys2Proof.Laws.RoundTrip.vshuf (d a b m l : Nat) : Statement (.vshuf d a b m l) := by
  intro wd hw he
  have hf : (inU 6 d && inU 6 a && inU 6 b && inU 3 m && inU 3 l && intLane l) = true := hw
  simp only [Bool.and_eq_true, decide_eq_true_eq] at hf
  obtain ⟨⟨⟨⟨⟨f0, f1⟩, f2⟩, f3⟩, f4⟩, f5⟩ := hf
  obtain ⟨lt, mj, h0, h1, h2, h3, h4⟩ := layout17 d a b m l 1946157056 (by decide) (by decide) (by decide) (by decide) (by decide) (by decide) f0 f1 f2 f3 f4 wd (Option.some.inj he)
  refine ⟨lt, word_ok ((row_74 wd (mj.trans (by decide))).trans ?_) hw⟩
  simp only [decode74, h0, h1, h2, h3, h4]; rfl

theorem Sys2Proof.Laws.RoundTrip.vsplat (d a m l : Nat) : Statement (.vsplat d a m l) := by
  intro wd hw he
  have hf : (inU 6 d && inU 6 a && inU 3 m && inU 3 l && intLane l) = true := hw
  simp only [Bool.and_eq_true, decide_eq_true_eq] at hf
  obtain ⟨⟨⟨⟨f0, f1⟩, f2⟩, f3⟩, f4⟩ := hf
  obtain ⟨lt, mj, h0, h1, h2, h3, r0⟩ := layout16 d a m l 1962934272 (by decide) (by decide) (by decide) (by decide) (by decide) f0 f1 f2 f3 wd (Option.some.inj he)
  refine ⟨lt, word_ok ((row_75 wd (mj.trans (by decide))).trans ?_) hw⟩
  simp only [decode75, h0, h1, h2, h3, r0]; rfl

theorem Sys2Proof.Laws.RoundTrip.vext (d a k m l : Nat) : Statement (.vext d a k m l) := by
  intro wd hw he
  have hf : (inU 6 d && inU 6 a && inU 6 k && inU 3 m && inU 3 l && intLane l && decide (k < laneCount l)) = true := hw
  simp only [Bool.and_eq_true, decide_eq_true_eq] at hf
  obtain ⟨⟨⟨⟨⟨⟨f0, f1⟩, f2⟩, f3⟩, f4⟩, f5⟩, f6⟩ := hf
  obtain ⟨lt, mj, h0, h1, h2, h3, h4⟩ := layout17 d a k m l 1979711488 (by decide) (by decide) (by decide) (by decide) (by decide) (by decide) f0 f1 f2 f3 f4 wd (Option.some.inj he)
  refine ⟨lt, word_ok ((row_76 wd (mj.trans (by decide))).trans ?_) hw⟩
  simp only [decode76, h0, h1, h2, h3, h4]; rfl

theorem Sys2Proof.Laws.RoundTrip.vins (d a k m l : Nat) : Statement (.vins d a k m l) := by
  intro wd hw he
  have hf : (inU 6 d && inU 6 a && inU 6 k && inU 3 m && inU 3 l && intLane l && decide (k < laneCount l)) = true := hw
  simp only [Bool.and_eq_true, decide_eq_true_eq] at hf
  obtain ⟨⟨⟨⟨⟨⟨f0, f1⟩, f2⟩, f3⟩, f4⟩, f5⟩, f6⟩ := hf
  obtain ⟨lt, mj, h0, h1, h2, h3, h4⟩ := layout17 d a k m l 1996488704 (by decide) (by decide) (by decide) (by decide) (by decide) (by decide) f0 f1 f2 f3 f4 wd (Option.some.inj he)
  refine ⟨lt, word_ok ((row_77 wd (mj.trans (by decide))).trans ?_) hw⟩
  simp only [decode77, h0, h1, h2, h3, h4]; rfl

theorem Sys2Proof.Laws.RoundTrip.vnz (d a m l : Nat) : Statement (.vnz d a m l) := by
  intro wd hw he
  have hf : (inU 6 d && inU 6 a && inU 3 m && inU 3 l && intLane l) = true := hw
  simp only [Bool.and_eq_true, decide_eq_true_eq] at hf
  obtain ⟨⟨⟨⟨f0, f1⟩, f2⟩, f3⟩, f4⟩ := hf
  obtain ⟨lt, mj, h0, h1, h2, h3, r0⟩ := layout16 d a m l 2013265920 (by decide) (by decide) (by decide) (by decide) (by decide) f0 f1 f2 f3 wd (Option.some.inj he)
  refine ⟨lt, word_ok ((row_78 wd (mj.trans (by decide))).trans ?_) hw⟩
  simp only [decode78, h0, h1, h2, h3, r0]; rfl

theorem Sys2Proof.Laws.RoundTrip.vredAdd (d a m l : Nat) : Statement (.vredAdd d a m l) := by
  intro wd hw he
  have hf : (inU 6 d && inU 6 a && inU 3 m && inU 3 l) = true := hw
  simp only [Bool.and_eq_true, decide_eq_true_eq] at hf
  obtain ⟨⟨⟨f0, f1⟩, f2⟩, f3⟩ := hf
  obtain ⟨lt, mj, h0, h1, h2, h3, r0⟩ := layout16 d a m l 2030043136 (by decide) (by decide) (by decide) (by decide) (by decide) f0 f1 f2 f3 wd (Option.some.inj he)
  refine ⟨lt, word_ok ((row_79 wd (mj.trans (by decide))).trans ?_) hw⟩
  simp only [decode79, h0, h1, h2, h3, r0]; rfl

theorem Sys2Proof.Laws.RoundTrip.vredMin (d a m l : Nat) : Statement (.vredMin d a m l) := by
  intro wd hw he
  have hf : (inU 6 d && inU 6 a && inU 3 m && inU 3 l) = true := hw
  simp only [Bool.and_eq_true, decide_eq_true_eq] at hf
  obtain ⟨⟨⟨f0, f1⟩, f2⟩, f3⟩ := hf
  obtain ⟨lt, mj, h0, h1, h2, h3, r0⟩ := layout16 d a m l 2030043200 (by decide) (by decide) (by decide) (by decide) (by decide) f0 f1 f2 f3 wd (Option.some.inj he)
  refine ⟨lt, word_ok ((row_79 wd (mj.trans (by decide))).trans ?_) hw⟩
  simp only [decode79, h0, h1, h2, h3, r0]; rfl

theorem Sys2Proof.Laws.RoundTrip.vredMax (d a m l : Nat) : Statement (.vredMax d a m l) := by
  intro wd hw he
  have hf : (inU 6 d && inU 6 a && inU 3 m && inU 3 l) = true := hw
  simp only [Bool.and_eq_true, decide_eq_true_eq] at hf
  obtain ⟨⟨⟨f0, f1⟩, f2⟩, f3⟩ := hf
  obtain ⟨lt, mj, h0, h1, h2, h3, r0⟩ := layout16 d a m l 2030043264 (by decide) (by decide) (by decide) (by decide) (by decide) f0 f1 f2 f3 wd (Option.some.inj he)
  refine ⟨lt, word_ok ((row_79 wd (mj.trans (by decide))).trans ?_) hw⟩
  simp only [decode79, h0, h1, h2, h3, r0]; rfl

theorem Sys2Proof.Laws.RoundTrip.vredMinn (d a m l : Nat) : Statement (.vredMinn d a m l) := by
  intro wd hw he
  have hf : (inU 6 d && inU 6 a && inU 3 m && inU 3 l && fpLane l) = true := hw
  simp only [Bool.and_eq_true, decide_eq_true_eq] at hf
  obtain ⟨⟨⟨⟨f0, f1⟩, f2⟩, f3⟩, f4⟩ := hf
  obtain ⟨lt, mj, h0, h1, h2, h3, r0⟩ := layout16 d a m l 2030043328 (by decide) (by decide) (by decide) (by decide) (by decide) f0 f1 f2 f3 wd (Option.some.inj he)
  refine ⟨lt, word_ok ((row_79 wd (mj.trans (by decide))).trans ?_) hw⟩
  simp only [decode79, h0, h1, h2, h3, r0]; rfl

theorem Sys2Proof.Laws.RoundTrip.vredMaxn (d a m l : Nat) : Statement (.vredMaxn d a m l) := by
  intro wd hw he
  have hf : (inU 6 d && inU 6 a && inU 3 m && inU 3 l && fpLane l) = true := hw
  simp only [Bool.and_eq_true, decide_eq_true_eq] at hf
  obtain ⟨⟨⟨⟨f0, f1⟩, f2⟩, f3⟩, f4⟩ := hf
  obtain ⟨lt, mj, h0, h1, h2, h3, r0⟩ := layout16 d a m l 2030043392 (by decide) (by decide) (by decide) (by decide) (by decide) f0 f1 f2 f3 wd (Option.some.inj he)
  refine ⟨lt, word_ok ((row_79 wd (mj.trans (by decide))).trans ?_) hw⟩
  simp only [decode79, h0, h1, h2, h3, r0]; rfl

theorem Sys2Proof.Laws.RoundTrip.vredMinu (d a m l : Nat) : Statement (.vredMinu d a m l) := by
  intro wd hw he
  have hf : (inU 6 d && inU 6 a && inU 3 m && inU 3 l && intLane l) = true := hw
  simp only [Bool.and_eq_true, decide_eq_true_eq] at hf
  obtain ⟨⟨⟨⟨f0, f1⟩, f2⟩, f3⟩, f4⟩ := hf
  obtain ⟨lt, mj, h0, h1, h2, h3, r0⟩ := layout16 d a m l 2030043456 (by decide) (by decide) (by decide) (by decide) (by decide) f0 f1 f2 f3 wd (Option.some.inj he)
  refine ⟨lt, word_ok ((row_79 wd (mj.trans (by decide))).trans ?_) hw⟩
  simp only [decode79, h0, h1, h2, h3, r0]; rfl

theorem Sys2Proof.Laws.RoundTrip.vredMaxu (d a m l : Nat) : Statement (.vredMaxu d a m l) := by
  intro wd hw he
  have hf : (inU 6 d && inU 6 a && inU 3 m && inU 3 l && intLane l) = true := hw
  simp only [Bool.and_eq_true, decide_eq_true_eq] at hf
  obtain ⟨⟨⟨⟨f0, f1⟩, f2⟩, f3⟩, f4⟩ := hf
  obtain ⟨lt, mj, h0, h1, h2, h3, r0⟩ := layout16 d a m l 2030043520 (by decide) (by decide) (by decide) (by decide) (by decide) f0 f1 f2 f3 wd (Option.some.inj he)
  refine ⟨lt, word_ok ((row_79 wd (mj.trans (by decide))).trans ?_) hw⟩
  simp only [decode79, h0, h1, h2, h3, r0]; rfl

theorem Sys2Proof.Laws.RoundTrip.vdot (d a b m l : Nat) : Statement (.vdot d a b m l) := by
  intro wd hw he
  have hf : (inU 6 d && inU 6 a && inU 6 b && inU 3 m && inU 3 l) = true := hw
  simp only [Bool.and_eq_true, decide_eq_true_eq] at hf
  obtain ⟨⟨⟨⟨f0, f1⟩, f2⟩, f3⟩, f4⟩ := hf
  obtain ⟨lt, mj, h0, h1, h2, h3, h4⟩ := layout17 d a b m l 2046820352 (by decide) (by decide) (by decide) (by decide) (by decide) (by decide) f0 f1 f2 f3 f4 wd (Option.some.inj he)
  refine ⟨lt, word_ok ((row_7A wd (mj.trans (by decide))).trans ?_) hw⟩
  simp only [decode7A, h0, h1, h2, h3, h4]; rfl

theorem Sys2Proof.Laws.RoundTrip.vcvt (d a f r m t : Nat) : Statement (.vcvt d a f r m t) := by
  intro wd hw he
  have hf : (inU 6 d && inU 6 a && inU 3 f && inU 3 r && inU 3 m && inU 3 t && vcvtPair t f && roundCode r) = true := hw
  simp only [Bool.and_eq_true, decide_eq_true_eq] at hf
  obtain ⟨⟨⟨⟨⟨⟨⟨f0, f1⟩, f2⟩, f3⟩, f4⟩, f5⟩, f6⟩, f7⟩ := hf
  obtain ⟨lt, mj, h0, h1, h2, h3, h4, h5⟩ := layout18 d a f r m t 2063597568 (by decide) (by decide) (by decide) (by decide) (by decide) (by decide) (by decide) f0 f1 f2 f3 f4 f5 wd (Option.some.inj he)
  refine ⟨lt, word_ok ((row_7B wd (mj.trans (by decide))).trans ?_) hw⟩
  simp only [decode7B, h0, h1, h2, h3, h4, h5]; rfl

theorem Sys2Proof.Laws.RoundTrip.vfadd (d a b m l : Nat) : Statement (.vfadd d a b m l) := by
  intro wd hw he
  have hf : (inU 6 d && inU 6 a && inU 6 b && inU 3 m && inU 3 l && fpLane l) = true := hw
  simp only [Bool.and_eq_true, decide_eq_true_eq] at hf
  obtain ⟨⟨⟨⟨⟨f0, f1⟩, f2⟩, f3⟩, f4⟩, f5⟩ := hf
  obtain ⟨lt, mj, h0, h1, h2, h3, h4⟩ := layout17 d a b m l 2147483648 (by decide) (by decide) (by decide) (by decide) (by decide) (by decide) f0 f1 f2 f3 f4 wd (Option.some.inj he)
  refine ⟨lt, word_ok ((row_80 wd (mj.trans (by decide))).trans ?_) hw⟩
  simp only [decode80, h0, h1, h2, h3, h4]; rfl

theorem Sys2Proof.Laws.RoundTrip.vfsub (d a b m l : Nat) : Statement (.vfsub d a b m l) := by
  intro wd hw he
  have hf : (inU 6 d && inU 6 a && inU 6 b && inU 3 m && inU 3 l && fpLane l) = true := hw
  simp only [Bool.and_eq_true, decide_eq_true_eq] at hf
  obtain ⟨⟨⟨⟨⟨f0, f1⟩, f2⟩, f3⟩, f4⟩, f5⟩ := hf
  obtain ⟨lt, mj, h0, h1, h2, h3, h4⟩ := layout17 d a b m l 2164260864 (by decide) (by decide) (by decide) (by decide) (by decide) (by decide) f0 f1 f2 f3 f4 wd (Option.some.inj he)
  refine ⟨lt, word_ok ((row_81 wd (mj.trans (by decide))).trans ?_) hw⟩
  simp only [decode81, h0, h1, h2, h3, h4]; rfl

theorem Sys2Proof.Laws.RoundTrip.vfmul (d a b m l : Nat) : Statement (.vfmul d a b m l) := by
  intro wd hw he
  have hf : (inU 6 d && inU 6 a && inU 6 b && inU 3 m && inU 3 l && fpLane l) = true := hw
  simp only [Bool.and_eq_true, decide_eq_true_eq] at hf
  obtain ⟨⟨⟨⟨⟨f0, f1⟩, f2⟩, f3⟩, f4⟩, f5⟩ := hf
  obtain ⟨lt, mj, h0, h1, h2, h3, h4⟩ := layout17 d a b m l 2181038080 (by decide) (by decide) (by decide) (by decide) (by decide) (by decide) f0 f1 f2 f3 f4 wd (Option.some.inj he)
  refine ⟨lt, word_ok ((row_82 wd (mj.trans (by decide))).trans ?_) hw⟩
  simp only [decode82, h0, h1, h2, h3, h4]; rfl

theorem Sys2Proof.Laws.RoundTrip.vfma (d a b m l : Nat) : Statement (.vfma d a b m l) := by
  intro wd hw he
  have hf : (inU 6 d && inU 6 a && inU 6 b && inU 3 m && inU 3 l && fpLane l) = true := hw
  simp only [Bool.and_eq_true, decide_eq_true_eq] at hf
  obtain ⟨⟨⟨⟨⟨f0, f1⟩, f2⟩, f3⟩, f4⟩, f5⟩ := hf
  obtain ⟨lt, mj, h0, h1, h2, h3, h4⟩ := layout17 d a b m l 2197815296 (by decide) (by decide) (by decide) (by decide) (by decide) (by decide) f0 f1 f2 f3 f4 wd (Option.some.inj he)
  refine ⟨lt, word_ok ((row_83 wd (mj.trans (by decide))).trans ?_) hw⟩
  simp only [decode83, h0, h1, h2, h3, h4]; rfl

theorem Sys2Proof.Laws.RoundTrip.vfmin (d a b m l : Nat) : Statement (.vfmin d a b m l) := by
  intro wd hw he
  have hf : (inU 6 d && inU 6 a && inU 6 b && inU 3 m && inU 3 l && fpLane l) = true := hw
  simp only [Bool.and_eq_true, decide_eq_true_eq] at hf
  obtain ⟨⟨⟨⟨⟨f0, f1⟩, f2⟩, f3⟩, f4⟩, f5⟩ := hf
  obtain ⟨lt, mj, h0, h1, h2, h3, h4⟩ := layout17 d a b m l 2214592512 (by decide) (by decide) (by decide) (by decide) (by decide) (by decide) f0 f1 f2 f3 f4 wd (Option.some.inj he)
  refine ⟨lt, word_ok ((row_84 wd (mj.trans (by decide))).trans ?_) hw⟩
  simp only [decode84, h0, h1, h2, h3, h4]; rfl

theorem Sys2Proof.Laws.RoundTrip.vfmax (d a b m l : Nat) : Statement (.vfmax d a b m l) := by
  intro wd hw he
  have hf : (inU 6 d && inU 6 a && inU 6 b && inU 3 m && inU 3 l && fpLane l) = true := hw
  simp only [Bool.and_eq_true, decide_eq_true_eq] at hf
  obtain ⟨⟨⟨⟨⟨f0, f1⟩, f2⟩, f3⟩, f4⟩, f5⟩ := hf
  obtain ⟨lt, mj, h0, h1, h2, h3, h4⟩ := layout17 d a b m l 2231369728 (by decide) (by decide) (by decide) (by decide) (by decide) (by decide) f0 f1 f2 f3 f4 wd (Option.some.inj he)
  refine ⟨lt, word_ok ((row_85 wd (mj.trans (by decide))).trans ?_) hw⟩
  simp only [decode85, h0, h1, h2, h3, h4]; rfl

theorem Sys2Proof.Laws.RoundTrip.vfminn (d a b m l : Nat) : Statement (.vfminn d a b m l) := by
  intro wd hw he
  have hf : (inU 6 d && inU 6 a && inU 6 b && inU 3 m && inU 3 l && fpLane l) = true := hw
  simp only [Bool.and_eq_true, decide_eq_true_eq] at hf
  obtain ⟨⟨⟨⟨⟨f0, f1⟩, f2⟩, f3⟩, f4⟩, f5⟩ := hf
  obtain ⟨lt, mj, h0, h1, h2, h3, h4⟩ := layout17 d a b m l 2248146944 (by decide) (by decide) (by decide) (by decide) (by decide) (by decide) f0 f1 f2 f3 f4 wd (Option.some.inj he)
  refine ⟨lt, word_ok ((row_86 wd (mj.trans (by decide))).trans ?_) hw⟩
  simp only [decode86, h0, h1, h2, h3, h4]; rfl

theorem Sys2Proof.Laws.RoundTrip.vfmaxn (d a b m l : Nat) : Statement (.vfmaxn d a b m l) := by
  intro wd hw he
  have hf : (inU 6 d && inU 6 a && inU 6 b && inU 3 m && inU 3 l && fpLane l) = true := hw
  simp only [Bool.and_eq_true, decide_eq_true_eq] at hf
  obtain ⟨⟨⟨⟨⟨f0, f1⟩, f2⟩, f3⟩, f4⟩, f5⟩ := hf
  obtain ⟨lt, mj, h0, h1, h2, h3, h4⟩ := layout17 d a b m l 2264924160 (by decide) (by decide) (by decide) (by decide) (by decide) (by decide) f0 f1 f2 f3 f4 wd (Option.some.inj he)
  refine ⟨lt, word_ok ((row_87 wd (mj.trans (by decide))).trans ?_) hw⟩
  simp only [decode87, h0, h1, h2, h3, h4]; rfl

theorem Sys2Proof.Laws.RoundTrip.vfcmpEq (d a b m l : Nat) : Statement (.vfcmpEq d a b m l) := by
  intro wd hw he
  have hf : (inU 6 d && inU 6 a && inU 6 b && inU 3 m && inU 3 l && fpLane l) = true := hw
  simp only [Bool.and_eq_true, decide_eq_true_eq] at hf
  obtain ⟨⟨⟨⟨⟨f0, f1⟩, f2⟩, f3⟩, f4⟩, f5⟩ := hf
  obtain ⟨lt, mj, h0, h1, h2, h3, h4⟩ := layout17 d a b m l 2281701376 (by decide) (by decide) (by decide) (by decide) (by decide) (by decide) f0 f1 f2 f3 f4 wd (Option.some.inj he)
  refine ⟨lt, word_ok ((row_88 wd (mj.trans (by decide))).trans ?_) hw⟩
  simp only [decode88, h0, h1, h2, h3, h4]; rfl

theorem Sys2Proof.Laws.RoundTrip.vfcmpLt (d a b m l : Nat) : Statement (.vfcmpLt d a b m l) := by
  intro wd hw he
  have hf : (inU 6 d && inU 6 a && inU 6 b && inU 3 m && inU 3 l && fpLane l) = true := hw
  simp only [Bool.and_eq_true, decide_eq_true_eq] at hf
  obtain ⟨⟨⟨⟨⟨f0, f1⟩, f2⟩, f3⟩, f4⟩, f5⟩ := hf
  obtain ⟨lt, mj, h0, h1, h2, h3, h4⟩ := layout17 d a b m l 2298478592 (by decide) (by decide) (by decide) (by decide) (by decide) (by decide) f0 f1 f2 f3 f4 wd (Option.some.inj he)
  refine ⟨lt, word_ok ((row_89 wd (mj.trans (by decide))).trans ?_) hw⟩
  simp only [decode89, h0, h1, h2, h3, h4]; rfl

theorem Sys2Proof.Laws.RoundTrip.vfcmpLe (d a b m l : Nat) : Statement (.vfcmpLe d a b m l) := by
  intro wd hw he
  have hf : (inU 6 d && inU 6 a && inU 6 b && inU 3 m && inU 3 l && fpLane l) = true := hw
  simp only [Bool.and_eq_true, decide_eq_true_eq] at hf
  obtain ⟨⟨⟨⟨⟨f0, f1⟩, f2⟩, f3⟩, f4⟩, f5⟩ := hf
  obtain ⟨lt, mj, h0, h1, h2, h3, h4⟩ := layout17 d a b m l 2315255808 (by decide) (by decide) (by decide) (by decide) (by decide) (by decide) f0 f1 f2 f3 f4 wd (Option.some.inj he)
  refine ⟨lt, word_ok ((row_8A wd (mj.trans (by decide))).trans ?_) hw⟩
  simp only [decode8A, h0, h1, h2, h3, h4]; rfl

theorem Sys2Proof.Laws.RoundTrip.vfcmpUn (d a b m l : Nat) : Statement (.vfcmpUn d a b m l) := by
  intro wd hw he
  have hf : (inU 6 d && inU 6 a && inU 6 b && inU 3 m && inU 3 l && fpLane l) = true := hw
  simp only [Bool.and_eq_true, decide_eq_true_eq] at hf
  obtain ⟨⟨⟨⟨⟨f0, f1⟩, f2⟩, f3⟩, f4⟩, f5⟩ := hf
  obtain ⟨lt, mj, h0, h1, h2, h3, h4⟩ := layout17 d a b m l 2332033024 (by decide) (by decide) (by decide) (by decide) (by decide) (by decide) f0 f1 f2 f3 f4 wd (Option.some.inj he)
  refine ⟨lt, word_ok ((row_8B wd (mj.trans (by decide))).trans ?_) hw⟩
  simp only [decode8B, h0, h1, h2, h3, h4]; rfl

theorem Sys2Proof.Laws.RoundTrip.ldB (d a : Nat) (i : Int) : Statement (.ldB d a i) := by
  intro wd hw he
  have hf : (inU 7 d && inU 7 a && inS 10 i) = true := hw
  simp only [Bool.and_eq_true, decide_eq_true_eq] at hf
  obtain ⟨⟨f0, f1⟩, f2⟩ := hf
  obtain ⟨s1, s2⟩ := sext_ofSigned 10 i (by decide) f2.1 f2.2
  obtain ⟨lt, mj, h0, h1, h2⟩ := layout6 d a (ofSigned 10 i) 2415919104 (by decide) (by decide) (by decide) (by decide) f0 f1 s2 wd (Option.some.inj he)
  refine ⟨lt, word_ok ((row_90 wd (mj.trans (by decide))).trans ?_) hw⟩
  simp only [decode90, h0, h1, h2, s1]; rfl

theorem Sys2Proof.Laws.RoundTrip.ldBu (d a : Nat) (i : Int) : Statement (.ldBu d a i) := by
  intro wd hw he
  have hf : (inU 7 d && inU 7 a && inS 10 i) = true := hw
  simp only [Bool.and_eq_true, decide_eq_true_eq] at hf
  obtain ⟨⟨f0, f1⟩, f2⟩ := hf
  obtain ⟨s1, s2⟩ := sext_ofSigned 10 i (by decide) f2.1 f2.2
  obtain ⟨lt, mj, h0, h1, h2⟩ := layout6 d a (ofSigned 10 i) 2432696320 (by decide) (by decide) (by decide) (by decide) f0 f1 s2 wd (Option.some.inj he)
  refine ⟨lt, word_ok ((row_91 wd (mj.trans (by decide))).trans ?_) hw⟩
  simp only [decode91, h0, h1, h2, s1]; rfl

theorem Sys2Proof.Laws.RoundTrip.ldH (d a : Nat) (i : Int) : Statement (.ldH d a i) := by
  intro wd hw he
  have hf : (inU 7 d && inU 7 a && inS 10 i) = true := hw
  simp only [Bool.and_eq_true, decide_eq_true_eq] at hf
  obtain ⟨⟨f0, f1⟩, f2⟩ := hf
  obtain ⟨s1, s2⟩ := sext_ofSigned 10 i (by decide) f2.1 f2.2
  obtain ⟨lt, mj, h0, h1, h2⟩ := layout6 d a (ofSigned 10 i) 2449473536 (by decide) (by decide) (by decide) (by decide) f0 f1 s2 wd (Option.some.inj he)
  refine ⟨lt, word_ok ((row_92 wd (mj.trans (by decide))).trans ?_) hw⟩
  simp only [decode92, h0, h1, h2, s1]; rfl

theorem Sys2Proof.Laws.RoundTrip.ldHu (d a : Nat) (i : Int) : Statement (.ldHu d a i) := by
  intro wd hw he
  have hf : (inU 7 d && inU 7 a && inS 10 i) = true := hw
  simp only [Bool.and_eq_true, decide_eq_true_eq] at hf
  obtain ⟨⟨f0, f1⟩, f2⟩ := hf
  obtain ⟨s1, s2⟩ := sext_ofSigned 10 i (by decide) f2.1 f2.2
  obtain ⟨lt, mj, h0, h1, h2⟩ := layout6 d a (ofSigned 10 i) 2466250752 (by decide) (by decide) (by decide) (by decide) f0 f1 s2 wd (Option.some.inj he)
  refine ⟨lt, word_ok ((row_93 wd (mj.trans (by decide))).trans ?_) hw⟩
  simp only [decode93, h0, h1, h2, s1]; rfl

theorem Sys2Proof.Laws.RoundTrip.ldW (d a : Nat) (i : Int) : Statement (.ldW d a i) := by
  intro wd hw he
  have hf : (inU 7 d && inU 7 a && inS 10 i) = true := hw
  simp only [Bool.and_eq_true, decide_eq_true_eq] at hf
  obtain ⟨⟨f0, f1⟩, f2⟩ := hf
  obtain ⟨s1, s2⟩ := sext_ofSigned 10 i (by decide) f2.1 f2.2
  obtain ⟨lt, mj, h0, h1, h2⟩ := layout6 d a (ofSigned 10 i) 2483027968 (by decide) (by decide) (by decide) (by decide) f0 f1 s2 wd (Option.some.inj he)
  refine ⟨lt, word_ok ((row_94 wd (mj.trans (by decide))).trans ?_) hw⟩
  simp only [decode94, h0, h1, h2, s1]; rfl

theorem Sys2Proof.Laws.RoundTrip.ldWu (d a : Nat) (i : Int) : Statement (.ldWu d a i) := by
  intro wd hw he
  have hf : (inU 7 d && inU 7 a && inS 10 i) = true := hw
  simp only [Bool.and_eq_true, decide_eq_true_eq] at hf
  obtain ⟨⟨f0, f1⟩, f2⟩ := hf
  obtain ⟨s1, s2⟩ := sext_ofSigned 10 i (by decide) f2.1 f2.2
  obtain ⟨lt, mj, h0, h1, h2⟩ := layout6 d a (ofSigned 10 i) 2499805184 (by decide) (by decide) (by decide) (by decide) f0 f1 s2 wd (Option.some.inj he)
  refine ⟨lt, word_ok ((row_95 wd (mj.trans (by decide))).trans ?_) hw⟩
  simp only [decode95, h0, h1, h2, s1]; rfl

theorem Sys2Proof.Laws.RoundTrip.ldD (d a : Nat) (i : Int) : Statement (.ldD d a i) := by
  intro wd hw he
  have hf : (inU 7 d && inU 7 a && inS 10 i) = true := hw
  simp only [Bool.and_eq_true, decide_eq_true_eq] at hf
  obtain ⟨⟨f0, f1⟩, f2⟩ := hf
  obtain ⟨s1, s2⟩ := sext_ofSigned 10 i (by decide) f2.1 f2.2
  obtain ⟨lt, mj, h0, h1, h2⟩ := layout6 d a (ofSigned 10 i) 2516582400 (by decide) (by decide) (by decide) (by decide) f0 f1 s2 wd (Option.some.inj he)
  refine ⟨lt, word_ok ((row_96 wd (mj.trans (by decide))).trans ?_) hw⟩
  simp only [decode96, h0, h1, h2, s1]; rfl

theorem Sys2Proof.Laws.RoundTrip.stB (d a : Nat) (i : Int) : Statement (.stB d a i) := by
  intro wd hw he
  have hf : (inU 7 d && inU 7 a && inS 10 i) = true := hw
  simp only [Bool.and_eq_true, decide_eq_true_eq] at hf
  obtain ⟨⟨f0, f1⟩, f2⟩ := hf
  obtain ⟨s1, s2⟩ := sext_ofSigned 10 i (by decide) f2.1 f2.2
  obtain ⟨lt, mj, h0, h1, h2⟩ := layout6 d a (ofSigned 10 i) 2550136832 (by decide) (by decide) (by decide) (by decide) f0 f1 s2 wd (Option.some.inj he)
  refine ⟨lt, word_ok ((row_98 wd (mj.trans (by decide))).trans ?_) hw⟩
  simp only [decode98, h0, h1, h2, s1]; rfl

theorem Sys2Proof.Laws.RoundTrip.stH (d a : Nat) (i : Int) : Statement (.stH d a i) := by
  intro wd hw he
  have hf : (inU 7 d && inU 7 a && inS 10 i) = true := hw
  simp only [Bool.and_eq_true, decide_eq_true_eq] at hf
  obtain ⟨⟨f0, f1⟩, f2⟩ := hf
  obtain ⟨s1, s2⟩ := sext_ofSigned 10 i (by decide) f2.1 f2.2
  obtain ⟨lt, mj, h0, h1, h2⟩ := layout6 d a (ofSigned 10 i) 2566914048 (by decide) (by decide) (by decide) (by decide) f0 f1 s2 wd (Option.some.inj he)
  refine ⟨lt, word_ok ((row_99 wd (mj.trans (by decide))).trans ?_) hw⟩
  simp only [decode99, h0, h1, h2, s1]; rfl

theorem Sys2Proof.Laws.RoundTrip.stW (d a : Nat) (i : Int) : Statement (.stW d a i) := by
  intro wd hw he
  have hf : (inU 7 d && inU 7 a && inS 10 i) = true := hw
  simp only [Bool.and_eq_true, decide_eq_true_eq] at hf
  obtain ⟨⟨f0, f1⟩, f2⟩ := hf
  obtain ⟨s1, s2⟩ := sext_ofSigned 10 i (by decide) f2.1 f2.2
  obtain ⟨lt, mj, h0, h1, h2⟩ := layout6 d a (ofSigned 10 i) 2583691264 (by decide) (by decide) (by decide) (by decide) f0 f1 s2 wd (Option.some.inj he)
  refine ⟨lt, word_ok ((row_9A wd (mj.trans (by decide))).trans ?_) hw⟩
  simp only [decode9A, h0, h1, h2, s1]; rfl

theorem Sys2Proof.Laws.RoundTrip.stD (d a : Nat) (i : Int) : Statement (.stD d a i) := by
  intro wd hw he
  have hf : (inU 7 d && inU 7 a && inS 10 i) = true := hw
  simp only [Bool.and_eq_true, decide_eq_true_eq] at hf
  obtain ⟨⟨f0, f1⟩, f2⟩ := hf
  obtain ⟨s1, s2⟩ := sext_ofSigned 10 i (by decide) f2.1 f2.2
  obtain ⟨lt, mj, h0, h1, h2⟩ := layout6 d a (ofSigned 10 i) 2600468480 (by decide) (by decide) (by decide) (by decide) f0 f1 s2 wd (Option.some.inj he)
  refine ⟨lt, word_ok ((row_9B wd (mj.trans (by decide))).trans ?_) hw⟩
  simp only [decode9B, h0, h1, h2, s1]; rfl

theorem Sys2Proof.Laws.RoundTrip.ldv (d a : Nat) (i : Int) : Statement (.ldv d a i) := by
  intro wd hw he
  have hf : (inU 7 d && inU 7 a && inS 10 i && vecField d) = true := hw
  simp only [Bool.and_eq_true, decide_eq_true_eq] at hf
  obtain ⟨⟨⟨f0, f1⟩, f2⟩, f3⟩ := hf
  obtain ⟨s1, s2⟩ := sext_ofSigned 10 i (by decide) f2.1 f2.2
  obtain ⟨lt, mj, h0, h1, h2⟩ := layout6 d a (ofSigned 10 i) 2617245696 (by decide) (by decide) (by decide) (by decide) f0 f1 s2 wd (Option.some.inj he)
  refine ⟨lt, word_ok ((row_9C wd (mj.trans (by decide))).trans ?_) hw⟩
  simp only [decode9C, h0, h1, h2, s1]; rfl

theorem Sys2Proof.Laws.RoundTrip.stv (d a : Nat) (i : Int) : Statement (.stv d a i) := by
  intro wd hw he
  have hf : (inU 7 d && inU 7 a && inS 10 i && vecField d) = true := hw
  simp only [Bool.and_eq_true, decide_eq_true_eq] at hf
  obtain ⟨⟨⟨f0, f1⟩, f2⟩, f3⟩ := hf
  obtain ⟨s1, s2⟩ := sext_ofSigned 10 i (by decide) f2.1 f2.2
  obtain ⟨lt, mj, h0, h1, h2⟩ := layout6 d a (ofSigned 10 i) 2634022912 (by decide) (by decide) (by decide) (by decide) f0 f1 s2 wd (Option.some.inj he)
  refine ⟨lt, word_ok ((row_9D wd (mj.trans (by decide))).trans ?_) hw⟩
  simp only [decode9D, h0, h1, h2, s1]; rfl

theorem Sys2Proof.Laws.RoundTrip.lda (d a : Nat) (i : Int) : Statement (.lda d a i) := by
  intro wd hw he
  have hf : (inU 7 d && inU 7 a && inS 10 i) = true := hw
  simp only [Bool.and_eq_true, decide_eq_true_eq] at hf
  obtain ⟨⟨f0, f1⟩, f2⟩ := hf
  obtain ⟨s1, s2⟩ := sext_ofSigned 10 i (by decide) f2.1 f2.2
  obtain ⟨lt, mj, h0, h1, h2⟩ := layout6 d a (ofSigned 10 i) 2650800128 (by decide) (by decide) (by decide) (by decide) f0 f1 s2 wd (Option.some.inj he)
  refine ⟨lt, word_ok ((row_9E wd (mj.trans (by decide))).trans ?_) hw⟩
  simp only [decode9E, h0, h1, h2, s1]; rfl

theorem Sys2Proof.Laws.RoundTrip.stl (d a : Nat) (i : Int) : Statement (.stl d a i) := by
  intro wd hw he
  have hf : (inU 7 d && inU 7 a && inS 10 i) = true := hw
  simp only [Bool.and_eq_true, decide_eq_true_eq] at hf
  obtain ⟨⟨f0, f1⟩, f2⟩ := hf
  obtain ⟨s1, s2⟩ := sext_ofSigned 10 i (by decide) f2.1 f2.2
  obtain ⟨lt, mj, h0, h1, h2⟩ := layout6 d a (ofSigned 10 i) 2667577344 (by decide) (by decide) (by decide) (by decide) f0 f1 s2 wd (Option.some.inj he)
  refine ⟨lt, word_ok ((row_9F wd (mj.trans (by decide))).trans ?_) hw⟩
  simp only [decode9F, h0, h1, h2, s1]; rfl

theorem Sys2Proof.Laws.RoundTrip.ldc (d a : Nat) (i : Int) : Statement (.ldc d a i) := by
  intro wd hw he
  have hf : (inU 7 d && inU 7 a && inS 10 i) = true := hw
  simp only [Bool.and_eq_true, decide_eq_true_eq] at hf
  obtain ⟨⟨f0, f1⟩, f2⟩ := hf
  obtain ⟨s1, s2⟩ := sext_ofSigned 10 i (by decide) f2.1 f2.2
  obtain ⟨lt, mj, h0, h1, h2⟩ := layout6 d a (ofSigned 10 i) 2684354560 (by decide) (by decide) (by decide) (by decide) f0 f1 s2 wd (Option.some.inj he)
  refine ⟨lt, word_ok ((row_A0 wd (mj.trans (by decide))).trans ?_) hw⟩
  simp only [decodeA0, h0, h1, h2, s1]; rfl

theorem Sys2Proof.Laws.RoundTrip.ldt (d a b t : Nat) : Statement (.ldt d a b t) := by
  intro wd hw he
  have hf : (inU 7 d && inU 7 a && inU 7 b && inU 3 t && vecField d && decide (t < 3)) = true := hw
  simp only [Bool.and_eq_true, decide_eq_true_eq] at hf
  obtain ⟨⟨⟨⟨⟨f0, f1⟩, f2⟩, f3⟩, f4⟩, f5⟩ := hf
  obtain ⟨lt, mj, h0, h1, h2, h3⟩ := layout2 d a b t 2701131776 (by decide) (by decide) (by decide) (by decide) (by decide) f0 f1 f2 f3 wd (Option.some.inj he)
  refine ⟨lt, word_ok ((row_A1 wd (mj.trans (by decide))).trans ?_) hw⟩
  simp only [decodeA1, h0, h1, h2, h3]; rfl

theorem Sys2Proof.Laws.RoundTrip.stt (d a b r : Nat) : Statement (.stt d a b r) := by
  intro wd hw he
  have hf : (inU 7 d && inU 7 a && inU 7 b && inU 3 r && vecField d && roundCode r) = true := hw
  simp only [Bool.and_eq_true, decide_eq_true_eq] at hf
  obtain ⟨⟨⟨⟨⟨f0, f1⟩, f2⟩, f3⟩, f4⟩, f5⟩ := hf
  obtain ⟨lt, mj, h0, h1, h2, h3⟩ := layout2 d a b r 2717908992 (by decide) (by decide) (by decide) (by decide) (by decide) f0 f1 f2 f3 wd (Option.some.inj he)
  refine ⟨lt, word_ok ((row_A2 wd (mj.trans (by decide))).trans ?_) hw⟩
  simp only [decodeA2, h0, h1, h2, h3]; rfl

theorem Sys2Proof.Laws.RoundTrip.lds (d a : Nat) (i : Int) : Statement (.lds d a i) := by
  intro wd hw he
  have hf : (inU 7 d && inU 7 a && inS 10 i) = true := hw
  simp only [Bool.and_eq_true, decide_eq_true_eq] at hf
  obtain ⟨⟨f0, f1⟩, f2⟩ := hf
  obtain ⟨s1, s2⟩ := sext_ofSigned 10 i (by decide) f2.1 f2.2
  obtain ⟨lt, mj, h0, h1, h2⟩ := layout6 d a (ofSigned 10 i) 2734686208 (by decide) (by decide) (by decide) (by decide) f0 f1 s2 wd (Option.some.inj he)
  refine ⟨lt, word_ok ((row_A3 wd (mj.trans (by decide))).trans ?_) hw⟩
  simp only [decodeA3, h0, h1, h2, s1]; rfl

theorem Sys2Proof.Laws.RoundTrip.sts (d a : Nat) (i : Int) : Statement (.sts d a i) := by
  intro wd hw he
  have hf : (inU 7 d && inU 7 a && inS 10 i) = true := hw
  simp only [Bool.and_eq_true, decide_eq_true_eq] at hf
  obtain ⟨⟨f0, f1⟩, f2⟩ := hf
  obtain ⟨s1, s2⟩ := sext_ofSigned 10 i (by decide) f2.1 f2.2
  obtain ⟨lt, mj, h0, h1, h2⟩ := layout6 d a (ofSigned 10 i) 2751463424 (by decide) (by decide) (by decide) (by decide) f0 f1 s2 wd (Option.some.inj he)
  refine ⟨lt, word_ok ((row_A4 wd (mj.trans (by decide))).trans ?_) hw⟩
  simp only [decodeA4, h0, h1, h2, s1]; rfl

theorem Sys2Proof.Laws.RoundTrip.pref (a : Nat) (i : Int) : Statement (.pref a i) := by
  intro wd hw he
  have hf : (inU 7 a && inS 10 i) = true := hw
  simp only [Bool.and_eq_true, decide_eq_true_eq] at hf
  obtain ⟨f0, f1⟩ := hf
  obtain ⟨s1, s2⟩ := sext_ofSigned 10 i (by decide) f1.1 f1.2
  obtain ⟨lt, mj, h0, h1, r0⟩ := layout11 a (ofSigned 10 i) 2768240640 (by decide) (by decide) (by decide) f0 s2 wd (Option.some.inj he)
  refine ⟨lt, word_ok ((row_A5 wd (mj.trans (by decide))).trans ?_) hw⟩
  simp only [decodeA5, h0, h1, r0, s1]; rfl

theorem Sys2Proof.Laws.RoundTrip.ldf (d a : Nat) (i : Int) : Statement (.ldf d a i) := by
  intro wd hw he
  have hf : (inU 7 d && inU 7 a && inS 10 i) = true := hw
  simp only [Bool.and_eq_true, decide_eq_true_eq] at hf
  obtain ⟨⟨f0, f1⟩, f2⟩ := hf
  obtain ⟨s1, s2⟩ := sext_ofSigned 10 i (by decide) f2.1 f2.2
  obtain ⟨lt, mj, h0, h1, h2⟩ := layout6 d a (ofSigned 10 i) 2785017856 (by decide) (by decide) (by decide) (by decide) f0 f1 s2 wd (Option.some.inj he)
  refine ⟨lt, word_ok ((row_A6 wd (mj.trans (by decide))).trans ?_) hw⟩
  simp only [decodeA6, h0, h1, h2, s1]; rfl

theorem Sys2Proof.Laws.RoundTrip.ldfe (d a : Nat) (i : Int) : Statement (.ldfe d a i) := by
  intro wd hw he
  have hf : (inU 7 d && inU 7 a && inS 10 i) = true := hw
  simp only [Bool.and_eq_true, decide_eq_true_eq] at hf
  obtain ⟨⟨f0, f1⟩, f2⟩ := hf
  obtain ⟨s1, s2⟩ := sext_ofSigned 10 i (by decide) f2.1 f2.2
  obtain ⟨lt, mj, h0, h1, h2⟩ := layout6 d a (ofSigned 10 i) 2801795072 (by decide) (by decide) (by decide) (by decide) f0 f1 s2 wd (Option.some.inj he)
  refine ⟨lt, word_ok ((row_A7 wd (mj.trans (by decide))).trans ?_) hw⟩
  simp only [decodeA7, h0, h1, h2, s1]; rfl

theorem Sys2Proof.Laws.RoundTrip.stf (d a : Nat) (i : Int) : Statement (.stf d a i) := by
  intro wd hw he
  have hf : (inU 7 d && inU 7 a && inS 10 i) = true := hw
  simp only [Bool.and_eq_true, decide_eq_true_eq] at hf
  obtain ⟨⟨f0, f1⟩, f2⟩ := hf
  obtain ⟨s1, s2⟩ := sext_ofSigned 10 i (by decide) f2.1 f2.2
  obtain ⟨lt, mj, h0, h1, h2⟩ := layout6 d a (ofSigned 10 i) 2818572288 (by decide) (by decide) (by decide) (by decide) f0 f1 s2 wd (Option.some.inj he)
  refine ⟨lt, word_ok ((row_A8 wd (mj.trans (by decide))).trans ?_) hw⟩
  simp only [decodeA8, h0, h1, h2, s1]; rfl

theorem Sys2Proof.Laws.RoundTrip.sto (d a : Nat) (i : Int) : Statement (.sto d a i) := by
  intro wd hw he
  have hf : (inU 7 d && inU 7 a && inS 10 i) = true := hw
  simp only [Bool.and_eq_true, decide_eq_true_eq] at hf
  obtain ⟨⟨f0, f1⟩, f2⟩ := hf
  obtain ⟨s1, s2⟩ := sext_ofSigned 10 i (by decide) f2.1 f2.2
  obtain ⟨lt, mj, h0, h1, h2⟩ := layout6 d a (ofSigned 10 i) 2835349504 (by decide) (by decide) (by decide) (by decide) f0 f1 s2 wd (Option.some.inj he)
  refine ⟨lt, word_ok ((row_A9 wd (mj.trans (by decide))).trans ?_) hw⟩
  simp only [decodeA9, h0, h1, h2, s1]; rfl

theorem Sys2Proof.Laws.RoundTrip.fest (d a : Nat) (i : Int) : Statement (.fest d a i) := by
  intro wd hw he
  have hf : (inU 7 d && inU 7 a && inS 10 i) = true := hw
  simp only [Bool.and_eq_true, decide_eq_true_eq] at hf
  obtain ⟨⟨f0, f1⟩, f2⟩ := hf
  obtain ⟨s1, s2⟩ := sext_ofSigned 10 i (by decide) f2.1 f2.2
  obtain ⟨lt, mj, h0, h1, h2⟩ := layout6 d a (ofSigned 10 i) 2852126720 (by decide) (by decide) (by decide) (by decide) f0 f1 s2 wd (Option.some.inj he)
  refine ⟨lt, word_ok ((row_AA wd (mj.trans (by decide))).trans ?_) hw⟩
  simp only [decodeAA, h0, h1, h2, s1]; rfl

theorem Sys2Proof.Laws.RoundTrip.amoSwapW (d a b : Nat) : Statement (.amoSwapW d a b) := by
  intro wd hw he
  have hf : (inU 7 d && inU 7 a && inU 7 b) = true := hw
  simp only [Bool.and_eq_true, decide_eq_true_eq] at hf
  obtain ⟨⟨f0, f1⟩, f2⟩ := hf
  obtain ⟨lt, mj, h0, h1, h2, r0⟩ := layout0 d a b 2868903936 (by decide) (by decide) (by decide) (by decide) f0 f1 f2 wd (Option.some.inj he)
  refine ⟨lt, word_ok ((row_AB wd (mj.trans (by decide))).trans ?_) hw⟩
  simp only [decodeAB, h0, h1, h2, r0]; rfl

theorem Sys2Proof.Laws.RoundTrip.amoAddW (d a b : Nat) : Statement (.amoAddW d a b) := by
  intro wd hw he
  have hf : (inU 7 d && inU 7 a && inU 7 b) = true := hw
  simp only [Bool.and_eq_true, decide_eq_true_eq] at hf
  obtain ⟨⟨f0, f1⟩, f2⟩ := hf
  obtain ⟨lt, mj, h0, h1, h2, r0⟩ := layout0 d a b 2868903937 (by decide) (by decide) (by decide) (by decide) f0 f1 f2 wd (Option.some.inj he)
  refine ⟨lt, word_ok ((row_AB wd (mj.trans (by decide))).trans ?_) hw⟩
  simp only [decodeAB, h0, h1, h2, r0]; rfl

theorem Sys2Proof.Laws.RoundTrip.amoAndW (d a b : Nat) : Statement (.amoAndW d a b) := by
  intro wd hw he
  have hf : (inU 7 d && inU 7 a && inU 7 b) = true := hw
  simp only [Bool.and_eq_true, decide_eq_true_eq] at hf
  obtain ⟨⟨f0, f1⟩, f2⟩ := hf
  obtain ⟨lt, mj, h0, h1, h2, r0⟩ := layout0 d a b 2868903938 (by decide) (by decide) (by decide) (by decide) f0 f1 f2 wd (Option.some.inj he)
  refine ⟨lt, word_ok ((row_AB wd (mj.trans (by decide))).trans ?_) hw⟩
  simp only [decodeAB, h0, h1, h2, r0]; rfl

theorem Sys2Proof.Laws.RoundTrip.amoOrW (d a b : Nat) : Statement (.amoOrW d a b) := by
  intro wd hw he
  have hf : (inU 7 d && inU 7 a && inU 7 b) = true := hw
  simp only [Bool.and_eq_true, decide_eq_true_eq] at hf
  obtain ⟨⟨f0, f1⟩, f2⟩ := hf
  obtain ⟨lt, mj, h0, h1, h2, r0⟩ := layout0 d a b 2868903939 (by decide) (by decide) (by decide) (by decide) f0 f1 f2 wd (Option.some.inj he)
  refine ⟨lt, word_ok ((row_AB wd (mj.trans (by decide))).trans ?_) hw⟩
  simp only [decodeAB, h0, h1, h2, r0]; rfl

theorem Sys2Proof.Laws.RoundTrip.amoXorW (d a b : Nat) : Statement (.amoXorW d a b) := by
  intro wd hw he
  have hf : (inU 7 d && inU 7 a && inU 7 b) = true := hw
  simp only [Bool.and_eq_true, decide_eq_true_eq] at hf
  obtain ⟨⟨f0, f1⟩, f2⟩ := hf
  obtain ⟨lt, mj, h0, h1, h2, r0⟩ := layout0 d a b 2868903940 (by decide) (by decide) (by decide) (by decide) f0 f1 f2 wd (Option.some.inj he)
  refine ⟨lt, word_ok ((row_AB wd (mj.trans (by decide))).trans ?_) hw⟩
  simp only [decodeAB, h0, h1, h2, r0]; rfl

theorem Sys2Proof.Laws.RoundTrip.amoMinW (d a b : Nat) : Statement (.amoMinW d a b) := by
  intro wd hw he
  have hf : (inU 7 d && inU 7 a && inU 7 b) = true := hw
  simp only [Bool.and_eq_true, decide_eq_true_eq] at hf
  obtain ⟨⟨f0, f1⟩, f2⟩ := hf
  obtain ⟨lt, mj, h0, h1, h2, r0⟩ := layout0 d a b 2868903941 (by decide) (by decide) (by decide) (by decide) f0 f1 f2 wd (Option.some.inj he)
  refine ⟨lt, word_ok ((row_AB wd (mj.trans (by decide))).trans ?_) hw⟩
  simp only [decodeAB, h0, h1, h2, r0]; rfl

theorem Sys2Proof.Laws.RoundTrip.amoMaxW (d a b : Nat) : Statement (.amoMaxW d a b) := by
  intro wd hw he
  have hf : (inU 7 d && inU 7 a && inU 7 b) = true := hw
  simp only [Bool.and_eq_true, decide_eq_true_eq] at hf
  obtain ⟨⟨f0, f1⟩, f2⟩ := hf
  obtain ⟨lt, mj, h0, h1, h2, r0⟩ := layout0 d a b 2868903942 (by decide) (by decide) (by decide) (by decide) f0 f1 f2 wd (Option.some.inj he)
  refine ⟨lt, word_ok ((row_AB wd (mj.trans (by decide))).trans ?_) hw⟩
  simp only [decodeAB, h0, h1, h2, r0]; rfl

theorem Sys2Proof.Laws.RoundTrip.amoSwapD (d a b : Nat) : Statement (.amoSwapD d a b) := by
  intro wd hw he
  have hf : (inU 7 d && inU 7 a && inU 7 b) = true := hw
  simp only [Bool.and_eq_true, decide_eq_true_eq] at hf
  obtain ⟨⟨f0, f1⟩, f2⟩ := hf
  obtain ⟨lt, mj, h0, h1, h2, r0⟩ := layout0 d a b 2885681152 (by decide) (by decide) (by decide) (by decide) f0 f1 f2 wd (Option.some.inj he)
  refine ⟨lt, word_ok ((row_AC wd (mj.trans (by decide))).trans ?_) hw⟩
  simp only [decodeAC, h0, h1, h2, r0]; rfl

theorem Sys2Proof.Laws.RoundTrip.amoAddD (d a b : Nat) : Statement (.amoAddD d a b) := by
  intro wd hw he
  have hf : (inU 7 d && inU 7 a && inU 7 b) = true := hw
  simp only [Bool.and_eq_true, decide_eq_true_eq] at hf
  obtain ⟨⟨f0, f1⟩, f2⟩ := hf
  obtain ⟨lt, mj, h0, h1, h2, r0⟩ := layout0 d a b 2885681153 (by decide) (by decide) (by decide) (by decide) f0 f1 f2 wd (Option.some.inj he)
  refine ⟨lt, word_ok ((row_AC wd (mj.trans (by decide))).trans ?_) hw⟩
  simp only [decodeAC, h0, h1, h2, r0]; rfl

theorem Sys2Proof.Laws.RoundTrip.amoAndD (d a b : Nat) : Statement (.amoAndD d a b) := by
  intro wd hw he
  have hf : (inU 7 d && inU 7 a && inU 7 b) = true := hw
  simp only [Bool.and_eq_true, decide_eq_true_eq] at hf
  obtain ⟨⟨f0, f1⟩, f2⟩ := hf
  obtain ⟨lt, mj, h0, h1, h2, r0⟩ := layout0 d a b 2885681154 (by decide) (by decide) (by decide) (by decide) f0 f1 f2 wd (Option.some.inj he)
  refine ⟨lt, word_ok ((row_AC wd (mj.trans (by decide))).trans ?_) hw⟩
  simp only [decodeAC, h0, h1, h2, r0]; rfl

theorem Sys2Proof.Laws.RoundTrip.amoOrD (d a b : Nat) : Statement (.amoOrD d a b) := by
  intro wd hw he
  have hf : (inU 7 d && inU 7 a && inU 7 b) = true := hw
  simp only [Bool.and_eq_true, decide_eq_true_eq] at hf
  obtain ⟨⟨f0, f1⟩, f2⟩ := hf
  obtain ⟨lt, mj, h0, h1, h2, r0⟩ := layout0 d a b 2885681155 (by decide) (by decide) (by decide) (by decide) f0 f1 f2 wd (Option.some.inj he)
  refine ⟨lt, word_ok ((row_AC wd (mj.trans (by decide))).trans ?_) hw⟩
  simp only [decodeAC, h0, h1, h2, r0]; rfl

theorem Sys2Proof.Laws.RoundTrip.amoXorD (d a b : Nat) : Statement (.amoXorD d a b) := by
  intro wd hw he
  have hf : (inU 7 d && inU 7 a && inU 7 b) = true := hw
  simp only [Bool.and_eq_true, decide_eq_true_eq] at hf
  obtain ⟨⟨f0, f1⟩, f2⟩ := hf
  obtain ⟨lt, mj, h0, h1, h2, r0⟩ := layout0 d a b 2885681156 (by decide) (by decide) (by decide) (by decide) f0 f1 f2 wd (Option.some.inj he)
  refine ⟨lt, word_ok ((row_AC wd (mj.trans (by decide))).trans ?_) hw⟩
  simp only [decodeAC, h0, h1, h2, r0]; rfl

theorem Sys2Proof.Laws.RoundTrip.amoMinD (d a b : Nat) : Statement (.amoMinD d a b) := by
  intro wd hw he
  have hf : (inU 7 d && inU 7 a && inU 7 b) = true := hw
  simp only [Bool.and_eq_true, decide_eq_true_eq] at hf
  obtain ⟨⟨f0, f1⟩, f2⟩ := hf
  obtain ⟨lt, mj, h0, h1, h2, r0⟩ := layout0 d a b 2885681157 (by decide) (by decide) (by decide) (by decide) f0 f1 f2 wd (Option.some.inj he)
  refine ⟨lt, word_ok ((row_AC wd (mj.trans (by decide))).trans ?_) hw⟩
  simp only [decodeAC, h0, h1, h2, r0]; rfl

theorem Sys2Proof.Laws.RoundTrip.amoMaxD (d a b : Nat) : Statement (.amoMaxD d a b) := by
  intro wd hw he
  have hf : (inU 7 d && inU 7 a && inU 7 b) = true := hw
  simp only [Bool.and_eq_true, decide_eq_true_eq] at hf
  obtain ⟨⟨f0, f1⟩, f2⟩ := hf
  obtain ⟨lt, mj, h0, h1, h2, r0⟩ := layout0 d a b 2885681158 (by decide) (by decide) (by decide) (by decide) f0 f1 f2 wd (Option.some.inj he)
  refine ⟨lt, word_ok ((row_AC wd (mj.trans (by decide))).trans ?_) hw⟩
  simp only [decodeAC, h0, h1, h2, r0]; rfl

theorem Sys2Proof.Laws.RoundTrip.amoMinuW (d a b : Nat) : Statement (.amoMinuW d a b) := by
  intro wd hw he
  have hf : (inU 7 d && inU 7 a && inU 7 b) = true := hw
  simp only [Bool.and_eq_true, decide_eq_true_eq] at hf
  obtain ⟨⟨f0, f1⟩, f2⟩ := hf
  obtain ⟨lt, mj, h0, h1, h2, r0⟩ := layout0 d a b 2902458368 (by decide) (by decide) (by decide) (by decide) f0 f1 f2 wd (Option.some.inj he)
  refine ⟨lt, word_ok ((row_AD wd (mj.trans (by decide))).trans ?_) hw⟩
  simp only [decodeAD, h0, h1, h2, r0]; rfl

theorem Sys2Proof.Laws.RoundTrip.amoMaxuW (d a b : Nat) : Statement (.amoMaxuW d a b) := by
  intro wd hw he
  have hf : (inU 7 d && inU 7 a && inU 7 b) = true := hw
  simp only [Bool.and_eq_true, decide_eq_true_eq] at hf
  obtain ⟨⟨f0, f1⟩, f2⟩ := hf
  obtain ⟨lt, mj, h0, h1, h2, r0⟩ := layout0 d a b 2902458369 (by decide) (by decide) (by decide) (by decide) f0 f1 f2 wd (Option.some.inj he)
  refine ⟨lt, word_ok ((row_AD wd (mj.trans (by decide))).trans ?_) hw⟩
  simp only [decodeAD, h0, h1, h2, r0]; rfl

theorem Sys2Proof.Laws.RoundTrip.amoMinuD (d a b : Nat) : Statement (.amoMinuD d a b) := by
  intro wd hw he
  have hf : (inU 7 d && inU 7 a && inU 7 b) = true := hw
  simp only [Bool.and_eq_true, decide_eq_true_eq] at hf
  obtain ⟨⟨f0, f1⟩, f2⟩ := hf
  obtain ⟨lt, mj, h0, h1, h2, r0⟩ := layout0 d a b 2902458370 (by decide) (by decide) (by decide) (by decide) f0 f1 f2 wd (Option.some.inj he)
  refine ⟨lt, word_ok ((row_AD wd (mj.trans (by decide))).trans ?_) hw⟩
  simp only [decodeAD, h0, h1, h2, r0]; rfl

theorem Sys2Proof.Laws.RoundTrip.amoMaxuD (d a b : Nat) : Statement (.amoMaxuD d a b) := by
  intro wd hw he
  have hf : (inU 7 d && inU 7 a && inU 7 b) = true := hw
  simp only [Bool.and_eq_true, decide_eq_true_eq] at hf
  obtain ⟨⟨f0, f1⟩, f2⟩ := hf
  obtain ⟨lt, mj, h0, h1, h2, r0⟩ := layout0 d a b 2902458371 (by decide) (by decide) (by decide) (by decide) f0 f1 f2 wd (Option.some.inj he)
  refine ⟨lt, word_ok ((row_AD wd (mj.trans (by decide))).trans ?_) hw⟩
  simp only [decodeAD, h0, h1, h2, r0]; rfl

theorem Sys2Proof.Laws.RoundTrip.amocasW (d a b : Nat) : Statement (.amocasW d a b) := by
  intro wd hw he
  have hf : (inU 7 d && inU 7 a && inU 7 b) = true := hw
  simp only [Bool.and_eq_true, decide_eq_true_eq] at hf
  obtain ⟨⟨f0, f1⟩, f2⟩ := hf
  obtain ⟨lt, mj, h0, h1, h2, r0⟩ := layout0 d a b 2902458372 (by decide) (by decide) (by decide) (by decide) f0 f1 f2 wd (Option.some.inj he)
  refine ⟨lt, word_ok ((row_AD wd (mj.trans (by decide))).trans ?_) hw⟩
  simp only [decodeAD, h0, h1, h2, r0]; rfl

theorem Sys2Proof.Laws.RoundTrip.amocasD (d a b : Nat) : Statement (.amocasD d a b) := by
  intro wd hw he
  have hf : (inU 7 d && inU 7 a && inU 7 b) = true := hw
  simp only [Bool.and_eq_true, decide_eq_true_eq] at hf
  obtain ⟨⟨f0, f1⟩, f2⟩ := hf
  obtain ⟨lt, mj, h0, h1, h2, r0⟩ := layout0 d a b 2902458373 (by decide) (by decide) (by decide) (by decide) f0 f1 f2 wd (Option.some.inj he)
  refine ⟨lt, word_ok ((row_AD wd (mj.trans (by decide))).trans ?_) hw⟩
  simp only [decodeAD, h0, h1, h2, r0]; rfl

theorem Sys2Proof.Laws.RoundTrip.redAdd (a b w : Nat) : Statement (.redAdd a b w) := by
  intro wd hw he
  have hf : (inU 7 a && inU 7 b && inU 3 w && redWidthInt w) = true := hw
  simp only [Bool.and_eq_true, decide_eq_true_eq] at hf
  obtain ⟨⟨⟨f0, f1⟩, f2⟩, f3⟩ := hf
  obtain ⟨lt, mj, h0, h1, h2, r0⟩ := layout19 a b w 2919235584 (by decide) (by decide) (by decide) (by decide) f0 f1 f2 wd (Option.some.inj he)
  refine ⟨lt, word_ok ((row_AE wd (mj.trans (by decide))).trans ?_) hw⟩
  simp only [decodeAE, h0, h1, h2, r0]; rfl

theorem Sys2Proof.Laws.RoundTrip.redAnd (a b w : Nat) : Statement (.redAnd a b w) := by
  intro wd hw he
  have hf : (inU 7 a && inU 7 b && inU 3 w && redWidthInt w) = true := hw
  simp only [Bool.and_eq_true, decide_eq_true_eq] at hf
  obtain ⟨⟨⟨f0, f1⟩, f2⟩, f3⟩ := hf
  obtain ⟨lt, mj, h0, h1, h2, r0⟩ := layout19 a b w 2919366656 (by decide) (by decide) (by decide) (by decide) f0 f1 f2 wd (Option.some.inj he)
  refine ⟨lt, word_ok ((row_AE wd (mj.trans (by decide))).trans ?_) hw⟩
  simp only [decodeAE, h0, h1, h2, r0]; rfl

theorem Sys2Proof.Laws.RoundTrip.redOr (a b w : Nat) : Statement (.redOr a b w) := by
  intro wd hw he
  have hf : (inU 7 a && inU 7 b && inU 3 w && redWidthInt w) = true := hw
  simp only [Bool.and_eq_true, decide_eq_true_eq] at hf
  obtain ⟨⟨⟨f0, f1⟩, f2⟩, f3⟩ := hf
  obtain ⟨lt, mj, h0, h1, h2, r0⟩ := layout19 a b w 2919497728 (by decide) (by decide) (by decide) (by decide) f0 f1 f2 wd (Option.some.inj he)
  refine ⟨lt, word_ok ((row_AE wd (mj.trans (by decide))).trans ?_) hw⟩
  simp only [decodeAE, h0, h1, h2, r0]; rfl

theorem Sys2Proof.Laws.RoundTrip.redXor (a b w : Nat) : Statement (.redXor a b w) := by
  intro wd hw he
  have hf : (inU 7 a && inU 7 b && inU 3 w && redWidthInt w) = true := hw
  simp only [Bool.and_eq_true, decide_eq_true_eq] at hf
  obtain ⟨⟨⟨f0, f1⟩, f2⟩, f3⟩ := hf
  obtain ⟨lt, mj, h0, h1, h2, r0⟩ := layout19 a b w 2919628800 (by decide) (by decide) (by decide) (by decide) f0 f1 f2 wd (Option.some.inj he)
  refine ⟨lt, word_ok ((row_AE wd (mj.trans (by decide))).trans ?_) hw⟩
  simp only [decodeAE, h0, h1, h2, r0]; rfl

theorem Sys2Proof.Laws.RoundTrip.redMin (a b w : Nat) : Statement (.redMin a b w) := by
  intro wd hw he
  have hf : (inU 7 a && inU 7 b && inU 3 w && redWidthInt w) = true := hw
  simp only [Bool.and_eq_true, decide_eq_true_eq] at hf
  obtain ⟨⟨⟨f0, f1⟩, f2⟩, f3⟩ := hf
  obtain ⟨lt, mj, h0, h1, h2, r0⟩ := layout19 a b w 2919759872 (by decide) (by decide) (by decide) (by decide) f0 f1 f2 wd (Option.some.inj he)
  refine ⟨lt, word_ok ((row_AE wd (mj.trans (by decide))).trans ?_) hw⟩
  simp only [decodeAE, h0, h1, h2, r0]; rfl

theorem Sys2Proof.Laws.RoundTrip.redMax (a b w : Nat) : Statement (.redMax a b w) := by
  intro wd hw he
  have hf : (inU 7 a && inU 7 b && inU 3 w && redWidthInt w) = true := hw
  simp only [Bool.and_eq_true, decide_eq_true_eq] at hf
  obtain ⟨⟨⟨f0, f1⟩, f2⟩, f3⟩ := hf
  obtain ⟨lt, mj, h0, h1, h2, r0⟩ := layout19 a b w 2919890944 (by decide) (by decide) (by decide) (by decide) f0 f1 f2 wd (Option.some.inj he)
  refine ⟨lt, word_ok ((row_AE wd (mj.trans (by decide))).trans ?_) hw⟩
  simp only [decodeAE, h0, h1, h2, r0]; rfl

theorem Sys2Proof.Laws.RoundTrip.redMinu (a b w : Nat) : Statement (.redMinu a b w) := by
  intro wd hw he
  have hf : (inU 7 a && inU 7 b && inU 3 w && redWidthInt w) = true := hw
  simp only [Bool.and_eq_true, decide_eq_true_eq] at hf
  obtain ⟨⟨⟨f0, f1⟩, f2⟩, f3⟩ := hf
  obtain ⟨lt, mj, h0, h1, h2, r0⟩ := layout19 a b w 2920022016 (by decide) (by decide) (by decide) (by decide) f0 f1 f2 wd (Option.some.inj he)
  refine ⟨lt, word_ok ((row_AE wd (mj.trans (by decide))).trans ?_) hw⟩
  simp only [decodeAE, h0, h1, h2, r0]; rfl

theorem Sys2Proof.Laws.RoundTrip.redMaxu (a b w : Nat) : Statement (.redMaxu a b w) := by
  intro wd hw he
  have hf : (inU 7 a && inU 7 b && inU 3 w && redWidthInt w) = true := hw
  simp only [Bool.and_eq_true, decide_eq_true_eq] at hf
  obtain ⟨⟨⟨f0, f1⟩, f2⟩, f3⟩ := hf
  obtain ⟨lt, mj, h0, h1, h2, r0⟩ := layout19 a b w 2920153088 (by decide) (by decide) (by decide) (by decide) f0 f1 f2 wd (Option.some.inj he)
  refine ⟨lt, word_ok ((row_AE wd (mj.trans (by decide))).trans ?_) hw⟩
  simp only [decodeAE, h0, h1, h2, r0]; rfl

theorem Sys2Proof.Laws.RoundTrip.redFadd (a b w : Nat) : Statement (.redFadd a b w) := by
  intro wd hw he
  have hf : (inU 7 a && inU 7 b && inU 3 w && redWidthFp w) = true := hw
  simp only [Bool.and_eq_true, decide_eq_true_eq] at hf
  obtain ⟨⟨⟨f0, f1⟩, f2⟩, f3⟩ := hf
  obtain ⟨lt, mj, h0, h1, h2, r0⟩ := layout19 a b w 2920284160 (by decide) (by decide) (by decide) (by decide) f0 f1 f2 wd (Option.some.inj he)
  refine ⟨lt, word_ok ((row_AE wd (mj.trans (by decide))).trans ?_) hw⟩
  simp only [decodeAE, h0, h1, h2, r0]; rfl

theorem Sys2Proof.Laws.RoundTrip.redFmin (a b w : Nat) : Statement (.redFmin a b w) := by
  intro wd hw he
  have hf : (inU 7 a && inU 7 b && inU 3 w && redWidthFp w) = true := hw
  simp only [Bool.and_eq_true, decide_eq_true_eq] at hf
  obtain ⟨⟨⟨f0, f1⟩, f2⟩, f3⟩ := hf
  obtain ⟨lt, mj, h0, h1, h2, r0⟩ := layout19 a b w 2920415232 (by decide) (by decide) (by decide) (by decide) f0 f1 f2 wd (Option.some.inj he)
  refine ⟨lt, word_ok ((row_AE wd (mj.trans (by decide))).trans ?_) hw⟩
  simp only [decodeAE, h0, h1, h2, r0]; rfl

theorem Sys2Proof.Laws.RoundTrip.redFmax (a b w : Nat) : Statement (.redFmax a b w) := by
  intro wd hw he
  have hf : (inU 7 a && inU 7 b && inU 3 w && redWidthFp w) = true := hw
  simp only [Bool.and_eq_true, decide_eq_true_eq] at hf
  obtain ⟨⟨⟨f0, f1⟩, f2⟩, f3⟩ := hf
  obtain ⟨lt, mj, h0, h1, h2, r0⟩ := layout19 a b w 2920546304 (by decide) (by decide) (by decide) (by decide) f0 f1 f2 wd (Option.some.inj he)
  refine ⟨lt, word_ok ((row_AE wd (mj.trans (by decide))).trans ?_) hw⟩
  simp only [decodeAE, h0, h1, h2, r0]; rfl

theorem Sys2Proof.Laws.RoundTrip.fenceT : Statement (.fenceT) := by
  intro wd hw he
  have e : 2936012800 = wd := Option.some.inj he
  subst e
  exact ⟨by decide, word_ok (row_AF _ (by decide)) hw⟩

theorem Sys2Proof.Laws.RoundTrip.fenceS : Statement (.fenceS) := by
  intro wd hw he
  have e : 2936012801 = wd := Option.some.inj he
  subst e
  exact ⟨by decide, word_ok (row_AF _ (by decide)) hw⟩

theorem Sys2Proof.Laws.RoundTrip.fenceD : Statement (.fenceD) := by
  intro wd hw he
  have e : 2936012802 = wd := Option.some.inj he
  subst e
  exact ⟨by decide, word_ok (row_AF _ (by decide)) hw⟩

theorem Sys2Proof.Laws.RoundTrip.fenceP : Statement (.fenceP) := by
  intro wd hw he
  have e : 2936012803 = wd := Option.some.inj he
  subst e
  exact ⟨by decide, word_ok (row_AF _ (by decide)) hw⟩

theorem Sys2Proof.Laws.RoundTrip.fenceX : Statement (.fenceX) := by
  intro wd hw he
  have e : 2936012804 = wd := Option.some.inj he
  subst e
  exact ⟨by decide, word_ok (row_AF _ (by decide)) hw⟩

theorem Sys2Proof.Laws.RoundTrip.redwait : Statement (.redwait) := by
  intro wd hw he
  have e : 2936012805 = wd := Option.some.inj he
  subst e
  exact ⟨by decide, word_ok (row_AF _ (by decide)) hw⟩

theorem Sys2Proof.Laws.RoundTrip.kshape (d s : Nat) : Statement (.kshape d s) := by
  intro wd hw he
  have hf : (inU 3 d && inU 7 s) = true := hw
  simp only [Bool.and_eq_true, decide_eq_true_eq] at hf
  obtain ⟨f0, f1⟩ := hf
  obtain ⟨lt, mj, h0, h1, r0⟩ := layout21 d s 2952790016 (by decide) (by decide) (by decide) f0 f1 wd (Option.some.inj he)
  refine ⟨lt, word_ok ((row_B0 wd (mj.trans (by decide))).trans ?_) hw⟩
  simp only [decodeB0, h0, h1, r0]; rfl

theorem Sys2Proof.Laws.RoundTrip.kld (d s : Nat) : Statement (.kld d s) := by
  intro wd hw he
  have hf : (inU 3 d && inU 7 s) = true := hw
  simp only [Bool.and_eq_true, decide_eq_true_eq] at hf
  obtain ⟨f0, f1⟩ := hf
  obtain ⟨lt, mj, h0, h1, r0⟩ := layout21 d s 2969567232 (by decide) (by decide) (by decide) f0 f1 wd (Option.some.inj he)
  refine ⟨lt, word_ok ((row_B1 wd (mj.trans (by decide))).trans ?_) hw⟩
  simp only [decodeB1, h0, h1, r0]; rfl

theorem Sys2Proof.Laws.RoundTrip.kldt (d s : Nat) : Statement (.kldt d s) := by
  intro wd hw he
  have hf : (inU 3 d && inU 7 s) = true := hw
  simp only [Bool.and_eq_true, decide_eq_true_eq] at hf
  obtain ⟨f0, f1⟩ := hf
  obtain ⟨lt, mj, h0, h1, r0⟩ := layout21 d s 2986344448 (by decide) (by decide) (by decide) f0 f1 wd (Option.some.inj he)
  refine ⟨lt, word_ok ((row_B2 wd (mj.trans (by decide))).trans ?_) hw⟩
  simp only [decodeB2, h0, h1, r0]; rfl

theorem Sys2Proof.Laws.RoundTrip.kst (a s : Nat) : Statement (.kst a s) := by
  intro wd hw he
  have hf : (inU 3 a && inU 7 s) = true := hw
  simp only [Bool.and_eq_true, decide_eq_true_eq] at hf
  obtain ⟨f0, f1⟩ := hf
  obtain ⟨lt, mj, h0, h1, r0, r1⟩ := layout22 a s 3003121664 (by decide) (by decide) (by decide) f0 f1 wd (Option.some.inj he)
  refine ⟨lt, word_ok ((row_B3 wd (mj.trans (by decide))).trans ?_) hw⟩
  simp only [decodeB3, h0, h1, r0, r1]; rfl

theorem Sys2Proof.Laws.RoundTrip.kzero (d : Nat) : Statement (.kzero d) := by
  intro wd hw he
  have hf : (inU 3 d) = true := hw
  simp only [Bool.and_eq_true, decide_eq_true_eq] at hf
  have f0 := hf
  obtain ⟨lt, mj, h0, r0⟩ := layout23 d 3019898880 (by decide) (by decide) f0 wd (Option.some.inj he)
  refine ⟨lt, word_ok ((row_B4 wd (mj.trans (by decide))).trans ?_) hw⟩
  simp only [decodeB4, h0, r0]; rfl

theorem Sys2Proof.Laws.RoundTrip.kmov (d a : Nat) : Statement (.kmov d a) := by
  intro wd hw he
  have hf : (inU 3 d && inU 3 a) = true := hw
  simp only [Bool.and_eq_true, decide_eq_true_eq] at hf
  obtain ⟨f0, f1⟩ := hf
  obtain ⟨lt, mj, h0, h1, r0⟩ := layout24 d a 3036676096 (by decide) (by decide) (by decide) f0 f1 wd (Option.some.inj he)
  refine ⟨lt, word_ok ((row_B5 wd (mj.trans (by decide))).trans ?_) hw⟩
  simp only [decodeB5, h0, h1, r0]; rfl

theorem Sys2Proof.Laws.RoundTrip.ktr (d a : Nat) : Statement (.ktr d a) := by
  intro wd hw he
  have hf : (inU 3 d && inU 3 a) = true := hw
  simp only [Bool.and_eq_true, decide_eq_true_eq] at hf
  obtain ⟨f0, f1⟩ := hf
  obtain ⟨lt, mj, h0, h1, r0⟩ := layout24 d a 3053453312 (by decide) (by decide) (by decide) f0 f1 wd (Option.some.inj he)
  refine ⟨lt, word_ok ((row_B6 wd (mj.trans (by decide))).trans ?_) hw⟩
  simp only [decodeB6, h0, h1, r0]; rfl

theorem Sys2Proof.Laws.RoundTrip.gang : Statement (.gang) := by
  intro wd hw he
  have e : 3070230528 = wd := Option.some.inj he
  subst e
  exact ⟨by decide, word_ok (row_B7 _ (by decide)) hw⟩

theorem Sys2Proof.Laws.RoundTrip.kmma (c a b n z t s : Nat) : Statement (.kmma c a b n z t s) := by
  intro wd hw he
  have hf : (inU 3 c && inU 3 a && inU 3 b && inU 1 n && inU 1 z && inU 2 t && inU 7 s && accField c && accType t) = true := hw
  simp only [Bool.and_eq_true, decide_eq_true_eq] at hf
  obtain ⟨⟨⟨⟨⟨⟨⟨⟨f0, f1⟩, f2⟩, f3⟩, f4⟩, f5⟩, f6⟩, f7⟩, f8⟩ := hf
  obtain ⟨lt, mj, h0, h1, h2, h3, h4, h5, h6, r0⟩ := layout25 c a b n z t s 3087007744 (by decide) (by decide) (by decide) (by decide) (by decide) (by decide) (by decide) (by decide) f0 f1 f2 f3 f4 f5 f6 wd (Option.some.inj he)
  refine ⟨lt, word_ok ((row_B8 wd (mj.trans (by decide))).trans ?_) hw⟩
  simp only [decodeB8, h0, h1, h2, h3, h4, h5, h6, r0]; rfl

theorem Sys2Proof.Laws.RoundTrip.kmmr (c a b n z t s : Nat) : Statement (.kmmr c a b n z t s) := by
  intro wd hw he
  have hf : (inU 3 c && inU 3 a && inU 3 b && inU 1 n && inU 1 z && inU 2 t && inU 7 s && accField c && accType t) = true := hw
  simp only [Bool.and_eq_true, decide_eq_true_eq] at hf
  obtain ⟨⟨⟨⟨⟨⟨⟨⟨f0, f1⟩, f2⟩, f3⟩, f4⟩, f5⟩, f6⟩, f7⟩, f8⟩ := hf
  obtain ⟨lt, mj, h0, h1, h2, h3, h4, h5, h6, r0⟩ := layout25 c a b n z t s 3103784960 (by decide) (by decide) (by decide) (by decide) (by decide) (by decide) (by decide) (by decide) f0 f1 f2 f3 f4 f5 f6 wd (Option.some.inj he)
  refine ⟨lt, word_ok ((row_B9 wd (mj.trans (by decide))).trans ?_) hw⟩
  simp only [decodeB9, h0, h1, h2, h3, h4, h5, h6, r0]; rfl

theorem Sys2Proof.Laws.RoundTrip.azero (c : Nat) : Statement (.azero c) := by
  intro wd hw he
  have hf : (inU 3 c && accField c) = true := hw
  simp only [Bool.and_eq_true, decide_eq_true_eq] at hf
  obtain ⟨f0, f1⟩ := hf
  obtain ⟨lt, mj, h0, r0⟩ := layout23 c 3120562176 (by decide) (by decide) f0 wd (Option.some.inj he)
  refine ⟨lt, word_ok ((row_BA wd (mj.trans (by decide))).trans ?_) hw⟩
  simp only [decodeBA, h0, r0]; rfl

theorem Sys2Proof.Laws.RoundTrip.ald (c t s : Nat) : Statement (.ald c t s) := by
  intro wd hw he
  have hf : (inU 3 c && inU 2 t && inU 7 s && accField c && accType t) = true := hw
  simp only [Bool.and_eq_true, decide_eq_true_eq] at hf
  obtain ⟨⟨⟨⟨f0, f1⟩, f2⟩, f3⟩, f4⟩ := hf
  obtain ⟨lt, mj, h0, h1, h2, r0⟩ := layout26 c t s 3137339392 (by decide) (by decide) (by decide) (by decide) f0 f1 f2 wd (Option.some.inj he)
  refine ⟨lt, word_ok ((row_BB wd (mj.trans (by decide))).trans ?_) hw⟩
  simp only [decodeBB, h0, h1, h2, r0]; rfl

theorem Sys2Proof.Laws.RoundTrip.ast (c t s : Nat) : Statement (.ast c t s) := by
  intro wd hw he
  have hf : (inU 3 c && inU 2 t && inU 7 s && accField c && accType t) = true := hw
  simp only [Bool.and_eq_true, decide_eq_true_eq] at hf
  obtain ⟨⟨⟨⟨f0, f1⟩, f2⟩, f3⟩, f4⟩ := hf
  obtain ⟨lt, mj, h0, h1, h2, r0, r1⟩ := layout27 c t s 3154116608 (by decide) (by decide) (by decide) (by decide) f0 f1 f2 wd (Option.some.inj he)
  refine ⟨lt, word_ok ((row_BC wd (mj.trans (by decide))).trans ?_) hw⟩
  simp only [decodeBC, h0, h1, h2, r0, r1]; rfl

theorem Sys2Proof.Laws.RoundTrip.acvt (d c t r s : Nat) : Statement (.acvt d c t r s) := by
  intro wd hw he
  have hf : (inU 3 d && inU 3 c && inU 2 t && inU 3 r && inU 7 s && accField c && accType t && roundCode r) = true := hw
  simp only [Bool.and_eq_true, decide_eq_true_eq] at hf
  obtain ⟨⟨⟨⟨⟨⟨⟨f0, f1⟩, f2⟩, f3⟩, f4⟩, f5⟩, f6⟩, f7⟩ := hf
  obtain ⟨lt, mj, h0, h1, h2, h3, h4, r0⟩ := layout28 d c t r s 3170893824 (by decide) (by decide) (by decide) (by decide) (by decide) (by decide) f0 f1 f2 f3 f4 wd (Option.some.inj he)
  refine ⟨lt, word_ok ((row_BD wd (mj.trans (by decide))).trans ?_) hw⟩
  simp only [decodeBD, h0, h1, h2, h3, h4, r0]; rfl

theorem Sys2Proof.Laws.RoundTrip.nzscan (d a b : Nat) : Statement (.nzscan d a b) := by
  intro wd hw he
  have hf : (inU 7 d && inU 7 a && inU 7 b) = true := hw
  simp only [Bool.and_eq_true, decide_eq_true_eq] at hf
  obtain ⟨⟨f0, f1⟩, f2⟩ := hf
  obtain ⟨lt, mj, h0, h1, h2, r0⟩ := layout0 d a b 3221225472 (by decide) (by decide) (by decide) (by decide) f0 f1 f2 wd (Option.some.inj he)
  refine ⟨lt, word_ok ((row_C0 wd (mj.trans (by decide))).trans ?_) hw⟩
  simp only [decodeC0, h0, h1, h2, r0]; rfl

theorem Sys2Proof.Laws.RoundTrip.gath (d a b : Nat) : Statement (.gath d a b) := by
  intro wd hw he
  have hf : (inU 7 d && inU 7 a && inU 7 b) = true := hw
  simp only [Bool.and_eq_true, decide_eq_true_eq] at hf
  obtain ⟨⟨f0, f1⟩, f2⟩ := hf
  obtain ⟨lt, mj, h0, h1, h2, r0⟩ := layout0 d a b 3221225473 (by decide) (by decide) (by decide) (by decide) f0 f1 f2 wd (Option.some.inj he)
  refine ⟨lt, word_ok ((row_C0 wd (mj.trans (by decide))).trans ?_) hw⟩
  simp only [decodeC0, h0, h1, h2, r0]; rfl

theorem Sys2Proof.Laws.RoundTrip.mgopen (d a : Nat) : Statement (.mgopen d a) := by
  intro wd hw he
  have hf : (inU 7 d && inU 7 a) = true := hw
  simp only [Bool.and_eq_true, decide_eq_true_eq] at hf
  obtain ⟨f0, f1⟩ := hf
  obtain ⟨lt, mj, h0, h1, r0, r1⟩ := layout1 d a 3238002688 (by decide) (by decide) (by decide) f0 f1 wd (Option.some.inj he)
  refine ⟨lt, word_ok ((row_C1 wd (mj.trans (by decide))).trans ?_) hw⟩
  simp only [decodeC1, h0, h1, r0, r1]; rfl

theorem Sys2Proof.Laws.RoundTrip.mgarea (d a b : Nat) : Statement (.mgarea d a b) := by
  intro wd hw he
  have hf : (inU 7 d && inU 7 a && inU 7 b) = true := hw
  simp only [Bool.and_eq_true, decide_eq_true_eq] at hf
  obtain ⟨⟨f0, f1⟩, f2⟩ := hf
  obtain ⟨lt, mj, h0, h1, h2, r0⟩ := layout0 d a b 3238002689 (by decide) (by decide) (by decide) (by decide) f0 f1 f2 wd (Option.some.inj he)
  refine ⟨lt, word_ok ((row_C1 wd (mj.trans (by decide))).trans ?_) hw⟩
  have e : d * 131072 + (a * 1024 + (b * 8 + 3238002689)) = wd := Option.some.inj he
  have n0 : ¬(bits wd 9 0 = 0) := by show ¬(wd / 1 % 1024 = 0); omega
  have m : bits wd 2 0 = 1 := by show wd / 1 % 8 = 1; omega
  rw [decodeC1, if_neg n0, if_pos m]
  simp only [h0, h1, h2, r0]
  rfl

theorem Sys2Proof.Laws.RoundTrip.mgput (d a b : Nat) : Statement (.mgput d a b) := by
  intro wd hw he
  have hf : (inU 7 d && inU 7 a && inU 7 b) = true := hw
  simp only [Bool.and_eq_true, decide_eq_true_eq] at hf
  obtain ⟨⟨f0, f1⟩, f2⟩ := hf
  obtain ⟨lt, mj, h0, h1, h2, r0⟩ := layout0 d a b 3238002690 (by decide) (by decide) (by decide) (by decide) f0 f1 f2 wd (Option.some.inj he)
  refine ⟨lt, word_ok ((row_C1 wd (mj.trans (by decide))).trans ?_) hw⟩
  have e : d * 131072 + (a * 1024 + (b * 8 + 3238002690)) = wd := Option.some.inj he
  have n0 : ¬(bits wd 9 0 = 0) := by show ¬(wd / 1 % 1024 = 0); omega
  have n1 : ¬(bits wd 2 0 = 1) := by show ¬(wd / 1 % 8 = 1); omega
  have m : bits wd 2 0 = 2 := by show wd / 1 % 8 = 2; omega
  rw [decodeC1, if_neg n0, if_neg n1, if_pos m]
  simp only [h0, h1, h2, r0]
  rfl

theorem Sys2Proof.Laws.RoundTrip.mgendEnd (d a b : Nat) : Statement (.mgendEnd d a b) := by
  intro wd hw he
  have hf : (inU 7 d && inU 7 a && inU 7 b) = true := hw
  simp only [Bool.and_eq_true, decide_eq_true_eq] at hf
  obtain ⟨⟨f0, f1⟩, f2⟩ := hf
  obtain ⟨lt, mj, h0, h1, h2, r0⟩ := layout0 d a b 3238002691 (by decide) (by decide) (by decide) (by decide) f0 f1 f2 wd (Option.some.inj he)
  refine ⟨lt, word_ok ((row_C1 wd (mj.trans (by decide))).trans ?_) hw⟩
  have e : d * 131072 + (a * 1024 + (b * 8 + 3238002691)) = wd := Option.some.inj he
  have n0 : ¬(bits wd 9 0 = 0) := by show ¬(wd / 1 % 1024 = 0); omega
  have n1 : ¬(bits wd 2 0 = 1) := by show ¬(wd / 1 % 8 = 1); omega
  have n2 : ¬(bits wd 2 0 = 2) := by show ¬(wd / 1 % 8 = 2); omega
  have m : bits wd 2 0 = 3 := by show wd / 1 % 8 = 3; omega
  rw [decodeC1, if_neg n0, if_neg n1, if_neg n2, if_pos m]
  simp only [h0, h1, h2, r0]
  rfl

theorem Sys2Proof.Laws.RoundTrip.mgendAbandon (d a b : Nat) : Statement (.mgendAbandon d a b) := by
  intro wd hw he
  have hf : (inU 7 d && inU 7 a && inU 7 b) = true := hw
  simp only [Bool.and_eq_true, decide_eq_true_eq] at hf
  obtain ⟨⟨f0, f1⟩, f2⟩ := hf
  obtain ⟨lt, mj, h0, h1, h2, r0⟩ := layout0 d a b 3238002691 (by decide) (by decide) (by decide) (by decide) f0 f1 f2 wd (Option.some.inj he)
  refine ⟨lt, word_ok ((row_C1 wd (mj.trans (by decide))).trans ?_) hw⟩
  have e : d * 131072 + (a * 1024 + (b * 8 + 3238002691)) = wd := Option.some.inj he
  have n0 : ¬(bits wd 9 0 = 0) := by show ¬(wd / 1 % 1024 = 0); omega
  have n1 : ¬(bits wd 2 0 = 1) := by show ¬(wd / 1 % 8 = 1); omega
  have n2 : ¬(bits wd 2 0 = 2) := by show ¬(wd / 1 % 8 = 2); omega
  have m : bits wd 2 0 = 3 := by show wd / 1 % 8 = 3; omega
  rw [decodeC1, if_neg n0, if_neg n1, if_neg n2, if_pos m]
  simp only [h0, h1, h2, r0]
  rfl

theorem Sys2Proof.Laws.RoundTrip.mgfin (d a b : Nat) : Statement (.mgfin d a b) := by
  intro wd hw he
  have hf : (inU 7 d && inU 7 a && inU 7 b) = true := hw
  simp only [Bool.and_eq_true, decide_eq_true_eq] at hf
  obtain ⟨⟨f0, f1⟩, f2⟩ := hf
  obtain ⟨lt, mj, h0, h1, h2, r0⟩ := layout0 d a b 3238002692 (by decide) (by decide) (by decide) (by decide) f0 f1 f2 wd (Option.some.inj he)
  refine ⟨lt, word_ok ((row_C1 wd (mj.trans (by decide))).trans ?_) hw⟩
  have e : d * 131072 + (a * 1024 + (b * 8 + 3238002692)) = wd := Option.some.inj he
  have n0 : ¬(bits wd 9 0 = 0) := by show ¬(wd / 1 % 1024 = 0); omega
  have n1 : ¬(bits wd 2 0 = 1) := by show ¬(wd / 1 % 8 = 1); omega
  have n2 : ¬(bits wd 2 0 = 2) := by show ¬(wd / 1 % 8 = 2); omega
  have n3 : ¬(bits wd 2 0 = 3) := by show ¬(wd / 1 % 8 = 3); omega
  have m : bits wd 2 0 = 4 := by show wd / 1 % 8 = 4; omega
  rw [decodeC1, if_neg n0, if_neg n1, if_neg n2, if_neg n3, if_pos m]
  simp only [h0, h1, h2, r0]
  rfl

theorem Sys2Proof.Laws.RoundTrip.mgstat (d a b : Nat) : Statement (.mgstat d a b) := by
  intro wd hw he
  have hf : (inU 7 d && inU 7 a && inU 7 b) = true := hw
  simp only [Bool.and_eq_true, decide_eq_true_eq] at hf
  obtain ⟨⟨f0, f1⟩, f2⟩ := hf
  obtain ⟨lt, mj, h0, h1, h2, r0⟩ := layout0 d a b 3238002693 (by decide) (by decide) (by decide) (by decide) f0 f1 f2 wd (Option.some.inj he)
  refine ⟨lt, word_ok ((row_C1 wd (mj.trans (by decide))).trans ?_) hw⟩
  have e : d * 131072 + (a * 1024 + (b * 8 + 3238002693)) = wd := Option.some.inj he
  have n0 : ¬(bits wd 9 0 = 0) := by show ¬(wd / 1 % 1024 = 0); omega
  have n1 : ¬(bits wd 2 0 = 1) := by show ¬(wd / 1 % 8 = 1); omega
  have n2 : ¬(bits wd 2 0 = 2) := by show ¬(wd / 1 % 8 = 2); omega
  have n3 : ¬(bits wd 2 0 = 3) := by show ¬(wd / 1 % 8 = 3); omega
  have n4 : ¬(bits wd 2 0 = 4) := by show ¬(wd / 1 % 8 = 4); omega
  have m : bits wd 2 0 = 5 := by show wd / 1 % 8 = 5; omega
  rw [decodeC1, if_neg n0, if_neg n1, if_neg n2, if_neg n3, if_neg n4, if_pos m]
  simp only [h0, h1, h2, r0]
  rfl

theorem Sys2Proof.Laws.RoundTrip.gtopk (d a b : Nat) : Statement (.gtopk d a b) := by
  intro wd hw he
  have hf : (inU 7 d && inU 7 a && inU 7 b) = true := hw
  simp only [Bool.and_eq_true, decide_eq_true_eq] at hf
  obtain ⟨⟨f0, f1⟩, f2⟩ := hf
  obtain ⟨lt, mj, h0, h1, h2, r0⟩ := layout0 d a b 3254779904 (by decide) (by decide) (by decide) (by decide) f0 f1 f2 wd (Option.some.inj he)
  refine ⟨lt, word_ok ((row_C2 wd (mj.trans (by decide))).trans ?_) hw⟩
  simp only [decodeC2, h0, h1, h2, r0]; rfl

theorem Sys2Proof.Laws.RoundTrip.ghist (d a b : Nat) : Statement (.ghist d a b) := by
  intro wd hw he
  have hf : (inU 7 d && inU 7 a && inU 7 b) = true := hw
  simp only [Bool.and_eq_true, decide_eq_true_eq] at hf
  obtain ⟨⟨f0, f1⟩, f2⟩ := hf
  obtain ⟨lt, mj, h0, h1, h2, r0⟩ := layout0 d a b 3254779905 (by decide) (by decide) (by decide) (by decide) f0 f1 f2 wd (Option.some.inj he)
  refine ⟨lt, word_ok ((row_C2 wd (mj.trans (by decide))).trans ?_) hw⟩
  simp only [decodeC2, h0, h1, h2, r0]; rfl

theorem Sys2Proof.Laws.RoundTrip.gperm (d a b : Nat) : Statement (.gperm d a b) := by
  intro wd hw he
  have hf : (inU 7 d && inU 7 a && inU 7 b) = true := hw
  simp only [Bool.and_eq_true, decide_eq_true_eq] at hf
  obtain ⟨⟨f0, f1⟩, f2⟩ := hf
  obtain ⟨lt, mj, h0, h1, h2, r0⟩ := layout0 d a b 3254779906 (by decide) (by decide) (by decide) (by decide) f0 f1 f2 wd (Option.some.inj he)
  refine ⟨lt, word_ok ((row_C2 wd (mj.trans (by decide))).trans ?_) hw⟩
  simp only [decodeC2, h0, h1, h2, r0]; rfl

theorem Sys2Proof.Laws.RoundTrip.ctreeBind (d a b : Nat) : Statement (.ctreeBind d a b) := by
  intro wd hw he
  have hf : (inU 7 d && inU 7 a && inU 7 b) = true := hw
  simp only [Bool.and_eq_true, decide_eq_true_eq] at hf
  obtain ⟨⟨f0, f1⟩, f2⟩ := hf
  obtain ⟨lt, mj, h0, h1, h2, r0⟩ := layout0 d a b 3355443200 (by decide) (by decide) (by decide) (by decide) f0 f1 f2 wd (Option.some.inj he)
  refine ⟨lt, word_ok ((row_C8 wd (mj.trans (by decide))).trans ?_) hw⟩
  simp only [decodeC8, h0, h1, h2, r0]; rfl

theorem Sys2Proof.Laws.RoundTrip.ctreeUnbind (d a b : Nat) : Statement (.ctreeUnbind d a b) := by
  intro wd hw he
  have hf : (inU 7 d && inU 7 a && inU 7 b) = true := hw
  simp only [Bool.and_eq_true, decide_eq_true_eq] at hf
  obtain ⟨⟨f0, f1⟩, f2⟩ := hf
  obtain ⟨lt, mj, h0, h1, h2, r0⟩ := layout0 d a b 3355443200 (by decide) (by decide) (by decide) (by decide) f0 f1 f2 wd (Option.some.inj he)
  refine ⟨lt, word_ok ((row_C8 wd (mj.trans (by decide))).trans ?_) hw⟩
  simp only [decodeC8, h0, h1, h2, r0]; rfl

theorem Sys2Proof.Laws.RoundTrip.cdesc (d a b : Nat) : Statement (.cdesc d a b) := by
  intro wd hw he
  have hf : (inU 7 d && inU 7 a && inU 7 b) = true := hw
  simp only [Bool.and_eq_true, decide_eq_true_eq] at hf
  obtain ⟨⟨f0, f1⟩, f2⟩ := hf
  obtain ⟨lt, mj, h0, h1, h2, r0⟩ := layout0 d a b 3355443201 (by decide) (by decide) (by decide) (by decide) f0 f1 f2 wd (Option.some.inj he)
  refine ⟨lt, word_ok ((row_C8 wd (mj.trans (by decide))).trans ?_) hw⟩
  simp only [decodeC8, h0, h1, h2, r0]; rfl

theorem Sys2Proof.Laws.RoundTrip.cexp (d a b : Nat) : Statement (.cexp d a b) := by
  intro wd hw he
  have hf : (inU 7 d && inU 7 a && inU 7 b) = true := hw
  simp only [Bool.and_eq_true, decide_eq_true_eq] at hf
  obtain ⟨⟨f0, f1⟩, f2⟩ := hf
  obtain ⟨lt, mj, h0, h1, h2, r0⟩ := layout0 d a b 3355443202 (by decide) (by decide) (by decide) (by decide) f0 f1 f2 wd (Option.some.inj he)
  refine ⟨lt, word_ok ((row_C8 wd (mj.trans (by decide))).trans ?_) hw⟩
  simp only [decodeC8, h0, h1, h2, r0]; rfl

theorem Sys2Proof.Laws.RoundTrip.cbackBackup (d a b : Nat) : Statement (.cbackBackup d a b) := by
  intro wd hw he
  have hf : (inU 7 d && inU 7 a && inU 7 b) = true := hw
  simp only [Bool.and_eq_true, decide_eq_true_eq] at hf
  obtain ⟨⟨f0, f1⟩, f2⟩ := hf
  obtain ⟨lt, mj, h0, h1, h2, r0⟩ := layout0 d a b 3355443203 (by decide) (by decide) (by decide) (by decide) f0 f1 f2 wd (Option.some.inj he)
  refine ⟨lt, word_ok ((row_C8 wd (mj.trans (by decide))).trans ?_) hw⟩
  simp only [decodeC8, h0, h1, h2, r0]; rfl

theorem Sys2Proof.Laws.RoundTrip.cbackCancel (d a b : Nat) : Statement (.cbackCancel d a b) := by
  intro wd hw he
  have hf : (inU 7 d && inU 7 a && inU 7 b) = true := hw
  simp only [Bool.and_eq_true, decide_eq_true_eq] at hf
  obtain ⟨⟨f0, f1⟩, f2⟩ := hf
  obtain ⟨lt, mj, h0, h1, h2, r0⟩ := layout0 d a b 3355443203 (by decide) (by decide) (by decide) (by decide) f0 f1 f2 wd (Option.some.inj he)
  refine ⟨lt, word_ok ((row_C8 wd (mj.trans (by decide))).trans ?_) hw⟩
  simp only [decodeC8, h0, h1, h2, r0]; rfl

theorem Sys2Proof.Laws.RoundTrip.cread (d a b : Nat) : Statement (.cread d a b) := by
  intro wd hw he
  have hf : (inU 7 d && inU 7 a && inU 7 b) = true := hw
  simp only [Bool.and_eq_true, decide_eq_true_eq] at hf
  obtain ⟨⟨f0, f1⟩, f2⟩ := hf
  obtain ⟨lt, mj, h0, h1, h2, r0⟩ := layout0 d a b 3355443204 (by decide) (by decide) (by decide) (by decide) f0 f1 f2 wd (Option.some.inj he)
  refine ⟨lt, word_ok ((row_C8 wd (mj.trans (by decide))).trans ?_) hw⟩
  simp only [decodeC8, h0, h1, h2, r0]; rfl

theorem Sys2Proof.Laws.RoundTrip.creuse (d a : Nat) : Statement (.creuse d a) := by
  intro wd hw he
  have hf : (inU 7 d && inU 7 a) = true := hw
  simp only [Bool.and_eq_true, decide_eq_true_eq] at hf
  obtain ⟨f0, f1⟩ := hf
  obtain ⟨lt, mj, h0, h1, r0, r1⟩ := layout1 d a 3355443205 (by decide) (by decide) (by decide) f0 f1 wd (Option.some.inj he)
  refine ⟨lt, word_ok ((row_C8 wd (mj.trans (by decide))).trans ?_) hw⟩
  simp only [decodeC8, h0, h1, r0, r1]; rfl

theorem Sys2Proof.Laws.RoundTrip.spawn (d : Nat) (o : Int) : Statement (.spawn d o) := by
  intro wd hw he
  have hf : (inU 7 d && inS 17 o) = true := hw
  simp only [Bool.and_eq_true, decide_eq_true_eq] at hf
  obtain ⟨f0, f1⟩ := hf
  obtain ⟨s1, s2⟩ := sext_ofSigned 17 o (by decide) f1.1 f1.2
  obtain ⟨lt, mj, h0, h1⟩ := layout10 d (ofSigned 17 o) 3489660928 (by decide) (by decide) (by decide) f0 s2 wd (Option.some.inj he)
  refine ⟨lt, word_ok ((row_D0 wd (mj.trans (by decide))).trans ?_) hw⟩
  simp only [decodeD0, h0, h1, s1]; rfl

theorem Sys2Proof.Laws.RoundTrip.spawnr (d : Nat) (o : Int) : Statement (.spawnr d o) := by
  intro wd hw he
  have hf : (inU 7 d && inS 17 o) = true := hw
  simp only [Bool.and_eq_true, decide_eq_true_eq] at hf
  obtain ⟨f0, f1⟩ := hf
  obtain ⟨s1, s2⟩ := sext_ofSigned 17 o (by decide) f1.1 f1.2
  obtain ⟨lt, mj, h0, h1⟩ := layout10 d (ofSigned 17 o) 3506438144 (by decide) (by decide) (by decide) f0 s2 wd (Option.some.inj he)
  refine ⟨lt, word_ok ((row_D1 wd (mj.trans (by decide))).trans ?_) hw⟩
  simp only [decodeD1, h0, h1, s1]; rfl

theorem Sys2Proof.Laws.RoundTrip.join (d : Nat) : Statement (.join d) := by
  intro wd hw he
  have hf : (inU 7 d) = true := hw
  simp only [Bool.and_eq_true, decide_eq_true_eq] at hf
  have f0 := hf
  obtain ⟨lt, mj, h0, r0, r1⟩ := layout29 d 3523215360 (by decide) (by decide) f0 wd (Option.some.inj he)
  refine ⟨lt, word_ok ((row_D2 wd (mj.trans (by decide))).trans ?_) hw⟩
  simp only [decodeD2, h0, r0, r1]; rfl

theorem Sys2Proof.Laws.RoundTrip.tend : Statement (.tend) := by
  intro wd hw he
  have e : 3539992576 = wd := Option.some.inj he
  subst e
  exact ⟨by decide, word_ok (row_D3 _ (by decide)) hw⟩

theorem Sys2Proof.Laws.RoundTrip.sspawn (d a p : Nat) : Statement (.sspawn d a p) := by
  intro wd hw he
  have hf : (inU 7 d && inU 7 a && inU 2 p) = true := hw
  simp only [Bool.and_eq_true, decide_eq_true_eq] at hf
  obtain ⟨⟨f0, f1⟩, f2⟩ := hf
  obtain ⟨lt, mj, h0, h1, h2, r0⟩ := layout30 d a p 3556769792 (by decide) (by decide) (by decide) (by decide) f0 f1 f2 wd (Option.some.inj he)
  refine ⟨lt, word_ok ((row_D4 wd (mj.trans (by decide))).trans ?_) hw⟩
  simp only [decodeD4, h0, h1, h2, r0]; rfl

theorem Sys2Proof.Laws.RoundTrip.ps (d n b : Nat) : Statement (.ps d n b) := by
  intro wd hw he
  have hf : (inU 7 d && inU 7 n && inU 7 b && ridgeField n) = true := hw
  simp only [Bool.and_eq_true, decide_eq_true_eq] at hf
  obtain ⟨⟨⟨f0, f1⟩, f2⟩, f3⟩ := hf
  obtain ⟨lt, mj, h0, h1, h2, r0⟩ := layout0 d n b 3573547008 (by decide) (by decide) (by decide) (by decide) f0 f1 f2 wd (Option.some.inj he)
  refine ⟨lt, word_ok ((row_D5 wd (mj.trans (by decide))).trans ?_) hw⟩
  simp only [decodeD5, h0, h1, h2, r0]; rfl

theorem Sys2Proof.Laws.RoundTrip.psm (d n b : Nat) : Statement (.psm d n b) := by
  intro wd hw he
  have hf : (inU 7 d && inU 7 n && inU 7 b && ridgeField n) = true := hw
  simp only [Bool.and_eq_true, decide_eq_true_eq] at hf
  obtain ⟨⟨⟨f0, f1⟩, f2⟩, f3⟩ := hf
  obtain ⟨lt, mj, h0, h1, h2, r0⟩ := layout0 d n b 3590324224 (by decide) (by decide) (by decide) (by decide) f0 f1 f2 wd (Option.some.inj he)
  refine ⟨lt, word_ok ((row_D6 wd (mj.trans (by decide))).trans ?_) hw⟩
  simp only [decodeD6, h0, h1, h2, r0]; rfl

theorem Sys2Proof.Laws.RoundTrip.nrd (d n : Nat) : Statement (.nrd d n) := by
  intro wd hw he
  have hf : (inU 7 d && inU 7 n && ridgeField n) = true := hw
  simp only [Bool.and_eq_true, decide_eq_true_eq] at hf
  obtain ⟨⟨f0, f1⟩, f2⟩ := hf
  obtain ⟨lt, mj, h0, h1, r0, r1⟩ := layout1 d n 3607101440 (by decide) (by decide) (by decide) f0 f1 wd (Option.some.inj he)
  refine ⟨lt, word_ok ((row_D7 wd (mj.trans (by decide))).trans ?_) hw⟩
  simp only [decodeD7, h0, h1, r0, r1]; rfl

theorem Sys2Proof.Laws.RoundTrip.nwr (n b : Nat) : Statement (.nwr n b) := by
  intro wd hw he
  have hf : (inU 7 n && inU 7 b && ridgeField n) = true := hw
  simp only [Bool.and_eq_true, decide_eq_true_eq] at hf
  obtain ⟨⟨f0, f1⟩, f2⟩ := hf
  obtain ⟨lt, mj, h0, h1, r0, r1⟩ := layout31 n b 3623878656 (by decide) (by decide) (by decide) f0 f1 wd (Option.some.inj he)
  refine ⟨lt, word_ok ((row_D8 wd (mj.trans (by decide))).trans ?_) hw⟩
  simp only [decodeD8, h0, h1, r0, r1]; rfl

theorem Sys2Proof.Laws.RoundTrip.jredAdd (n b : Nat) : Statement (.jredAdd n b) := by
  intro wd hw he
  have hf : (inU 7 n && inU 7 b && decide (n < 8)) = true := hw
  simp only [Bool.and_eq_true, decide_eq_true_eq] at hf
  obtain ⟨⟨f0, f1⟩, f2⟩ := hf
  obtain ⟨lt, mj, h0, h1, r0, r1⟩ := layout31 n b 3640655872 (by decide) (by decide) (by decide) f0 f1 wd (Option.some.inj he)
  refine ⟨lt, word_ok ((row_D9 wd (mj.trans (by decide))).trans ?_) hw⟩
  simp only [decodeD9, h0, h1, r0, r1]; rfl

theorem Sys2Proof.Laws.RoundTrip.jredMin (n b : Nat) : Statement (.jredMin n b) := by
  intro wd hw he
  have hf : (inU 7 n && inU 7 b && decide (n < 8)) = true := hw
  simp only [Bool.and_eq_true, decide_eq_true_eq] at hf
  obtain ⟨⟨f0, f1⟩, f2⟩ := hf
  obtain ⟨lt, mj, h0, h1, r0, r1⟩ := layout31 n b 3640655873 (by decide) (by decide) (by decide) f0 f1 wd (Option.some.inj he)
  refine ⟨lt, word_ok ((row_D9 wd (mj.trans (by decide))).trans ?_) hw⟩
  simp only [decodeD9, h0, h1, r0, r1]; rfl

theorem Sys2Proof.Laws.RoundTrip.jredMax (n b : Nat) : Statement (.jredMax n b) := by
  intro wd hw he
  have hf : (inU 7 n && inU 7 b && decide (n < 8)) = true := hw
  simp only [Bool.and_eq_true, decide_eq_true_eq] at hf
  obtain ⟨⟨f0, f1⟩, f2⟩ := hf
  obtain ⟨lt, mj, h0, h1, r0, r1⟩ := layout31 n b 3640655874 (by decide) (by decide) (by decide) f0 f1 wd (Option.some.inj he)
  refine ⟨lt, word_ok ((row_D9 wd (mj.trans (by decide))).trans ?_) hw⟩
  simp only [decodeD9, h0, h1, r0, r1]; rfl

theorem Sys2Proof.Laws.RoundTrip.jredMinu (n b : Nat) : Statement (.jredMinu n b) := by
  intro wd hw he
  have hf : (inU 7 n && inU 7 b && decide (n < 8)) = true := hw
  simp only [Bool.and_eq_true, decide_eq_true_eq] at hf
  obtain ⟨⟨f0, f1⟩, f2⟩ := hf
  obtain ⟨lt, mj, h0, h1, r0, r1⟩ := layout31 n b 3640655875 (by decide) (by decide) (by decide) f0 f1 wd (Option.some.inj he)
  refine ⟨lt, word_ok ((row_D9 wd (mj.trans (by decide))).trans ?_) hw⟩
  simp only [decodeD9, h0, h1, r0, r1]; rfl

theorem Sys2Proof.Laws.RoundTrip.jredMaxu (n b : Nat) : Statement (.jredMaxu n b) := by
  intro wd hw he
  have hf : (inU 7 n && inU 7 b && decide (n < 8)) = true := hw
  simp only [Bool.and_eq_true, decide_eq_true_eq] at hf
  obtain ⟨⟨f0, f1⟩, f2⟩ := hf
  obtain ⟨lt, mj, h0, h1, r0, r1⟩ := layout31 n b 3640655876 (by decide) (by decide) (by decide) f0 f1 wd (Option.some.inj he)
  refine ⟨lt, word_ok ((row_D9 wd (mj.trans (by decide))).trans ?_) hw⟩
  simp only [decodeD9, h0, h1, r0, r1]; rfl

theorem Sys2Proof.Laws.RoundTrip.jredFaddFp64 (n b : Nat) : Statement (.jredFaddFp64 n b) := by
  intro wd hw he
  have hf : (inU 7 n && inU 7 b && decide (n < 8)) = true := hw
  simp only [Bool.and_eq_true, decide_eq_true_eq] at hf
  obtain ⟨⟨f0, f1⟩, f2⟩ := hf
  obtain ⟨lt, mj, h0, h1, r0, r1⟩ := layout31 n b 3640655877 (by decide) (by decide) (by decide) f0 f1 wd (Option.some.inj he)
  refine ⟨lt, word_ok ((row_D9 wd (mj.trans (by decide))).trans ?_) hw⟩
  simp only [decodeD9, h0, h1, r0, r1]; rfl

theorem Sys2Proof.Laws.RoundTrip.jredFaddFp32 (n b : Nat) : Statement (.jredFaddFp32 n b) := by
  intro wd hw he
  have hf : (inU 7 n && inU 7 b && decide (n < 8)) = true := hw
  simp only [Bool.and_eq_true, decide_eq_true_eq] at hf
  obtain ⟨⟨f0, f1⟩, f2⟩ := hf
  obtain ⟨lt, mj, h0, h1, r0, r1⟩ := layout31 n b 3640655878 (by decide) (by decide) (by decide) f0 f1 wd (Option.some.inj he)
  refine ⟨lt, word_ok ((row_D9 wd (mj.trans (by decide))).trans ?_) hw⟩
  simp only [decodeD9, h0, h1, r0, r1]; rfl

theorem Sys2Proof.Laws.RoundTrip.bar (i : Int) : Statement (.bar i) := by
  intro wd hw he
  have hf : (inS 10 i && decide (0 ≤ i)) = true := hw
  simp only [Bool.and_eq_true, decide_eq_true_eq] at hf
  obtain ⟨f0, f1⟩ := hf
  obtain ⟨s1, s2⟩ := sext_ofSigned 10 i (by decide) f0.1 f0.2
  obtain ⟨lt, mj, h0, r0⟩ := layout32 (ofSigned 10 i) 3657433088 (by decide) (by decide) s2 wd (Option.some.inj he)
  refine ⟨lt, word_ok ((row_DA wd (mj.trans (by decide))).trans ?_) hw⟩
  simp only [decodeDA, h0, r0, s1]; rfl

theorem Sys2Proof.Laws.RoundTrip.barinit (a : Nat) (i : Int) : Statement (.barinit a i) := by
  intro wd hw he
  have hf : (inU 7 a && inS 10 i && decide (0 ≤ i)) = true := hw
  simp only [Bool.and_eq_true, decide_eq_true_eq] at hf
  obtain ⟨⟨f0, f1⟩, f2⟩ := hf
  obtain ⟨s1, s2⟩ := sext_ofSigned 10 i (by decide) f1.1 f1.2
  obtain ⟨lt, mj, h0, h1, r0⟩ := layout11 a (ofSigned 10 i) 3674210304 (by decide) (by decide) (by decide) f0 s2 wd (Option.some.inj he)
  refine ⟨lt, word_ok ((row_DB wd (mj.trans (by decide))).trans ?_) hw⟩
  simp only [decodeDB, h0, h1, r0, s1]; rfl

theorem Sys2Proof.Laws.RoundTrip.yield : Statement (.yield) := by
  intro wd hw he
  have e : 3690987520 = wd := Option.some.inj he
  subst e
  exact ⟨by decide, word_ok (row_DC _ (by decide)) hw⟩

theorem Sys2Proof.Laws.RoundTrip.waitGeu (d a b : Nat) : Statement (.waitGeu d a b) := by
  intro wd hw he
  have hf : (inU 7 d && inU 7 a && inU 7 b) = true := hw
  simp only [Bool.and_eq_true, decide_eq_true_eq] at hf
  obtain ⟨⟨f0, f1⟩, f2⟩ := hf
  obtain ⟨lt, mj, h0, h1, h2, r0⟩ := layout0 d a b 3707764736 (by decide) (by decide) (by decide) (by decide) f0 f1 f2 wd (Option.some.inj he)
  refine ⟨lt, word_ok ((row_DD wd (mj.trans (by decide))).trans ?_) hw⟩
  simp only [decodeDD, h0, h1, h2, r0]; rfl

theorem Sys2Proof.Laws.RoundTrip.waitEq (d a b : Nat) : Statement (.waitEq d a b) := by
  intro wd hw he
  have hf : (inU 7 d && inU 7 a && inU 7 b) = true := hw
  simp only [Bool.and_eq_true, decide_eq_true_eq] at hf
  obtain ⟨⟨f0, f1⟩, f2⟩ := hf
  obtain ⟨lt, mj, h0, h1, h2, r0⟩ := layout0 d a b 3707764737 (by decide) (by decide) (by decide) (by decide) f0 f1 f2 wd (Option.some.inj he)
  refine ⟨lt, word_ok ((row_DD wd (mj.trans (by decide))).trans ?_) hw⟩
  simp only [decodeDD, h0, h1, h2, r0]; rfl

theorem Sys2Proof.Laws.RoundTrip.waitNe (d a b : Nat) : Statement (.waitNe d a b) := by
  intro wd hw he
  have hf : (inU 7 d && inU 7 a && inU 7 b) = true := hw
  simp only [Bool.and_eq_true, decide_eq_true_eq] at hf
  obtain ⟨⟨f0, f1⟩, f2⟩ := hf
  obtain ⟨lt, mj, h0, h1, h2, r0⟩ := layout0 d a b 3707764738 (by decide) (by decide) (by decide) (by decide) f0 f1 f2 wd (Option.some.inj he)
  refine ⟨lt, word_ok ((row_DD wd (mj.trans (by decide))).trans ?_) hw⟩
  simp only [decodeDD, h0, h1, h2, r0]; rfl

theorem Sys2Proof.Laws.RoundTrip.poolset (d a b : Nat) : Statement (.poolset d a b) := by
  intro wd hw he
  have hf : (inU 7 d && inU 7 a && inU 7 b) = true := hw
  simp only [Bool.and_eq_true, decide_eq_true_eq] at hf
  obtain ⟨⟨f0, f1⟩, f2⟩ := hf
  obtain ⟨lt, mj, h0, h1, h2, r0⟩ := layout0 d a b 3758096384 (by decide) (by decide) (by decide) (by decide) f0 f1 f2 wd (Option.some.inj he)
  refine ⟨lt, word_ok ((row_E0 wd (mj.trans (by decide))).trans ?_) hw⟩
  simp only [decodeE0, h0, h1, h2, r0]; rfl

theorem Sys2Proof.Laws.RoundTrip.poolsetT (d a b : Nat) : Statement (.poolsetT d a b) := by
  intro wd hw he
  have hf : (inU 7 d && inU 7 a && inU 7 b) = true := hw
  simp only [Bool.and_eq_true, decide_eq_true_eq] at hf
  obtain ⟨⟨f0, f1⟩, f2⟩ := hf
  obtain ⟨lt, mj, h0, h1, h2, r0⟩ := layout0 d a b 3758096385 (by decide) (by decide) (by decide) (by decide) f0 f1 f2 wd (Option.some.inj he)
  refine ⟨lt, word_ok ((row_E0 wd (mj.trans (by decide))).trans ?_) hw⟩
  simp only [decodeE0, h0, h1, h2, r0]; rfl

theorem Sys2Proof.Laws.RoundTrip.poolack (d a : Nat) : Statement (.poolack d a) := by
  intro wd hw he
  have hf : (inU 7 d && inU 7 a) = true := hw
  simp only [Bool.and_eq_true, decide_eq_true_eq] at hf
  obtain ⟨f0, f1⟩ := hf
  obtain ⟨lt, mj, h0, h1, r0, r1⟩ := layout1 d a 3758096386 (by decide) (by decide) (by decide) f0 f1 wd (Option.some.inj he)
  refine ⟨lt, word_ok ((row_E0 wd (mj.trans (by decide))).trans ?_) hw⟩
  simp only [decodeE0, h0, h1, r0, r1]; rfl

theorem Sys2Proof.Laws.RoundTrip.poolq (d a : Nat) : Statement (.poolq d a) := by
  intro wd hw he
  have hf : (inU 7 d && inU 7 a) = true := hw
  simp only [Bool.and_eq_true, decide_eq_true_eq] at hf
  obtain ⟨f0, f1⟩ := hf
  obtain ⟨lt, mj, h0, h1, r0, r1⟩ := layout1 d a 3758096387 (by decide) (by decide) (by decide) f0 f1 wd (Option.some.inj he)
  refine ⟨lt, word_ok ((row_E0 wd (mj.trans (by decide))).trans ?_) hw⟩
  simp only [decodeE0, h0, h1, r0, r1]; rfl

theorem Sys2Proof.Laws.RoundTrip.cpy (d a b : Nat) : Statement (.cpy d a b) := by
  intro wd hw he
  have hf : (inU 7 d && inU 7 a && inU 7 b) = true := hw
  simp only [Bool.and_eq_true, decide_eq_true_eq] at hf
  obtain ⟨⟨f0, f1⟩, f2⟩ := hf
  obtain ⟨lt, mj, h0, h1, h2, r0⟩ := layout0 d a b 3892314112 (by decide) (by decide) (by decide) (by decide) f0 f1 f2 wd (Option.some.inj he)
  refine ⟨lt, word_ok ((row_E8 wd (mj.trans (by decide))).trans ?_) hw⟩
  simp only [decodeE8, h0, h1, h2, r0]; rfl

theorem Sys2Proof.Laws.RoundTrip.cpy2d (d a b : Nat) : Statement (.cpy2d d a b) := by
  intro wd hw he
  have hf : (inU 7 d && inU 7 a && inU 7 b) = true := hw
  simp only [Bool.and_eq_true, decide_eq_true_eq] at hf
  obtain ⟨⟨f0, f1⟩, f2⟩ := hf
  obtain ⟨lt, mj, h0, h1, h2, r0⟩ := layout0 d a b 3892314113 (by decide) (by decide) (by decide) (by decide) f0 f1 f2 wd (Option.some.inj he)
  refine ⟨lt, word_ok ((row_E8 wd (mj.trans (by decide))).trans ?_) hw⟩
  simp only [decodeE8, h0, h1, h2, r0]; rfl

theorem Sys2Proof.Laws.RoundTrip.cpwait (d : Nat) : Statement (.cpwait d) := by
  intro wd hw he
  have hf : (inU 7 d) = true := hw
  simp only [Bool.and_eq_true, decide_eq_true_eq] at hf
  have f0 := hf
  obtain ⟨lt, mj, h0, r0, r1⟩ := layout29 d 3892314114 (by decide) (by decide) f0 wd (Option.some.inj he)
  refine ⟨lt, word_ok ((row_E8 wd (mj.trans (by decide))).trans ?_) hw⟩
  simp only [decodeE8, h0, r0, r1]; rfl

theorem Sys2Proof.Laws.RoundTrip.rld (d a b : Nat) : Statement (.rld d a b) := by
  intro wd hw he
  have hf : (inU 7 d && inU 7 a && inU 7 b) = true := hw
  simp only [Bool.and_eq_true, decide_eq_true_eq] at hf
  obtain ⟨⟨f0, f1⟩, f2⟩ := hf
  obtain ⟨lt, mj, h0, h1, h2, r0⟩ := layout0 d a b 3909091328 (by decide) (by decide) (by decide) (by decide) f0 f1 f2 wd (Option.some.inj he)
  refine ⟨lt, word_ok ((row_E9 wd (mj.trans (by decide))).trans ?_) hw⟩
  simp only [decodeE9, h0, h1, h2, r0]; rfl

theorem Sys2Proof.Laws.RoundTrip.rst (d a b : Nat) : Statement (.rst d a b) := by
  intro wd hw he
  have hf : (inU 7 d && inU 7 a && inU 7 b) = true := hw
  simp only [Bool.and_eq_true, decide_eq_true_eq] at hf
  obtain ⟨⟨f0, f1⟩, f2⟩ := hf
  obtain ⟨lt, mj, h0, h1, h2, r0⟩ := layout0 d a b 3909091329 (by decide) (by decide) (by decide) (by decide) f0 f1 f2 wd (Option.some.inj he)
  refine ⟨lt, word_ok ((row_E9 wd (mj.trans (by decide))).trans ?_) hw⟩
  simp only [decodeE9, h0, h1, h2, r0]; rfl

theorem Sys2Proof.Laws.RoundTrip.trap (i : Nat) : Statement (.trap i) := by
  intro wd hw he
  have hf : (inU 10 i) = true := hw
  simp only [Bool.and_eq_true, decide_eq_true_eq] at hf
  have f0 := hf
  obtain ⟨lt, mj, h0, r0⟩ := layout32 i 4026531840 (by decide) (by decide) f0 wd (Option.some.inj he)
  refine ⟨lt, word_ok ((row_F0 wd (mj.trans (by decide))).trans ?_) hw⟩
  simp only [decodeF0, h0, r0]; rfl

theorem Sys2Proof.Laws.RoundTrip.tret : Statement (.tret) := by
  intro wd hw he
  have e : 4043309056 = wd := Option.some.inj he
  subst e
  exact ⟨by decide, word_ok (row_F1 _ (by decide)) hw⟩

theorem Sys2Proof.Laws.RoundTrip.csrr (d c : Nat) : Statement (.csrr d c) := by
  intro wd hw he
  have hf : (inU 7 d && inU 10 c) = true := hw
  simp only [Bool.and_eq_true, decide_eq_true_eq] at hf
  obtain ⟨f0, f1⟩ := hf
  obtain ⟨lt, mj, h0, h1, r0⟩ := layout33 d c 4060086272 (by decide) (by decide) (by decide) f0 f1 wd (Option.some.inj he)
  refine ⟨lt, word_ok ((row_F2 wd (mj.trans (by decide))).trans ?_) hw⟩
  simp only [decodeF2, h0, h1, r0]; rfl

theorem Sys2Proof.Laws.RoundTrip.csrw (a c : Nat) : Statement (.csrw a c) := by
  intro wd hw he
  have hf : (inU 7 a && inU 10 c) = true := hw
  simp only [Bool.and_eq_true, decide_eq_true_eq] at hf
  obtain ⟨f0, f1⟩ := hf
  obtain ⟨lt, mj, h0, h1, r0⟩ := layout11 a c 4076863488 (by decide) (by decide) (by decide) f0 f1 wd (Option.some.inj he)
  refine ⟨lt, word_ok ((row_F3 wd (mj.trans (by decide))).trans ?_) hw⟩
  simp only [decodeF3, h0, h1, r0]; rfl

theorem Sys2Proof.Laws.RoundTrip.csrs (a c : Nat) : Statement (.csrs a c) := by
  intro wd hw he
  have hf : (inU 7 a && inU 10 c) = true := hw
  simp only [Bool.and_eq_true, decide_eq_true_eq] at hf
  obtain ⟨f0, f1⟩ := hf
  obtain ⟨lt, mj, h0, h1, r0⟩ := layout11 a c 4093640704 (by decide) (by decide) (by decide) f0 f1 wd (Option.some.inj he)
  refine ⟨lt, word_ok ((row_F4 wd (mj.trans (by decide))).trans ?_) hw⟩
  simp only [decodeF4, h0, h1, r0]; rfl

theorem Sys2Proof.Laws.RoundTrip.csrc (a c : Nat) : Statement (.csrc a c) := by
  intro wd hw he
  have hf : (inU 7 a && inU 10 c) = true := hw
  simp only [Bool.and_eq_true, decide_eq_true_eq] at hf
  obtain ⟨f0, f1⟩ := hf
  obtain ⟨lt, mj, h0, h1, r0⟩ := layout11 a c 4110417920 (by decide) (by decide) (by decide) f0 f1 wd (Option.some.inj he)
  refine ⟨lt, word_ok ((row_F5 wd (mj.trans (by decide))).trans ?_) hw⟩
  simp only [decodeF5, h0, h1, r0]; rfl

theorem Sys2Proof.Laws.RoundTrip.ctxsv (a n : Nat) : Statement (.ctxsv a n) := by
  intro wd hw he
  have hf : (inU 7 a && inU 10 n && decide (n < 8)) = true := hw
  simp only [Bool.and_eq_true, decide_eq_true_eq] at hf
  obtain ⟨⟨f0, f1⟩, f2⟩ := hf
  obtain ⟨lt, mj, h0, h1, r0⟩ := layout11 a n 4127195136 (by decide) (by decide) (by decide) f0 f1 wd (Option.some.inj he)
  refine ⟨lt, word_ok ((row_F6 wd (mj.trans (by decide))).trans ?_) hw⟩
  simp only [decodeF6, h0, h1, r0]; rfl

theorem Sys2Proof.Laws.RoundTrip.ctxrs (a n : Nat) : Statement (.ctxrs a n) := by
  intro wd hw he
  have hf : (inU 7 a && inU 10 n && decide (n < 8)) = true := hw
  simp only [Bool.and_eq_true, decide_eq_true_eq] at hf
  obtain ⟨⟨f0, f1⟩, f2⟩ := hf
  obtain ⟨lt, mj, h0, h1, r0⟩ := layout11 a n 4143972352 (by decide) (by decide) (by decide) f0 f1 wd (Option.some.inj he)
  refine ⟨lt, word_ok ((row_F7 wd (mj.trans (by decide))).trans ?_) hw⟩
  simp only [decodeF7, h0, h1, r0]; rfl

theorem Sys2Proof.Laws.RoundTrip.fencei : Statement (.fencei) := by
  intro wd hw he
  have e : 4160749568 = wd := Option.some.inj he
  subst e
  exact ⟨by decide, word_ok (row_F8 _ (by decide)) hw⟩

theorem Sys2Proof.Laws.RoundTrip.bkpt : Statement (.bkpt) := by
  intro wd hw he
  have e : 4177526784 = wd := Option.some.inj he
  subst e
  exact ⟨by decide, word_ok (row_F9 _ (by decide)) hw⟩

theorem Sys2Proof.Laws.RoundTrip.halt : Statement (.halt) := by
  intro wd hw he
  have e : 4194304000 = wd := Option.some.inj he
  subst e
  exact ⟨by decide, word_ok (row_FA _ (by decide)) hw⟩

theorem Sys2Proof.Laws.RoundTrip.tlbinv (a b : Nat) : Statement (.tlbinv a b) := by
  intro wd hw he
  have hf : (inU 7 a && inU 7 b) = true := hw
  simp only [Bool.and_eq_true, decide_eq_true_eq] at hf
  obtain ⟨f0, f1⟩ := hf
  obtain ⟨lt, mj, h0, h1, r0, r1⟩ := layout31 a b 4211081216 (by decide) (by decide) (by decide) f0 f1 wd (Option.some.inj he)
  refine ⟨lt, word_ok ((row_FB wd (mj.trans (by decide))).trans ?_) hw⟩
  simp only [decodeFB, h0, h1, r0, r1]; rfl

theorem Sys2Proof.Laws.RoundTrip.probe (d a : Nat) : Statement (.probe d a) := by
  intro wd hw he
  have hf : (inU 7 d && inU 7 a) = true := hw
  simp only [Bool.and_eq_true, decide_eq_true_eq] at hf
  obtain ⟨f0, f1⟩ := hf
  obtain ⟨lt, mj, h0, h1, r0, r1⟩ := layout1 d a 4211081217 (by decide) (by decide) (by decide) f0 f1 wd (Option.some.inj he)
  refine ⟨lt, word_ok ((row_FB wd (mj.trans (by decide))).trans ?_) hw⟩
  have e : d * 131072 + (a * 1024 + 4211081217) = wd := Option.some.inj he
  have n0 : ¬(bits wd 2 0 = 0 ∧ bits wd 31 17 = 32128) := by show ¬(wd / 1 % 8 = 0 ∧ wd / 131072 % 32768 = 32128); omega
  have m : bits wd 9 0 = 1 := by show wd / 1 % 1024 = 1; omega
  rw [decodeFB, if_neg n0, if_pos m]
  simp only [h0, h1, r0, r1]
  rfl

theorem Sys2Proof.Laws.RoundTrip.frame (l i d a b : Nat) : Statement (.frame l i d a b) := by
  intro wd hw he
  have hf : (inU 4 l && inU 8 i && inU 4 d && inU 4 a && inU 4 b) = true := hw
  simp only [Bool.and_eq_true, decide_eq_true_eq] at hf
  obtain ⟨⟨⟨⟨f0, f1⟩, f2⟩, f3⟩, f4⟩ := hf
  obtain ⟨lt, mj, h0, h1, h2, h3, h4⟩ := layout34 l i d a b 4227858432 (by decide) (by decide) (by decide) (by decide) (by decide) (by decide) f0 f1 f2 f3 f4 wd (Option.some.inj he)
  refine ⟨lt, word_ok ((row_FC wd (mj.trans (by decide))).trans ?_) hw⟩
  simp only [decodeFC, h0, h1, h2, h3, h4]; rfl

theorem Sys2Proof.Laws.RoundTrip.ximm (h : Nat) : Statement (.ximm h) := by
  intro wd hw he
  have hf : (inU 24 h) = true := hw
  simp only [Bool.and_eq_true, decide_eq_true_eq] at hf
  have f0 := hf
  obtain ⟨lt, mj, h0⟩ := layout35 h 4261412864 (by decide) (by decide) f0 wd (Option.some.inj he)
  refine ⟨lt, word_ok ((row_FE wd (mj.trans (by decide))).trans ?_) hw⟩
  simp only [decodeFE, h0]; rfl

theorem Sys2Proof.Laws.RoundTrip.numberGrant (who : AgentId) : Statement (.numberGrant who) := by
  intro w _ he
  have he : none = some w := he
  cases he

theorem Sys2Proof.Laws.RoundTrip.screeDraw (who : AgentId) : Statement (.screeDraw who) := by
  intro w _ he
  have he : none = some w := he
  cases he

theorem Sys2Proof.Laws.RoundTrip.rerunTake (who : AgentId) : Statement (.rerunTake who) := by
  intro w _ he
  have he : none = some w := he
  cases he

theorem Sys2Proof.Laws.RoundTrip.parkedThreadReturn (who : AgentId) : Statement (.parkedThreadReturn who) := by
  intro w _ he
  have he : none = some w := he
  cases he

theorem Sys2Proof.Laws.RoundTrip.residentPlacement (die core : Nat) : Statement (.residentPlacement die core) := by
  intro w _ he
  have he : none = some w := he
  cases he

theorem Sys2Proof.Laws.RoundTrip.inlineChildStart (who : AgentId) : Statement (.inlineChildStart who) := by
  intro w _ he
  have he : none = some w := he
  cases he

theorem Sys2Proof.Laws.RoundTrip.threadEnd (who : AgentId) : Statement (.threadEnd who) := by
  intro w _ he
  have he : none = some w := he
  cases he

theorem Sys2Proof.Laws.RoundTrip.joinComplete (die core : Nat) : Statement (.joinComplete die core) := by
  intro w _ he
  have he : none = some w := he
  cases he

theorem Sys2Proof.Laws.RoundTrip.ridgeReply (who : AgentId) : Statement (.ridgeReply who) := by
  intro w _ he
  have he : none = some w := he
  cases he

theorem Sys2Proof.Laws.RoundTrip.sfuResult (die spur : Nat) : Statement (.sfuResult die spur) := by
  intro w _ he
  have he : none = some w := he
  cases he

theorem Sys2Proof.Laws.RoundTrip.loadReply (who : AgentId) : Statement (.loadReply who) := by
  intro w _ he
  have he : none = some w := he
  cases he

theorem Sys2Proof.Laws.RoundTrip.storePerform (who : AgentId) (k : Nat) : Statement (.storePerform who k) := by
  intro w _ he
  have he : none = some w := he
  cases he

theorem Sys2Proof.Laws.RoundTrip.redApply (who : AgentId) (k : Nat) : Statement (.redApply who k) := by
  intro w _ he
  have he : none = some w := he
  cases he

theorem Sys2Proof.Laws.RoundTrip.claimGrant (word : Nat) : Statement (.claimGrant word) := by
  intro w _ he
  have he : none = some w := he
  cases he

theorem Sys2Proof.Laws.RoundTrip.claimRelease (word : Nat) : Statement (.claimRelease word) := by
  intro w _ he
  have he : none = some w := he
  cases he

theorem Sys2Proof.Laws.RoundTrip.remoteAccessPerform (die spur k : Nat) : Statement (.remoteAccessPerform die spur k) := by
  intro w _ he
  have he : none = some w := he
  cases he

theorem Sys2Proof.Laws.RoundTrip.matrixOpStart (die spur gang : Nat) : Statement (.matrixOpStart die spur gang) := by
  intro w _ he
  have he : none = some w := he
  cases he

theorem Sys2Proof.Laws.RoundTrip.matrixOpComplete (die spur gang : Nat) : Statement (.matrixOpComplete die spur gang) := by
  intro w _ he
  have he : none = some w := he
  cases he

theorem Sys2Proof.Laws.RoundTrip.nzscanComplete (who : AgentId) : Statement (.nzscanComplete who) := by
  intro w _ he
  have he : none = some w := he
  cases he

theorem Sys2Proof.Laws.RoundTrip.copyCommandComplete (die spur k : Nat) : Statement (.copyCommandComplete die spur k) := by
  intro w _ he
  have he : none = some w := he
  cases he

theorem Sys2Proof.Laws.RoundTrip.gatherCommandComplete (die spur k : Nat) : Statement (.gatherCommandComplete die spur k) := by
  intro w _ he
  have he : none = some w := he
  cases he

theorem Sys2Proof.Laws.RoundTrip.engineFaultStop (die spur unit k : Nat) : Statement (.engineFaultStop die spur unit k) := by
  intro w _ he
  have he : none = some w := he
  cases he

theorem Sys2Proof.Laws.RoundTrip.aretePutReply (who : AgentId) : Statement (.aretePutReply who) := by
  intro w _ he
  have he : none = some w := he
  cases he

theorem Sys2Proof.Laws.RoundTrip.areteMergeComplete (who : AgentId) : Statement (.areteMergeComplete who) := by
  intro w _ he
  have he : none = some w := he
  cases he

theorem Sys2Proof.Laws.RoundTrip.cairnOperationComplete (who : AgentId) : Statement (.cairnOperationComplete who) := by
  intro w _ he
  have he : none = some w := he
  cases he

theorem Sys2Proof.Laws.RoundTrip.gateOperationComplete (die : Nat) : Statement (.gateOperationComplete die) := by
  intro w _ he
  have he : none = some w := he
  cases he

theorem Sys2Proof.Laws.RoundTrip.waitRecheck (who : AgentId) : Statement (.waitRecheck who) := by
  intro w _ he
  have he : none = some w := he
  cases he

theorem Sys2Proof.Laws.RoundTrip.waitWlimExpiry (who : AgentId) : Statement (.waitWlimExpiry who) := by
  intro w _ he
  have he : none = some w := he
  cases he

theorem Sys2Proof.Laws.RoundTrip.feWaitExpiry (who : AgentId) : Statement (.feWaitExpiry who) := by
  intro w _ he
  have he : none = some w := he
  cases he

theorem Sys2Proof.Laws.RoundTrip.barWlimExpiry (who : AgentId) : Statement (.barWlimExpiry who) := by
  intro w _ he
  have he : none = some w := he
  cases he

theorem Sys2Proof.Laws.RoundTrip.remoteWaitExpiry (who : AgentId) : Statement (.remoteWaitExpiry who) := by
  intro w _ he
  have he : none = some w := he
  cases he

theorem Sys2Proof.Laws.RoundTrip.gangParkExpiry (who : AgentId) : Statement (.gangParkExpiry who) := by
  intro w _ he
  have he : none = some w := he
  cases he

theorem Sys2Proof.Laws.RoundTrip.gangRecordStallExpiry (who : AgentId) : Statement (.gangRecordStallExpiry who) := by
  intro w _ he
  have he : none = some w := he
  cases he

theorem Sys2Proof.Laws.RoundTrip.governorSample (die watts : Nat) (temps : List Nat) : Statement (.governorSample die watts temps) := by
  intro w _ he
  have he : none = some w := he
  cases he

theorem Sys2Proof.Laws.RoundTrip.pageFaultService (die k choice frame : Nat) : Statement (.pageFaultService die k choice frame) := by
  intro w _ he
  have he : none = some w := he
  cases he

theorem Sys2Proof.Laws.RoundTrip.pageMoveAccept (die asid page dest frame : Nat) : Statement (.pageMoveAccept die asid page dest frame) := by
  intro w _ he
  have he : none = some w := he
  cases he

theorem Sys2Proof.Laws.RoundTrip.migrationInvalAck (k : Nat) : Statement (.migrationInvalAck k) := by
  intro w _ he
  have he : none = some w := he
  cases he

theorem Sys2Proof.Laws.RoundTrip.migrationDrainDone (k : Nat) : Statement (.migrationDrainDone k) := by
  intro w _ he
  have he : none = some w := he
  cases he

theorem Sys2Proof.Laws.RoundTrip.migrationCommit (k : Nat) : Statement (.migrationCommit k) := by
  intro w _ he
  have he : none = some w := he
  cases he

theorem Sys2Proof.Laws.RoundTrip.migrationAbort (k : Nat) : Statement (.migrationAbort k) := by
  intro w _ he
  have he : none = some w := he
  cases he

theorem Sys2Proof.Laws.RoundTrip.contextSaveComplete (die core : Nat) : Statement (.contextSaveComplete die core) := by
  intro w _ he
  have he : none = some w := he
  cases he

theorem Sys2Proof.Laws.RoundTrip.correctedError (die unit index : Nat) : Statement (.correctedError die unit index) := by
  intro w _ he
  have he : none = some w := he
  cases he

theorem Sys2Proof.Laws.RoundTrip.uncorrectableError (die unit index addr : Nat) : Statement (.uncorrectableError die unit index addr) := by
  intro w _ he
  have he : none = some w := he
  cases he

theorem Sys2Proof.Laws.RoundTrip.dieResetComplete (die : Nat) (pass : Bool) : Statement (.dieResetComplete die pass) := by
  intro w _ he
  have he : none = some w := he
  cases he

theorem Sys2Proof.Laws.RoundTrip.deviceReset (fails : BootFails) : Statement (.deviceReset fails) := by
  intro w _ he
  have he : none = some w := he
  cases he

theorem Sys2Proof.Laws.RoundTrip.qdoorWrite (die q value : Nat) : Statement (.qdoorWrite die q value) := by
  intro w _ he
  have he : none = some w := he
  cases he

theorem Sys2Proof.Laws.RoundTrip.frheadWrite (die value : Nat) : Statement (.frheadWrite die value) := by
  intro w _ he
  have he : none = some w := he
  cases he

theorem Sys2Proof.Laws.RoundTrip.bar0RegisterWrite (offset size value : Nat) : Statement (.bar0RegisterWrite offset size value) := by
  intro w _ he
  have he : none = some w := he
  cases he

theorem Sys2Proof.Laws.RoundTrip.faultRingWrite (die : Nat) : Statement (.faultRingWrite die) := by
  intro w _ he
  have he : none = some w := he
  cases he

theorem Sys2Proof.Laws.RoundTrip.launch (die q : Nat) : Statement (.launch die q) := by
  intro w _ he
  have he : none = some w := he
  cases he

theorem Sys2Proof.Laws.RoundTrip.copy (die q : Nat) : Statement (.copy die q) := by
  intro w _ he
  have he : none = some w := he
  cases he

theorem Sys2Proof.Laws.RoundTrip.copyPacketDone (die q k : Nat) : Statement (.copyPacketDone die q k) := by
  intro w _ he
  have he : none = some w := he
  cases he

theorem Sys2Proof.Laws.RoundTrip.signalSet (die q : Nat) : Statement (.signalSet die q) := by
  intro w _ he
  have he : none = some w := he
  cases he

theorem Sys2Proof.Laws.RoundTrip.signalWait (die q : Nat) : Statement (.signalWait die q) := by
  intro w _ he
  have he : none = some w := he
  cases he

theorem Sys2Proof.Laws.RoundTrip.signalWaitSatisfied (die q k : Nat) : Statement (.signalWaitSatisfied die q k) := by
  intro w _ he
  have he : none = some w := he
  cases he

theorem Sys2Proof.Laws.RoundTrip.fence (die q : Nat) : Statement (.fence die q) := by
  intro w _ he
  have he : none = some w := he
  cases he

theorem Sys2Proof.Laws.RoundTrip.complete (die q : Nat) : Statement (.complete die q) := by
  intro w _ he
  have he : none = some w := he
  cases he

theorem Sys2Proof.Laws.RoundTrip.packetFetchFault (die q : Nat) : Statement (.packetFetchFault die q) := by
  intro w _ he
  have he : none = some w := he
  cases he

theorem Sys2Proof.Laws.RoundTrip.qenable : Statement (.qenable) := by
  intro w _ he
  have he : none = some w := he
  cases he

theorem Sys2Proof.Laws.RoundTrip.qdisable : Statement (.qdisable) := by
  intro w _ he
  have he : none = some w := he
  cases he

theorem Sys2Proof.Laws.RoundTrip.qreset : Statement (.qreset) := by
  intro w _ he
  have he : none = some w := he
  cases he

theorem Sys2Proof.Laws.RoundTrip.qack : Statement (.qack) := by
  intro w _ he
  have he : none = some w := he
  cases he

theorem Sys2Proof.Laws.RoundTrip.fring : Statement (.fring) := by
  intro w _ he
  have he : none = some w := he
  cases he

theorem Sys2Proof.Laws.RoundTrip.fanswer : Statement (.fanswer) := by
  intro w _ he
  have he : none = some w := he
  cases he

theorem Sys2Proof.Laws.RoundTrip.extent : Statement (.extent) := by
  intro w _ he
  have he : none = some w := he
  cases he

theorem Sys2Proof.Laws.RoundTrip.kill : Statement (.kill) := by
  intro w _ he
  have he : none = some w := he
  cases he

theorem Sys2Proof.Laws.RoundTrip.ctxsave : Statement (.ctxsave) := by
  intro w _ he
  have he : none = some w := he
  cases he

theorem Sys2Proof.Laws.RoundTrip.ctxrestore : Statement (.ctxrestore) := by
  intro w _ he
  have he : none = some w := he
  cases he

theorem Sys2Proof.Laws.RoundTrip.setbudget : Statement (.setbudget) := by
  intro w _ he
  have he : none = some w := he
  cases he

theorem Sys2Proof.Laws.RoundTrip.setnode : Statement (.setnode) := by
  intro w _ he
  have he : none = some w := he
  cases he

theorem Sys2Proof.Laws.RoundTrip.rootset : Statement (.rootset) := by
  intro w _ he
  have he : none = some w := he
  cases he

theorem Sys2Proof.Laws.RoundTrip.inval : Statement (.inval) := by
  intro w _ he
  have he : none = some w := he
  cases he

theorem Sys2Proof.Laws.RoundTrip.errcfg : Statement (.errcfg) := by
  intro w _ he
  have he : none = some w := he
  cases he

theorem Sys2Proof.Laws.RoundTrip.occup : Statement (.occup) := by
  intro w _ he
  have he : none = some w := he
  cases he

theorem Sys2Proof.Laws.RoundTrip.update : Statement (.update) := by
  intro w _ he
  have he : none = some w := he
  cases he

theorem Sys2Proof.Laws.RoundTrip.attest : Statement (.attest) := by
  intro w _ he
  have he : none = some w := he
  cases he

theorem Sys2Proof.Laws.RoundTrip.cert : Statement (.cert) := by
  intro w _ he
  have he : none = some w := he
  cases he

theorem Sys2Proof.Laws.RoundTrip.extend : Statement (.extend) := by
  intro w _ he
  have he : none = some w := he
  cases he

theorem Sys2Proof.Laws.RoundTrip.sleep : Statement (.sleep) := by
  intro w _ he
  have he : none = some w := he
  cases he

theorem Sys2Proof.Laws.RoundTrip.wake : Statement (.wake) := by
  intro w _ he
  have he : none = some w := he
  cases he

theorem Sys2Proof.Laws.RoundTrip.linkup : Statement (.linkup) := by
  intro w _ he
  have he : none = some w := he
  cases he

theorem Sys2Proof.Laws.RoundTrip.unknownCommand : Statement (.unknownCommand) := by
  intro w _ he
  have he : none = some w := he
  cases he

theorem Sys2Proof.Laws.RoundTrip.heartbeat : Statement (.heartbeat) := by
  intro w _ he
  have he : none = some w := he
  cases he

theorem Sys2Proof.Laws.RoundTrip.failover : Statement (.failover) := by
  intro w _ he
  have he : none = some w := he
  cases he

theorem Sys2Proof.Laws.RoundTrip.journalApply : Statement (.journalApply) := by
  intro w _ he
  have he : none = some w := he
  cases he

theorem Sys2Proof.Laws.RoundTrip.updateVerified (ok : Bool) : Statement (.updateVerified ok) := by
  intro w _ he
  have he : none = some w := he
  cases he

theorem Sys2Proof.Laws.RoundTrip.stateTableImport (version minver : Nat) : Statement (.stateTableImport version minver) := by
  intro w _ he
  have he : none = some w := he
  cases he

theorem Sys2Proof.Laws.RoundTrip.journalSynced : Statement (.journalSynced) := by
  intro w _ he
  have he : none = some w := he
  cases he

theorem Sys2Proof.Laws.RoundTrip.quiescenceTakeover : Statement (.quiescenceTakeover) := by
  intro w _ he
  have he : none = some w := he
  cases he

theorem Sys2Proof.Laws.RoundTrip.quiesceTimeout : Statement (.quiesceTimeout) := by
  intro w _ he
  have he : none = some w := he
  cases he

theorem Sys2Proof.Laws.RoundTrip.dataFlit (link : Nat) (send : Bool) (flit : List Byte) : Statement (.dataFlit link send flit) := by
  intro w _ he
  have he : none = some w := he
  cases he

theorem Sys2Proof.Laws.RoundTrip.nakFlit (link : Nat) (flit : List Byte) : Statement (.nakFlit link flit) := by
  intro w _ he
  have he : none = some w := he
  cases he

theorem Sys2Proof.Laws.RoundTrip.idleFlit (link : Nat) (flit : List Byte) : Statement (.idleFlit link flit) := by
  intro w _ he
  have he : none = some w := he
  cases he

theorem Sys2Proof.Laws.RoundTrip.replayTimeout (link : Nat) : Statement (.replayTimeout link) := by
  intro w _ he
  have he : none = some w := he
  cases he

theorem Sys2Proof.Laws.RoundTrip.replayLimit (link : Nat) : Statement (.replayLimit link) := by
  intro w _ he
  have he : none = some w := he
  cases he

theorem Sys2Proof.Laws.RoundTrip.linkTrainingDone (link width : Nat) : Statement (.linkTrainingDone link width) := by
  intro w _ he
  have he : none = some w := he
  cases he

theorem Sys2Proof.Laws.RoundTrip.linkRequest (src seq kind fn w addr y expect : Nat) : Statement (.linkRequest src seq kind fn w addr y expect) := by
  intro w _ he
  have he : none = some w := he
  cases he

theorem Sys2Proof.Laws.RoundTrip.hostWrite (addr : Nat) (data : List Byte) : Statement (.hostWrite addr data) := by
  intro w _ he
  have he : none = some w := he
  cases he

theorem Sys2Proof.Laws.RoundTrip.hostRead (bar : Bool) (addr len : Nat) : Statement (.hostRead bar addr len) := by
  intro w _ he
  have he : none = some w := he
  cases he

theorem Sys2Proof.Laws.RoundTrip.powerOn (fails : BootFails) : Statement (.powerOn fails) := by
  intro w _ he
  have he : none = some w := he
  cases he

theorem Sys2Proof.Laws.RoundTrip.idleTimeout : Statement (.idleTimeout) := by
  intro w _ he
  have he : none = some w := he
  cases he

theorem Sys2Proof.Laws.RoundTrip.d3hotEntry : Statement (.d3hotEntry) := by
  intro w _ he
  have he : none = some w := he
  cases he

theorem Sys2Proof.Laws.RoundTrip.d0Return : Statement (.d0Return) := by
  intro w _ he
  have he : none = some w := he
  cases he

theorem Sys2Proof.Laws.RoundTrip.powerOff : Statement (.powerOff) := by
  intro w _ he
  have he : none = some w := he
  cases he

theorem Sys2Proof.Laws.RoundTrip.cairnAtomicStep (who : AgentId) : Statement (.cairnAtomicStep who) := by
  intro w _ he
  have he : none = some w := he
  cases he

theorem Sys2Proof.Laws.RoundTrip.areteCommandReply (who : AgentId) : Statement (.areteCommandReply who) := by
  intro w _ he
  have he : none = some w := he
  cases he

theorem Sys2Proof.Laws.RoundTrip.sfuRequestAccept (die spur : Nat) : Statement (.sfuRequestAccept die spur) := by
  intro w _ he
  have he : none = some w := he
  cases he

theorem Sys2Proof.Laws.RoundTrip.firmwareComplexFailure (standby : Bool) : Statement (.firmwareComplexFailure standby) := by
  intro w _ he
  have he : none = some w := he
  cases he

theorem Sys2Proof.Laws.RoundTrip.saddleFirmwareRecovery (link : Nat) : Statement (.saddleFirmwareRecovery link) := by
  intro w _ he
  have he : none = some w := he
  cases he

end
end

