-- ==== Sys2Proof/Safety.lean ====
section
/-! DEFINITION. What the statements about this machine say in common: when an instruction may run, what stands unchanged, and
the invariants. -/

namespace Sys2Proof.Machine

/-! ### When an instruction runs -/

/-- R44: where an instruction of a place may execute. -/
def Where.allows : Where → AgentId → Prop
  | .tm, _ => True
  | .t, a => isSlot a = true
  | .m, a => isMaster a = true
  | .p, a => isService a = true

/-- An instruction of a place with these register fields executes normally at a state: its place allows the agent (R44);
each group lies in one class (R36); a thread writes no g register (R27, R28) and names none beyond its window (R27); no
source is poisoned (R375); and no Ridge result is still on its way to a register it names (R287). -/
structure Ready (w : Where) (os : List Opd) (s : State) : Prop where
  place : w.allows s.cur
  groups : ∀ o ∈ os, o.badGroup = false
  own : isSlot s.cur = true → ∀ o ∈ os, o.writesG = false ∧ o.groupG = false
  window : isSlot s.cur = true → ∀ o ∈ os, ∀ n ∈ o.regs, n < 96 → n < s.ctx.window
  sound : ∀ o ∈ os, ∀ n ∈ o.reads, n ∉ s.ctx.poison
  quiet : ∀ o ∈ os, ∀ n ∈ o.regs, ∀ p ∈ s.me.ridge, p.1 ≠ n

/-! ### What an instruction leaves -/

/-- An instruction has written a scalar register, with a taint, and completed. -/
def State.doneS (s : State) (d : Nat) (v : Word) (t : Bool) : State := retire (s.setCtx (s.ctx.ws d v t))

/-- An instruction has written a predicate and completed. -/
def State.doneQ (s : State) (q : Nat) (b : Bool) : State := retire (s.setCtx (s.ctx.wq q b))

/-- An instruction has written a vector register and completed. -/
def State.doneV (s : State) (d : Nat) (v : BitVec 128) : State := retire (s.setCtx (s.ctx.wv d v))

/-- A context whose floating-point instruction raised flags that trap nothing, SRSEED advanced when it used the mode RS (R76, R79). -/
def Ctx.rounded (c : Ctx) (fl : Flags) (rs : Bool) : Ctx :=
  { c with fcsr := fcsrRaise c.fcsr fl, srseed := if rs then advanceSeed c.srseed else c.srseed }

/-- A floating-point instruction completed (R79, R80): its flags raised, its result written by `w`. -/
def State.floated (s : State) (fl : Flags) (rs : Bool) (w : Ctx → Ctx) : State := retire (s.setCtx (w (s.ctx.rounded fl rs)))

/-- 2^q as a rational. -/
def pow2 (q : Int) : Rat := if 0 ≤ q then ((2 ^ q.toNat : Nat) : Rat) else 1 / ((2 ^ (-q).toNat : Nat) : Rat)

/-- The number that a finite value stands for (R65). -/
def FVal.rat : FVal → Rat
  | .fin n m e => (if n then -1 else 1) * ((m : Rat) * pow2 e)
  | _ => 0

/-- R73 and R75: whether a magnitude strictly between k and k + 1 units goes up to k + 1, in a rounding mode, for a sign and a draw; `lt y`
and `le y` say that y units lie below the magnitude, and not above it. -/
def RoundsUp (rm u : Nat) (neg : Bool) (k : Nat) (lt le : Rat → Prop) : Prop :=
  match rm with
  | 0 => lt (k + 1 / 2) ∨ (le (k + 1 / 2) ∧ k % 2 = 1)
  | 1 => False
  | 2 => neg = false
  | 3 => neg = true
  | 4 => le (k + 1 / 2)
  | _ => lt (k + (u : Rat) / ((2 ^ 32 : Nat) : Rat))

/-- The rounding of one exact magnitude to a format (R73 to R75, R79, R81), the magnitude given by the rationals below it and the rationals
not above it: cut at the unit of its place, or of the least subnormal, it is returned whole where it is a number of units and else goes to a
neighbour by the mode; a neighbour beyond the largest finite magnitude overflows; a subnormal one is flushed under FTZ; the flags follow
from the delivered value. -/
def RoundsTo (f : Fmt) (v : FEnv) (u : Nat) (neg : Bool) (lt le : Rat → Prop) (r : Nat × Flags) : Prop :=
  ∃ (k : Nat) (q : Int) (up : Bool),
    f.qmin ≤ q ∧ k < 2 ^ (f.mw + 1) ∧ (q = f.qmin ∨ 2 ^ f.mw ≤ k) ∧ le (k * pow2 q) ∧ ¬ le ((k + 1) * pow2 q) ∧
    (up = true ↔ lt (k * pow2 q) ∧ RoundsUp v.rm u neg k (fun y => lt (y * pow2 q)) fun y => le (y * pow2 q)) ∧
    let y : Rat := (if up then k + 1 else k) * pow2 q
    let top := (f.read f.maxEnc).rat
    let least := pow2 (f.qmin + (f.mw : Int))
    (top < y →
      let away := v.rm = 0 ∨ v.rm = 4 ∨ v.rm = 5 ∨ (v.rm = 2 ∧ neg = false) ∨ (v.rm = 3 ∧ neg = true)
      r.2 = flagOF ||| flagNX ∧
      (¬ away → r.1 = f.signBit neg + f.maxEnc) ∧
      (away → f.kind = .e4m3 → r.1 = if v.sat8 then f.signBit neg + f.maxEnc else f.nan) ∧
      (away → f.kind = .ieee → r.1 = if f = e5m2 ∧ v.sat8 = true then f.signBit neg + f.maxEnc else f.inf neg)) ∧
    (y ≤ top →
      (v.ftz = true → 8 < f.width → 0 < y → y < least → r = (f.signBit neg, flagUF ||| flagNX)) ∧
      (¬ (v.ftz = true ∧ 8 < f.width ∧ 0 < y ∧ y < least) →
        (∃ m e, f.read r.1 = .fin neg m e ∧ (m : Rat) * pow2 e = y) ∧ r.1 < 2 ^ f.width ∧
        (¬ lt (k * pow2 q) → r.2 = 0) ∧
        (lt (k * pow2 q) → (0 < y ∧ y < least → r.2 = flagUF ||| flagNX) ∧ (¬ (0 < y ∧ y < least) → r.2 = flagNX))))

/-- The same for a rational magnitude. -/
def RoundsRat (f : Fmt) (v : FEnv) (u : Nat) (neg : Bool) (x : Rat) (r : Nat × Flags) : Prop :=
  RoundsTo f v u neg (· < x) (· ≤ x) r

/-- What a floating-point instruction with a result and flags does from a state (R79, R80): where none of its flags is enabled it
completes; else it traps FPE with all of them in TVAL and nothing else changed. -/
def State.Floats (s : State) (o : Out) (fl : Flags) (rs : Bool) (w : Ctx → Ctx) : Prop :=
  (fl &&& fcsrEnables s.ctx.fcsr = 0 → o = .next (s.floated fl rs w)) ∧
  (fl &&& fcsrEnables s.ctx.fcsr ≠ 0 → o = .next (takeTrap s ⟨cFPE, fl.zeroExtend 64⟩))

/-- The state in which an event acts for an agent: the agent's turn, the instruction it waits at in its place in memory (R38, R40),
its accesses performed at once. -/
def State.turn (s : State) (who : AgentId) : State :=
  { s with cur := who, mode := (s.agent who).wmode, defer := false }

/-! ### Shapes of instructions -/

/-- An instruction with two scalar sources: it writes a value that the relation allows, with the OR of their taints (R95), and
completes. -/
def Computes2 (c : Nat → Nat → Nat → Instr) (rel : Word → Word → Word → Prop) : Prop :=
  ∀ (d a b : Nat) (s : State), Ready .tm [.w d, .r a, .r b] s →
    ∃ r, rel (s.ctx.rs a) (s.ctx.rs b) r ∧
      exec (c d a b) s = .next (s.doneS d r (s.ctx.tainted a || s.ctx.tainted b))

/-- An instruction with one scalar source, in the same way. -/
def Computes1 (c : Nat → Nat → Instr) (rel : Word → Word → Prop) : Prop :=
  ∀ (d a : Nat) (s : State), Ready .tm [.w d, .r a] s →
    ∃ r, rel (s.ctx.rs a) r ∧ exec (c d a) s = .next (s.doneS d r (s.ctx.tainted a))

/-- An instruction that writes a predicate from a condition on two scalar registers, and completes. -/
def Compares (c : Nat → Nat → Nat → Instr) (cond : Word → Word → Prop) : Prop :=
  ∀ (q a b : Nat) (s : State), Ready .tm [.r a, .r b] s →
    ∃ t, (t = true ↔ cond (s.ctx.rs a) (s.ctx.rs b)) ∧ exec (c q a b) s = .next (s.doneQ q t)

/-- One that compares a scalar register with a sign-extended immediate. -/
def ComparesImm (c : Nat → Nat → Int → Instr) (cond : Word → Word → Prop) : Prop :=
  ∀ (q a : Nat) (i : Int) (s : State), Ready .tm [.r a] s →
    ∃ t, (t = true ↔ cond (s.ctx.rs a) (BitVec.ofInt 64 i)) ∧ exec (c q a i) s = .next (s.doneQ q t)

/-- An operation on predicates. -/
def Combines (c : Nat → Nat → Nat → Instr) (op : Bool → Bool → Bool) : Prop :=
  ∀ (d a b : Nat) (s : State), Ready .tm [] s →
    exec (c d a b) s = .next (s.doneQ d (op (s.ctx.q a) (s.ctx.q b)))

/-- A scalar floating-point instruction of two sources, its format by `t` (R94, R113), with the exact operation `f` of the
format, the environment, the draw and the operands; `rounds` for one that uses FCSR.RM. -/
def Floats2 (c : Nat → Nat → Nat → Nat → Instr) (rounds : Bool)
    (f : Fmt → FEnv → Nat → Nat → Nat → Nat × Flags) : Prop :=
  ∀ (t d a b : Nat) (s : State), Ready .tm [.w d, .r a, .r b] s →
    let g := typeFmt t
    let v := fenvOf s 7
    let r := f g v (v.draw 0 0) ((s.ctx.rs a).toNat % 2 ^ g.width) ((s.ctx.rs b).toNat % 2 ^ g.width)
    s.Floats (exec (c t d a b) s) r.2 (rounds && v.rm == 5) fun x => x.ws d (BitVec.ofNat 64 r.1) false

/-- A scalar floating-point comparison to a predicate (R118). -/
def FloatCompares (c : Nat → Nat → Nat → Nat → Instr) (cond : Nat) : Prop :=
  ∀ (t q a b : Nat) (s : State), Ready .tm [.r a, .r b] s →
    let g := typeFmt t
    let r := fCompare g (fcsrFtz s.ctx.fcsr) cond ((s.ctx.rs a).toNat % 2 ^ g.width) ((s.ctx.rs b).toNat % 2 ^ g.width)
    s.Floats (exec (c t q a b) s) r.2 false fun x => x.wq q r.1

/-- Lane i of a vector, lanes of w bits, lowest first (R123). -/
def laneOf (w : Nat) (v : BitVec 128) (i : Nat) : BitVec w := v.extractLsb' (i * w) w

/-- A vector instruction of two sources whose lanes do not interact: with its mask true it writes the one vector whose lanes
the relation allows, and completes (R123). -/
def LaneWise (c : Nat → Nat → Nat → Nat → Nat → Instr)
    (rel : (w : Nat) → BitVec w → BitVec w → BitVec w → Prop) : Prop :=
  ∀ (d a b m l : Nat) (s : State), s.ctx.q m = true → Ready .tm [.vw d, .vr a, .vr b] s →
    let w := 128 / laneCount l
    ∃ v : BitVec 128, (∀ i < laneCount l, rel w (laneOf w (s.ctx.rv a) i) (laneOf w (s.ctx.rv b) i) (laneOf w v i)) ∧
      exec (c d a b m l) s = .next (s.doneV d v)

/-- A vector floating-point instruction of two sources: each lane's operation rounded once in FCSR.RM with its own draw, the
flags the union of the lanes' (R123, R128). -/
def LaneFloats (c : Nat → Nat → Nat → Nat → Nat → Instr) (rounds : Bool)
    (f : Fmt → FEnv → Nat → Nat → Nat → Nat × Flags) : Prop :=
  ∀ (d a b m l : Nat) (s : State), s.ctx.q m = true → Ready .tm [.vw d, .vr a, .vr b] s →
    let w := 128 / laneCount l
    let v := fenvOf s 7
    let r (i : Nat) := f (laneFmt l) v (v.draw 0 i) (laneOf w (s.ctx.rv a) i).toNat (laneOf w (s.ctx.rv b) i).toNat
    let rs := (List.range (laneCount l)).map r
    s.Floats (exec (c d a b m l) s) (unionFlags (rs.map (·.2))) (rounds && v.rm == 5) fun x => x.wv d (packLanes w (rs.map (·.1)))

/-- The reduction of integer lanes to the lowest lane of the destination, the rest zero (R133). -/
def Reduces (c : Nat → Nat → Nat → Nat → Instr) (rel : (w : Nat) → List (BitVec w) → BitVec w → Prop) : Prop :=
  ∀ (d a m l : Nat) (s : State), intLane l = true → s.ctx.q m = true → Ready .tm [.vw d, .vr a] s →
    let w := 128 / laneCount l
    ∃ r : BitVec w, rel w ((List.range (laneCount l)).map (laneOf w (s.ctx.rv a))) r ∧
      exec (c d a m l) s = .next (s.floated 0 false fun x => x.wv d (BitVec.ofNat 128 r.toNat))

/-- The reduction of floating-point lanes, by a tree with flags (R133, R134). -/
def ReducesFloat (c : Nat → Nat → Nat → Nat → Instr) (f : Nat → FEnv → List Nat → Nat × Flags) : Prop :=
  ∀ (d a m l : Nat) (s : State), fpLane l = true → s.ctx.q m = true → Ready .tm [.vw d, .vr a] s →
    let w := 128 / laneCount l
    let r := f l (fenvOf s 7) ((List.range (laneCount l)).map fun i => (laneOf w (s.ctx.rv a) i).toNat)
    s.Floats (exec (c d a m l) s) r.2 false fun x => x.wv d (packLanes w [r.1])

/-- The executing agent's special function is answered at once: a master's own unit answers, and so does a spur's where no request stands
before it and the request is not left outstanding (DESIGN CHOICE, log 1). -/
def SfuFree (s : State) : Prop :=
  isSlot s.cur = false ∨
    ((s.spur s.mySpurKey).sfu = [] ∧ (s.spur s.mySpurKey).sfuRun = [] ∧ s.defer = false)

/-- A thread's special function joins its spur's queue of 32, which is in age order (R311): one stands before it, or its move leaves it
outstanding (DESIGN CHOICE, log 1). -/
def SfuQueues (s : State) : Prop :=
  isSlot s.cur = true ∧ (s.spur s.mySpurKey).sfu.length < 32 ∧
    (s.defer = true ∨ (s.spur s.mySpurKey).sfu ≠ [] ∨ (s.spur s.mySpurKey).sfuRun ≠ [])

/-- The slot parks at its request, which stands last in the spur's queue (R311). -/
def State.sfuQueued (s : State) (r : SfuReq) : State :=
  let p := s.spur s.mySpurKey
  let u := s.setSpur s.mySpurKey { p with sfu := p.sfu ++ [r] }
  u.setMe { u.me with wait := .sfu, wmode := u.mode }

/-- SFN of a scalar: answered at once, or its request joins the spur's queue and the slot waits for its token (R311). -/
def SpecialScalar (c : Nat → Nat → Nat → Instr) (fn : Nat) : Prop :=
  ∀ (d a t : Nat) (s : State), Ready .tm [.w d, .r a] s →
    let g := sfnFmt t
    let r := sfn fn g (fcsrFtz s.ctx.fcsr) ((s.ctx.rs a).toNat % 2 ^ g.width)
    (SfuFree s → s.Floats (exec (c d a t) s) r.2 false fun x => x.ws d ((BitVec.ofNat 128 r.1).extractLsb' 0 64) false) ∧
    (SfuQueues s → exec (c d a t) s = .next (s.sfuQueued ⟨s.cur, d, false, BitVec.ofNat 128 r.1, r.2, []⟩))

/-- VSFN in the same way: every lane in one request (R122). -/
def SpecialVector (c : Nat → Nat → Nat → Nat → Instr) (fn : Nat) : Prop :=
  ∀ (d a m l : Nat) (s : State), s.ctx.q m = true → Ready .tm [.vw d, .vr a] s →
    let w := 128 / laneCount l
    let rs := (List.range (laneCount l)).map fun i =>
      sfn fn (laneFmt l) (fcsrFtz s.ctx.fcsr) (laneOf w (s.ctx.rv a) i).toNat
    let v := packLanes w (rs.map (·.1))
    let fl := unionFlags (rs.map (·.2))
    (SfuFree s → s.Floats (exec (c d a m l) s) fl false fun x => x.wv d v) ∧
    (SfuQueues s → exec (c d a m l) s = .next (s.sfuQueued ⟨s.cur, d, true, v, fl, []⟩))

/-- The issue of a slot whose token cell holds a result (R311): the token leaves its cell, and the instruction it waited at completes, or
traps FPE, with what the token carries. -/
def TokenIssues : Prop :=
  ∀ (s : State) (k : SfuReq), tokenOf s s.cur = some k → k.bad = [] →
    State.Floats { dropToken s s.cur with mode := s.me.wmode } (issueNow s) k.fl false fun x =>
      if k.vector then x.wv k.d k.val else x.ws k.d (k.val.extractLsb' 0 64) false

/-! ### Accesses to memory -/

/-- The translation of n bytes from an address for an access of the executing agent (R338 to R343): it succeeds with these
entries and physical keys, leaves the TLBs as `u` has them, and gives the same from there. -/
def Translated (nd : Need) (va n : Nat) (s : State) (es : List (Nat × Nat)) (u : State) : Prop :=
  ((span va n).mapM fun a => transE nd (a % 2 ^ 56)).run s = .ok (es, u) ∧
  ((span va n).mapM fun a => transE nd (a % 2 ^ 56)).run u = .ok (es, u)

/-- Nothing stands in the way of an access to these bytes: no line is poisoned (R374) or owned by an engine (R208), no byte lies in a
spill area of Arete (R179). -/
def Clear (s : State) (keys : List Nat) : Prop :=
  ∀ k ∈ keys, s.poisoned k = false ∧ s.ownedLine k = false ∧ s.spillKey k = false

/-- The executing agent has no outstanding access to these bytes (R195). -/
def Unshared (s : State) (keys : List Nat) : Prop := ∀ p ∈ s.me.pend, overlaps p keys = false

/-- The executing agent's link port can take a request to these entries' homes: one that crosses a link waits while 32 of its
source are unacknowledged towards a home slice (R238). -/
def Sendable (s : State) (es : List (Nat × Nat)) : Prop :=
  let homes := (es.map fun e => homeOf e.1 e.2).eraseDups
  crosses s.cur homes = true → unacked s (dieOf s.cur) (linkQueue s.cur) homes (es.map (·.2)) < 32

/-- A load of the executing agent sees no line that it holds against the page's attributes or that an error has struck: a master's L1
has no line of a page with STREAM (R206), a word of the spur's RDC is not poisoned (R374). -/
def Sound (s : State) (es : List (Nat × Nat)) : Prop :=
  (∀ e ∈ es, pteStream e.1 = true → staleL1 s [e.2] = false) ∧
  (isSlot s.cur = true → ∀ x ∈ (s.spur s.mySpurKey).rdc, x.bad = [])

/-- An access by the executing agent that is performed at once: its lines clear, no earlier access of the agent to the bytes
outstanding, no claim of their words granted or queued (R233), every home reached (R239) and ready for a request (R238), and the
move that issues it does not leave it outstanding (log 1). -/
structure AtOnce (s : State) (es : List (Nat × Nat)) : Prop where
  clear : Clear s (es.map (·.2))
  unshared : Unshared s (es.map (·.2))
  unclaimed : claimedWord s (es.map (·.2)) = false
  reached : ∀ e ∈ es, s.reach (homeOf e.1 e.2) = true
  sendable : Sendable s es
  now : s.defer = false

/-- The side-effect bit of a thread set (R221); a master has none. -/
def State.sided (s : State) : Ctx := if isSlot s.cur then { s.ctx with side := true } else s.ctx

/-- A byte as a load of the executing agent sees it (R193, R207): in an RO_SPAWN page of an outstanding spawn from the spur's
RDC where it holds the line, else the agent's own latest outstanding store of it, else memory. -/
def State.sees (s : State) (ro : Bool) (k : Nat) : Byte :=
  let p := s.spur s.mySpurKey
  if isSlot s.cur = true ∧ ro = true ∧ s.myProg.spawning = true ∧ 0 < p.size .rdc then
    match p.rdc.find? fun x => x.line == k / 64 with
    | some x => x.bytes.getD (k % 64) 0
    | none => memGet s.mem k
  else loadByte s k

/-- A load (R222 to R224): it takes the effective address, its bytes little-endian and extended, and the taint of LDC; the
memory is as it was. A load that the move leaves outstanding waits for its reply, the slot out of the rotation (R221). -/
def Loads (c : Nat → Nat → Int → Instr) (size : Nat) (signed taint aligned : Bool) : Prop :=
  ∀ (d a : Nat) (i : Int) (s : State) (es : List (Nat × Nat)) (u : State), Ready .tm [.w d, .r a] s →
    let ea := s.ctx.rs a + BitVec.ofInt 64 (i * size)
    let va := ea.toNat % 2 ^ 56
    (aligned = true → va % size = 0) → Translated .read va size s es u → Clear u (es.map (·.2)) → Sound u es →
    let n := leNat ((es.map (·.2)).map (u.sees (es.all fun e => pteRoSpawn e.1)))
    let v := if signed then (BitVec.ofNat (8 * size) n).signExtend 64 else BitVec.ofNat 64 n
    (s.defer = false → redPending u.me (es.map (·.2)) = false →
      ∃ t, exec (c d a i) s = .next t ∧ t.ctx = (s.doneS d v taint).ctx ∧ t.me.wait = .none ∧ t.mem = s.mem ∧
        t.full = s.full) ∧
    (s.defer = true →
      exec (c d a i) s = .next (u.setMe { u.me with wait := .load ⟨ea, size, signed, d, taint, false⟩, wmode := u.mode }))

/-- A store (R222 to R224) of the low bytes of s[d]: performed at once, it changes those bytes of memory alone; else it stays
outstanding behind the agent's earlier ones. -/
def Stores (c : Nat → Nat → Int → Instr) (size : Nat) (aligned : Bool) : Prop :=
  ∀ (d a : Nat) (i : Int) (s : State) (es : List (Nat × Nat)) (u : State), Ready .tm [.r d, .r a] s →
    let va := (s.ctx.rs a + BitVec.ofInt 64 (i * size)).toNat % 2 ^ 56
    let bytes := leBytes size (s.ctx.rs d).toNat
    let keys := es.map (·.2)
    (aligned = true → va % size = 0) → Translated .write va size s es u → Clear u keys → pendStores s.me < 32 →
    (AtOnce u es →
      ∃ t, exec (c d a i) s = .next t ∧ t.mem = memSets s.mem keys bytes ∧ t.ctx = (retire (s.setCtx s.sided)).ctx ∧
        t.me.pend = s.me.pend ∧ t.full = s.full) ∧
    (s.defer = true → claimedWord u keys = false → Sendable u es →
      ∃ t p, exec (c d a i) s = .next t ∧ t.mem = s.mem ∧ t.ctx = (retire (s.setCtx s.sided)).ctx ∧
        t.me.pend = s.me.pend ++ [p] ∧ p.kind = .store bytes ∧ p.keys = keys)

/-- A returning atomic (R232), performed at once or queued for the claim of its word (R233; which of the two, log 1): `rel` relates the old word, the
operand, the expected value (a CAS reads s[d]) and the new word. -/
def Atomics (c : Nat → Nat → Nat → Instr) (w : Nat) (cas : Bool) (rel : BitVec w → BitVec w → BitVec w → BitVec w → Prop) :
    Prop :=
  ∀ (d a b : Nat) (s : State) (es : List (Nat × Nat)) (u : State),
    Ready .tm [if cas then .rw d else .w d, .r a, .r b] s →
    let ea := s.ctx.rs a
    let va := ea.toNat % 2 ^ 56
    let keys := es.map (·.2)
    va % (w / 8) = 0 → Translated .atomic va (w / 8) s es u → (∀ k ∈ keys, keySpace k ≠ 1) →
    let old : BitVec w := BitVec.ofNat w (leNat (memGets s.mem keys))
    (AtOnce u es →
      ∃ t new, rel old ((s.ctx.rs b).setWidth w) ((s.ctx.rs d).setWidth w) new ∧ exec (c d a b) s = .next t ∧
        t.mem = memSets s.mem keys (leBytes (w / 8) new.toNat) ∧
        t.ctx = (retire (s.setCtx (s.sided.ws d (old.signExtend 64) false))).ctx ∧ t.full = s.full) ∧
    (Clear u keys → Unshared u keys → Sendable u es → s.defer = true ∨ claimedWord u keys = true →
      ∃ t r, exec (c d a b) s = .next t ∧ t.me.wait = .claim r ∧ t.mem = s.mem ∧
        tabGet t.claims (keys.headD 0 / 8) [] = tabGet s.claims (keys.headD 0 / 8) [] ++ [.amo s.cur])

/-- A reduction (R235) of width code `w`, sent to the home: at once it leaves the new word there and no register changes. -/
def Reductions (c : Nat → Nat → Nat → Instr) (w n : Nat) (rel : BitVec n → BitVec n → BitVec n → Prop) : Prop :=
  ∀ (a b : Nat) (s : State) (es : List (Nat × Nat)) (u : State), Ready .tm [.r a, .r b] s →
    let va := (s.ctx.rs a).toNat % 2 ^ 56
    let keys := es.map (·.2)
    va % (n / 8) = 0 → Translated .red va (n / 8) s es u → (∀ k ∈ keys, keySpace k ≠ 1) → pendReds s.me < 16 →
    let old : BitVec n := BitVec.ofNat n (leNat (memGets s.mem keys))
    (AtOnce u es →
      ∃ t new, rel old ((s.ctx.rs b).setWidth n) new ∧ exec (c a b w) s = .next t ∧
        t.mem = memSets s.mem keys (leBytes (n / 8) new.toNat) ∧ t.ctx = (retire (s.setCtx s.sided)).ctx ∧
        t.full = s.full) ∧
    (Clear u keys → s.defer = true → claimedWord u keys = false → Sendable u es →
      ∃ t p, exec (c a b w) s = .next t ∧ t.mem = s.mem ∧ t.ctx = (retire (s.setCtx s.sided)).ctx ∧
        t.me.pend = s.me.pend ++ [p] ∧ p.keys = keys)

/-- A byte's address that an entry of the die's TLB, or of a spur's, maps for the executing agent's program, with every
permission the access needs (R342, R343): its entry and its physical key. -/
def HitsFor (spur : Option Nat) (nd : Need) (va : Nat) (s : State) (e key : Nat) : Prop :=
  isService s.cur = false ∧ va < 2 ^ 48 ∧
  (∃ t, tlbFind s (dieOf s.cur) spur s.myProg.asid va = some t ∧ t.entry = e ∧ key = leafKey e t.size va) ∧
  permits nd e = true ∧ (nd.writes && pteRoSpawn e && s.myProg.spawning) = false ∧
  (nd.deferred = true ∨ s.reach (homeOf e key) = true)

/-- The same for an access of the agent itself. -/
def Hits (nd : Need) (va : Nat) (s : State) (e key : Nat) : Prop := HitsFor (tlbSpur s.cur) nd va s e key

/-- The bytes that n addresses from `va` show a load of the executing agent: mapped by its TLBs, their lines clear, no
reduction of its own outstanding there, no RO_SPAWN page of an outstanding spawn that an RDC may hold, no STREAM page that a
master's L1 may hold. -/
def ReadsAs (s : State) (va n : Nat) (bs : List Byte) : Prop :=
  ∃ es : List (Nat × Nat), es.length = n ∧ (∀ i e, es[i]? = some e → Hits .read ((va + i) % 2 ^ 56) s e.1 e.2) ∧
    Clear s (es.map (·.2)) ∧ redPending s.me (es.map (·.2)) = false ∧
    (isSlot s.cur = false ∨ s.myProg.spawning = false ∨ ∀ e ∈ es, pteRoSpawn e.1 = false) ∧
    (isMaster s.cur = true → ∀ e ∈ es, pteStream e.1 = false) ∧ bs = (es.map (·.2)).map (loadByte s)

/-- The physical keys that n addresses from `va` name for a store of the executing agent performed at once. -/
def StoresAt (s : State) (va n : Nat) (keys : List Nat) : Prop :=
  ∃ es : List (Nat × Nat), es.length = n ∧ (∀ i e, es[i]? = some e → Hits .write ((va + i) % 2 ^ 56) s e.1 e.2) ∧
    AtOnce s es ∧ keys = es.map (·.2)

/-- The physical keys that n addresses from `va` name for an engine of a spur, or for a unit of the die, every home reached. -/
def KeysFor (spur : Option Nat) (nd : Need) (s : State) (va n : Nat) (keys : List Nat) : Prop :=
  ∃ es : List (Nat × Nat), es.length = n ∧ keys = es.map (·.2) ∧
    ∀ i e, es[i]? = some e → HitsFor spur nd ((va + i) % 2 ^ 56) s e.1 e.2 ∧ s.reach (homeOf e.1 e.2) = true

/-- The physical keys for an engine of the executing thread. -/
def EngKeys (nd : Need) (s : State) (va n : Nat) (keys : List Nat) : Prop := KeysFor (tlbSpur s.cur) nd s va n keys

/-- The physical keys of a destination that an engine of a spur, or a unit of the die, takes for its own (R208): mapped, every home reached, no
claim of their words granted or queued (R233). -/
def WritesFor (spur : Option Nat) (s : State) (va n : Nat) (keys : List Nat) : Prop :=
  KeysFor spur .write s va n keys ∧ (∀ k ∈ keys, s.reach (s.homeOfKey k) = true) ∧ claimedWord s keys = false

/-- The bytes that n addresses from `va` give an engine of a spur, or a unit of the die. -/
def BytesFor (spur : Option Nat) (s : State) (va n : Nat) (bs : List Byte) : Prop :=
  ∃ keys, KeysFor spur .read s va n keys ∧ (∀ k ∈ keys, s.poisoned k = false ∧ s.spillKey k = false) ∧ bs = memGets s.mem keys

/-- The bytes for an engine of the executing thread. -/
def EngReads (s : State) (va n : Nat) (bs : List Byte) : Prop := BytesFor (tlbSpur s.cur) s va n bs

/-- The physical keys that n addresses from `va` name for the command processor of a die in an address space: mapped by the
die's TLB, every home reached. -/
def QueueKeys (s : State) (d asid : Nat) (nd : Need) (va n : Nat) (keys : List Nat) : Prop :=
  ∃ es : List (Nat × Nat), es.length = n ∧ keys = es.map (·.2) ∧ ∀ i e, es[i]? = some e →
    let x := (va + i) % 2 ^ 56
    x < 2 ^ 48 ∧ (∃ t, tlbFind s d none asid x = some t ∧ t.entry = e.1 ∧ e.2 = leafKey e.1 t.size x) ∧ permits nd e.1 = true ∧
      s.reach (homeOf e.1 e.2) = true

/-- The physical keys that n addresses from `va` name for the part itself on behalf of a program (R341, R342): mapped by the die's TLB,
every home reached, nothing in the way. -/
def PartKeys (s : State) (k : Nat × Nat) (nd : Need) (va n : Nat) (keys : List Nat) : Prop :=
  QueueKeys s k.1 (s.prog k).asid nd va n keys ∧ Clear s keys ∧ claimedWord s keys = false ∧
    (nd = .write → (s.prog k).spawning = true → ∀ t ∈ s.tlb, pteRoSpawn t.entry = false)

/-- A completion counter that the executing thread names (R434), or none: its keys, free for an increment. -/
def Counter (s : State) (ctr : Nat) (keys : List Nat) : Prop :=
  if ctr = 0 then keys = []
  else ctr % 8 = 0 ∧ EngKeys .atomic s (ctr % 2 ^ 56) 8 keys ∧ (∀ k ∈ keys, keySpace k ≠ 1) ∧
    (∀ k ∈ keys, s.poisoned k = false ∧ s.spillKey k = false) ∧ claimedWord s keys = false

/-- Memory with a completion counter raised by one. -/
def counted (m : List Host.Cell) (keys : List Nat) : List Host.Cell :=
  if keys = [] then m else memSets m keys (leBytes 8 ((leNat (memGets m keys) + 1) % 2 ^ 64))

/-- An instruction of a unit has written its status and completed (R167), with the thread's side bit. -/
def Answered (s t : State) (d : Nat) (w : Word) : Prop := t.ctx = (retire (s.setCtx (s.sided.ws d w false))).ctx

/-- No page that a TLB holds is read-only for an outstanding spawn of the executing program (R207). -/
def NoRo (s : State) : Prop := s.myProg.spawning = true → ∀ t ∈ s.tlb, pteRoSpawn t.entry = false

/-- No shrink notice wakes the executing agent at an instruction that waits (R328). -/
def Unwoken (s : State) : Prop := isSlot s.cur = false ∨ (s.spur s.mySpurKey).notice.pending = false ∨ s.ctx.wake = false

/-- No access or command of the executing agent is under way that a unit's operation would wait for. -/
def Idle (s : State) : Prop := s.owned = [] ∧ s.me.pend = [] ∧ s.me.refused = none ∧ s.moves = []

/-! ### Cairn -/

/-- A tree of the executing program that Cairn works on for the agent alone: bound, unchanged by software where only Cairn may
write (R250), its region (R248) mapped by the die's TLB from its offsets to `key`, no page of it RO_SPAWN during a spawn
(R262), and nothing in the way. -/
structure TreeReady (s : State) (n : Nat) (t : Tree) (key : Nat → Nat) : Prop where
  found : findTree s n = some t
  number : n < 16
  size : t.cap ≤ 2 ^ 30
  good : t.bad = false
  alone : otherOps s n = []
  mapped : ∀ o < 64 + 64 * t.cap, KeysFor none .atomic s ((t.region + o) % 2 ^ 56) 1 [key o]
  apart : ∀ o < 64 + 64 * t.cap, ∀ q < 64 + 64 * t.cap, key o = key q → o = q
  free : ∀ o < 64 + 64 * t.cap, s.poisoned (key o) = false ∧ s.ownedLine (key o) = false ∧
    claimedWord s [key o] = false
  idle : Idle s
  now : s.defer = false
  quiet : s.myProg.spawning = true →
    ∀ o < 64 + 64 * t.cap, ∀ e k, Hits .none ((t.region + o) % 2 ^ 56) s e k → pteRoSpawn e = false

/-- The keys of a tree's header, and of node i of a half (R248). -/
def hdrKeys (key : Nat → Nat) : List Nat := (span 0 64).map key
def nodeKeys (t : Tree) (key : Nat → Nat) (half i : Nat) : List Nat := (span (64 + (half * t.cap + i) * 32) 32).map key

/-- The bytes at a path or batch location of the executing agent (R254): in SCR for a thread, in memory for a master. -/
def PlaceBytes (s : State) (loc n : Nat) (bs : List Byte) : Prop :=
  let p := s.spur s.mySpurKey
  if isSlot s.cur then
    loc + n ≤ p.size .scr ∧ p.claimed .scr loc n = false ∧ p.poisonAt .scr loc n = none ∧ bs = p.rd .scr loc n
  else ReadsAs s (loc % 2 ^ 56) n bs

/-! ### Full-empty granules -/

/-- The granule that a base value and an offset name for the executing agent (R229): a word of its spur's SCR role where the
tag is 0xF0, else an aligned word of this package's memory; here with no claim, no poison and no outstanding access of the
agent's own in the way. `sets` for an operation that changes the state (R207, R230). -/
def Names (s : State) (x : Word) (i : Int) (sets : Bool) (g : Granule) : Prop :=
  let va := (x + BitVec.ofInt 64 (i * 8)).toNat % 2 ^ 56
  (x.toNat / 2 ^ 56 = 0xF0 ∧ isSlot s.cur = true ∧ x.toNat / 2 ^ 20 % 2 ^ 36 = 0 ∧
    ∃ off : Nat, (off : Int) = ((x.toNat % 2 ^ 20 : Nat) : Int) + i * 8 ∧ off % 8 = 0 ∧
      off + 8 ≤ (s.spur s.mySpurKey).size .scr ∧ (s.spur s.mySpurKey).claimed .scr off 8 = false ∧
      (s.spur s.mySpurKey).poisonAt .scr off 8 = none ∧ g = .scr s.mySpurKey.1 s.mySpurKey.2 off) ∨
  (x.toNat / 2 ^ 56 ≠ 0xF0 ∧ va % 8 = 0 ∧
    ∃ e key, Hits .granule va s e key ∧ keySpace key = 0 ∧ (sets && pteRoSpawn e && s.myProg.spawning) = false ∧
      Clear s (span key 8) ∧ Unshared s (span key 8) ∧ claimedWord s [key] = false ∧
      (∀ k ∈ span key 8, s.reach (s.homeOfKey k) = true) ∧ g = .mem key)

/-- The word of a granule. -/
def granWord (s : State) : Granule → Word
  | .mem k => BitVec.ofNat 64 (s.rdN k 8)
  | .scr d p o => BitVec.ofNat 64 (leNat ((s.spur (d, p)).rd .scr o 8))

/-- A granule as it is named: at a multiple of eight. -/
def Granule.aligned : Granule → Prop
  | .mem k => k % 8 = 0
  | .scr _ _ o => o % 8 = 0

/-- What becomes of granules: the word of `g` written where `w` gives one, its state set where `b` gives one; every other
word of global memory, and every other state, as before. -/
def Becomes (s t : State) (g : Granule) (w : Option Word) (b : Option Bool) : Prop :=
  (∀ h : Granule, h.aligned → granFull t h = if h = g then b.getD (granFull s h) else granFull s h) ∧
  match g with
  | .mem k => (t.mem = match w with
      | some v => memSets s.mem (span k 8) (leBytes 8 v.toNat)
      | none => s.mem)
  | .scr d p o => t.mem = s.mem ∧ (t.spur (d, p)).pool = match w with
      | some v => ((s.spur (d, p)).wr .scr o (leBytes 8 v.toNat)).pool
      | none => (s.spur (d, p)).pool

/-! ### Frames -/

/-- An instruction of registers alone has left everything but its agent's record as it was; of that, the wait, the scalar
registers outside `ds` with their marks, the predicates outside `qs`, and, but for a floating-point one, FCSR and SRSEED. -/
structure Within (s t : State) (ds qs : List Nat) (fp : Bool) : Prop where
  rest : t = { s with agents := t.agents }
  others : ∀ a, a ≠ s.cur → t.agent a = s.agent a
  mine : t.me = { s.me with ctx := t.ctx, wait := .none }
  ctx : t.ctx = { s.ctx with
    pc := t.ctx.pc, frm := t.ctx.frm, inFrame := t.ctx.inFrame, instret := t.ctx.instret, regs := t.ctx.regs
    taint := t.ctx.taint, poison := t.ctx.poison, preds := t.ctx.preds, fcsr := t.ctx.fcsr, srseed := t.ctx.srseed }
  regs : ∀ n, n ∉ ds → t.ctx.rs n = s.ctx.rs n ∧ t.ctx.tainted n = s.ctx.tainted n ∧ (n ∈ t.ctx.poison ↔ n ∈ s.ctx.poison)
  preds : ∀ m, m ∉ qs → m < 8 → t.ctx.q m = s.ctx.q m
  flags : fp = false → t.ctx.fcsr = s.ctx.fcsr ∧ t.ctx.srseed = s.ctx.srseed

/-- What an instruction of registers alone can do: take a trap, let a Ridge result arrive that it waits for (R287), or write its
destinations. -/
def Confined (i : Instr) (ds qs : List Nat) (fp : Bool) : Prop :=
  ∀ s t, exec i s = .next t → (∃ tr, t = takeTrap s tr) ∨ t = deliverRidge s ∨ Within s t ds qs fp

/-- The bytes that n addresses from `va` reach for an access of the executing agent. -/
def Reached (nd : Need) (va n : Nat) (s : State) (k : Nat) : Prop :=
  ∃ es u, ((span va n).mapM fun a => transE nd (a % 2 ^ 56)).run s = .ok (es, u) ∧ k ∈ es.map (·.2)

/-- The bytes of the record that a thread leaves in the run list when it gives its slot up for a page (R310, R371). -/
def parkKeys (s : State) (va acc : Nat) (held : Bool) : List Nat :=
  let u := drainAll (faulted s va acc held) s.cur
  dynKeys (recordAt u s.myKey (freeRecord u s.myKey)) 1024

/-- What an access to memory leaves as it was: every byte but those it stores to, those of the agent's own accesses that were
outstanding before it (R195, R203), and, of a thread that gave its slot up, its record (R310); every full-empty state (R229) but those of
the words in `sets`; every other agent; of its own, unless it gave its slot up for a page (R310), every register outside `ds` and those a
Ridge result reaches, and every control register but those that a trap, FCSR and the side bit write. -/
def SparesBut (i : Instr) (s : State) (stored sets : Nat → Prop) (ds : List Nat) : Prop :=
  ∀ t, exec i s = .next t →
    (∀ k, (∀ p ∈ s.me.pend, k ∉ p.keys) → ¬ stored k →
      (t.me = Agent.blank → ∀ va acc held, k ∉ parkKeys s va acc held) → memGet t.mem k = memGet s.mem k) ∧
    (∀ w, ¬ sets w → t.full.contains w = s.full.contains w) ∧
    (∀ a, a ≠ s.cur → t.agent a = s.agent a) ∧
    (t.me = Agent.blank ∨
      (t.ctx = { s.ctx with
        pc := t.ctx.pc, frm := t.ctx.frm, inFrame := t.ctx.inFrame, instret := t.ctx.instret, regs := t.ctx.regs
        taint := t.ctx.taint, poison := t.ctx.poison, fcsr := t.ctx.fcsr, srseed := t.ctx.srseed, side := t.ctx.side
        tpc := t.ctx.tpc, tcause := t.ctx.tcause, tval := t.ctx.tval } ∧
      ∀ n, n ∉ ds → (∀ p ∈ s.me.ridge, p.1 ≠ n) → t.ctx.rs n = s.ctx.rs n))

/-- The same of one that changes no full-empty state. -/
def Spares (i : Instr) (s : State) (stored : Nat → Prop) (ds : List Nat) : Prop :=
  SparesBut i s stored (fun _ => False) ds ∧ ∀ t, exec i s = .next t → t.full = s.full

/-- The place of an instruction and its register operands, as the opcode table gives them (R44 to R53), for every one whose checks come
before its effect in the order of R54. None for the vector instructions under a mask, whose checks the mask decides (R35); for the four of a control
register, which R55 checks first; for TRAP and BKPT, which have no operand; for GANG and its pair, XIMM and FRAME, which a second word
decides; for CTXSV and CTXRS, whose core number is checked first; and for the events. -/
def checksOf (s : State) : Instr → Option (Where × List Opd)
  | .add d a b | .sub d a b | .and d a b | .or d a b | .xor d a b | .andn d a b | .min d a b | .max d a b | .minu d a b
  | .maxu d a b | .shl d a b | .shr d a b | .sra d a b | .rotr d a b | .mul d a b | .mulh d a b | .mulhu d a b
  | .div d a b | .divu d a b | .rem d a b | .remu d a b | .sel d a b _ | .padd d a b | .bfx d a b | .fadd _ d a b
  | .fsub _ d a b | .fmul _ d a b | .fdiv _ d a b | .fmin _ d a b | .fmax _ d a b | .fminn _ d a b | .fmaxn _ d a b
  | .amoSwapW d a b | .amoAddW d a b | .amoAndW d a b | .amoOrW d a b | .amoXorW d a b | .amoMinW d a b | .amoMaxW d a b
  | .amoSwapD d a b | .amoAddD d a b | .amoAndD d a b | .amoOrD d a b | .amoXorD d a b | .amoMinD d a b | .amoMaxD d a b
  | .amoMinuW d a b | .amoMaxuW d a b | .amoMinuD d a b | .amoMaxuD d a b | .mgendEnd d a b | .mgendAbandon d a b
  | .mgfin d a b | .waitGeu d a b | .waitEq d a b | .waitNe d a b => some (.tm, [.w d, .r a, .r b])
  | .clz d a | .ctz d a | .popc d a | .addi d a _ | .andi d a _ | .ori d a _ | .xori d a _ | .shli d a _ | .shri d a _
  | .srai d a _ | .lih d a _ | .ptag d a _ | .jalr d a _ | .fclass _ d a | .fcvt d a _ _ r | .sfnExp2 d a _
  | .sfnLog2 d a _ | .sfnRcp d a _ | .sfnRsq d a _ | .sfnSin d a _ | .sfnCos d a _ | .sfnTanh d a _ | .sfnErf d a _
  | .ldB d a _ | .ldBu d a _ | .ldH d a _ | .ldHu d a _ | .ldW d a _ | .ldWu d a _ | .ldD d a _ | .lda d a _
  | .ldc d a _ | .ldf d a _ | .ldfe d a _ | .mgopen d a | .probe d a => some (.tm, [.w d, .r a])
  | .qopAnd _ _ _ | .qopOr _ _ _ | .qopXor _ _ _ | .qopAndn _ _ _ | .qopOrn _ _ _ | .qopXnor _ _ _ | .qopNot _ _
  | .br _ _ _ | .fenceT | .fenceS | .fenceD | .fenceP | .fenceX | .redwait | .yield | .tret | .fencei => some (.tm, [])
  | .cmpEq _ a b | .cmpNe _ a b | .cmpLt _ a b | .cmpGe _ a b | .cmpLtu _ a b | .cmpGeu _ a b | .cmpTst _ a b
  | .fcmpEq _ _ a b | .fcmpNe _ _ a b | .fcmpLt _ _ a b | .fcmpLe _ _ a b | .fcmpGt _ _ a b | .fcmpGe _ _ a b
  | .fcmpUn _ _ a b | .fcmpOr _ _ a b | .redAdd a b _ | .redAnd a b _ | .redOr a b _ | .redXor a b _ | .redMin a b _
  | .redMax a b _ | .redMinu a b _ | .redMaxu a b _ | .redFadd a b _ | .redFmin a b _ | .redFmax a b _ => some (.tm, [.r a, .r b])
  | .cmpiEq _ a _ | .cmpiNe _ a _ | .cmpiLt _ a _ | .cmpiGe _ a _ | .cmpiLtu _ a _ | .cmpiGeu _ a _ | .cmpiTst _ a _
  | .pref a _ => some (.tm, [.r a])
  | .bfi d a b | .fma _ d a b | .fnma _ d a b | .amocasW d a b | .amocasD d a b => some (.tm, [.rw d, .r a, .r b])
  | .jal d _ | .nrd d _ => some (.tm, [.w d])
  | .rep a _ => some (.tm, [.rw a])
  | .fsqrt _ d a => some (.tm, [.w d, .r a, .r a])
  | .stB d a _ | .stH d a _ | .stW d a _ | .stD d a _ | .stl d a _ | .stf d a _ | .sto d a _ => some (.tm, [.r d, .r a])
  | .ldv d a _ => some (.tm, [.vw d, .r a])
  | .stv d a _ => some (.tm, [.vr d, .r a])
  | .ldt d a b _ => some (.tm, [.vw d, .r a, .r b])
  | .stt d a b r => some (.tm, [.vr d, .r a, .r b])
  | .lds d a _ | .poolack d a | .poolq d a => some (.t, [.w d, .r a])
  | .sts d a _ | .sspawn d a _ => some (.t, [.r d, .r a])
  | .fest d a _ => some (.tm, [.rw d, .r a])
  | .kshape _ s1 | .acvt _ _ _ r s1 => some (.t, [.r s1])
  | .kld d s1 => some (.t, [.grp s1 (if blocked (shapeOf (tabGet s.ctx.ksh d 0)).fmt then 4 else 2)])
  | .kldt _ s1 => some (.t, [.grp s1 4])
  | .kst a s1 => some (.t, [.grp s1 (if blocked (shapeOf (tabGet s.ctx.ksh a 0)).fmt then 4 else 2)])
  | .kzero _ | .kmov _ _ | .ktr _ _ | .azero _ | .tend | .bar _ => some (.t, [])
  | .ald _ _ s1 | .ast _ _ s1 => some (.t, [.grp s1 3])
  | .nzscan d a b | .mgput d a b | .rst d a b => some (.t, [.w d, .grp a 2, .grp b 2])
  | .gath d a b | .cpy2d d a b => some (.t, [.w d, .grp a 3, .grp b 5])
  | .mgarea d a b | .mgstat d a b => some (.tm, [.w d, .r a, .grp b 2])
  | .gtopk d a b => some (.tm, [.w d, .grp a 4, .grp b 2])
  | .ghist d a b | .gperm d a b => some (.tm, [.w d, .grp a 3, .grp b 2])
  | .ctreeBind d a b | .ctreeUnbind d a b | .cdesc d a b => some (.tm, [.w d, .grp a 2, .r b])
  | .cexp d a b | .cbackBackup d a b | .cbackCancel d a b => some (.tm, [.w d, .grp a 2, .grp b 2])
  | .cread d a b => some (.tm, [.w d, .grp a 2, .wgrp b 4])
  | .creuse d a => some (.tm, [.w d, .grp a 2])
  | .spawn d _ | .spawnr d _ => some (.m, [.r d])
  | .join d => some (.m, [.w d])
  | .ps d _ b | .psm d _ b => some (.t, [.w d, .r b])
  | .nwr _ b => some (.m, [.r b])
  | .jredAdd _ b | .jredMin _ b | .jredMax _ b | .jredMinu _ b | .jredMaxu _ b | .jredFaddFp64 _ b | .jredFaddFp32 _ b => some (.t, [.r b])
  | .barinit a _ => some (.t, [.r a])
  | .poolset d a b | .poolsetT d a b => some (.t, [.w d, .r a, .r b])
  | .cpy d a b => some (.t, [.w d, .grp a 3, .grp b 2])
  | .cpwait d => some (.t, [.w d])
  | .rld d a b => some (.t, [.w d, .grp a 2, .grp b 1])
  | .halt => some (.m, [])
  | .tlbinv a b => some (.p, [.r a, .r b])
  | _ => none

/-! ### Invariants -/

/-- Memory is in its canonical form (log 3). -/
def MemOk (s : State) : Prop := Memory.wf s.mem = true

end Sys2Proof.Machine
end

