-- ==== Sys2Proof/Certificates/Slice0/Obligations.lean ====
section
/-! DEFINITION. The statements for the provers. -/

open Sys2Proof Sys2Proof.Machine

/-! ### Integer instructions (04_scalar_vector.md) -/

/-- R97: the register-register operations of majors 0x01 and 0x02, each on the master and in a thread, for every register
field, with the taint of R95 and the encoding of each; the frame is the state itself. R98, with the quotient cases of R72: the multiply and
divide operations of major 0x03 and their encodings; none raises a flag or a trap. R99: the counts of zero bits above the highest and below
the lowest set bit, 64 for zero, and of the set bits. -/
def Obligations.RegisterArithmetic : Prop :=
  (Computes2 .add (fun x y r => r.toNat = (x.toNat + y.toNat) % 2 ^ 64) ∧
  Computes2 .sub (fun x y r => r.toInt = (x.toInt - y.toInt).bmod (2 ^ 64)) ∧
  Computes2 .and (fun x y r => ∀ i, r.getLsbD i = (x.getLsbD i && y.getLsbD i)) ∧
  Computes2 .or (fun x y r => ∀ i, r.getLsbD i = (x.getLsbD i || y.getLsbD i)) ∧
  Computes2 .xor (fun x y r => ∀ i, r.getLsbD i = (x.getLsbD i ^^ y.getLsbD i)) ∧
  Computes2 .andn (fun x y r => ∀ i, r.getLsbD i = (x.getLsbD i && !y.getLsbD i)) ∧
  Computes2 .min (fun x y r => r.toInt = min x.toInt y.toInt) ∧
  Computes2 .max (fun x y r => r.toInt = max x.toInt y.toInt) ∧
  Computes2 .minu (fun x y r => r.toNat = min x.toNat y.toNat) ∧
  Computes2 .maxu (fun x y r => r.toNat = max x.toNat y.toNat) ∧
  Computes2 .shl (fun x y r => r.toNat = x.toNat * 2 ^ (y.toNat % 64) % 2 ^ 64) ∧
  Computes2 .shr (fun x y r => r.toNat = x.toNat / 2 ^ (y.toNat % 64)) ∧
  Computes2 .sra (fun x y r => r.toInt = x.toInt / 2 ^ (y.toNat % 64)) ∧
  Computes2 .rotr (fun x y r => ∀ i < 64, r.getLsbD i = x.getLsbD ((i + y.toNat % 64) % 64)) ∧
  decodeTableWord 32 0x01061028 = some (.add 3 4 5) ∧
  ∀ d a b : Nat, ∀ x ∈ [(Instr.add d a b, 1, 0), (.sub d a b, 1, 1), (.and d a b, 1, 2), (.or d a b, 1, 3), (.xor d a b, 1, 4),
    (.andn d a b, 1, 5), (.min d a b, 1, 6), (.max d a b, 1, 7), (.minu d a b, 2, 0), (.maxu d a b, 2, 1), (.shl d a b, 2, 2),
    (.shr d a b, 2, 3), (.sra d a b, 2, 4), (.rotr d a b, 2, 5)],
    encode x.1 = some (x.2.1 * 2 ^ 24 + d * 2 ^ 17 + a * 2 ^ 10 + b * 2 ^ 3 + x.2.2)) ∧
  (Computes2 .mul (fun x y r => r.toNat = x.toNat * y.toNat % 2 ^ 64) ∧
   Computes2 .mulh (fun x y r => r.toInt = x.toInt * y.toInt / 2 ^ 64) ∧
   Computes2 .mulhu (fun x y r => r.toNat = x.toNat * y.toNat / 2 ^ 64) ∧
   Computes2 .div (fun x y r =>
     if y = 0 then r.toInt = -1
     else if x.toInt = -2 ^ 63 ∧ y.toInt = -1 then r.toInt = -2 ^ 63
     else r.toInt = x.toInt.tdiv y.toInt) ∧
   Computes2 .divu (fun x y r => if y = 0 then r.toNat = 2 ^ 64 - 1 else r.toNat = x.toNat / y.toNat) ∧
   Computes2 .rem (fun x y r =>
     if y = 0 then r = x
     else if x.toInt = -2 ^ 63 ∧ y.toInt = -1 then r = 0
     else r.toInt = x.toInt.tmod y.toInt) ∧
   Computes2 .remu (fun x y r => if y = 0 then r = x else r.toNat = x.toNat % y.toNat) ∧
   ∀ d a b : Nat, ∀ x ∈ [(Instr.mul d a b, 0), (.mulh d a b, 1), (.mulhu d a b, 2), (.div d a b, 3), (.divu d a b, 4), (.rem d a b, 5),
     (.remu d a b, 6)], encode x.1 = some (3 * 2 ^ 24 + d * 2 ^ 17 + a * 2 ^ 10 + b * 2 ^ 3 + x.2)) ∧
  (Computes1 .clz (fun x r => r.toNat ≤ 64 ∧ (∀ i < r.toNat, x.getLsbD (63 - i) = false) ∧
     (r.toNat < 64 → x.getLsbD (63 - r.toNat) = true)) ∧
   Computes1 .ctz (fun x r => r.toNat ≤ 64 ∧ (∀ i < r.toNat, x.getLsbD i = false) ∧
     (r.toNat < 64 → x.getLsbD r.toNat = true)) ∧
   Computes1 .popc (fun x r => r.toNat = ((List.range 64).filter fun i => x.getLsbD i).length))

/-- R100 to R102: the operations with an immediate, sign-extended to 64 bits, and the shifts by an immediate. R103 to R106: SEL,
the bit-field operations, and the two operations on pointers. -/
def Obligations.ImmediatesAndFields : Prop :=
  ((∀ i : Int, Computes1 (.addi · · i) (fun x r => r.toInt = (x.toInt + i).bmod (2 ^ 64))) ∧
   (∀ i : Int, Computes1 (.andi · · i) (fun x r => ∀ k < 64, r.getLsbD k = (x.getLsbD k && decide (i / 2 ^ k % 2 = 1)))) ∧
   (∀ i : Int, Computes1 (.ori · · i) (fun x r => ∀ k < 64, r.getLsbD k = (x.getLsbD k || decide (i / 2 ^ k % 2 = 1)))) ∧
   (∀ i : Int, Computes1 (.xori · · i) (fun x r => ∀ k < 64, r.getLsbD k = (x.getLsbD k ^^ decide (i / 2 ^ k % 2 = 1)))) ∧
   (∀ c < 64, Computes1 (.shli · · c) (fun x r => r.toNat = x.toNat * 2 ^ c % 2 ^ 64)) ∧
   (∀ c < 64, Computes1 (.shri · · c) (fun x r => r.toNat = x.toNat / 2 ^ c)) ∧
   (∀ c < 64, Computes1 (.srai · · c) (fun x r => r.toInt = x.toInt / 2 ^ c)) ∧
   (∀ i : Int, Computes1 (.lih · · i) (fun x r => r.toInt = (x.toInt + i * 2 ^ 34).bmod (2 ^ 64)))) ∧
  ((∀ q : Nat, ∀ (d a b : Nat) (s : State), Ready .tm [.w d, .r a, .r b] s →
     exec (.sel d a b q) s = .next (s.doneS d (if s.ctx.q q then s.ctx.rs a else s.ctx.rs b)
       (s.ctx.tainted a || s.ctx.tainted b))) ∧
   Computes2 .bfx (fun x y r =>
     let p := y.toNat % 64
     let l := min (y.toNat / 64 % 128) (64 - p)
     ∀ i < 64, r.getLsbD i =
       if i < l then x.getLsbD (p + i) else y.getLsbD 13 && decide (0 < l) && x.getLsbD (p + l - 1)) ∧
   (∀ (d a b : Nat) (s : State), Ready .tm [.rw d, .r a, .r b] s →
     let y := s.ctx.rs b
     let p := y.toNat % 64
     let l := min (y.toNat / 64 % 128) (64 - p)
     ∃ r : Word, (∀ i < 64, r.getLsbD i =
         if p ≤ i ∧ i < p + l then (s.ctx.rs a).getLsbD (i - p) else (s.ctx.rs d).getLsbD i) ∧
       exec (.bfi d a b) s =
         .next (s.doneS d r (s.ctx.tainted a || s.ctx.tainted b || s.ctx.tainted d))) ∧
   Computes2 .padd (fun x y r =>
     r.toNat = x.toNat / 2 ^ 56 * 2 ^ 56 + (x.toNat % 2 ^ 56 + y.toNat) % 2 ^ 56) ∧
   (∀ t < 256, Computes1 (.ptag · · t) (fun x r => r.toNat = t * 2 ^ 56 + x.toNat % 2 ^ 56)))

/-- R107 and R108: comparisons to a predicate, signed for LT and GE, and the operations on predicates; a write to q0 is
discarded (R29). -/
def Obligations.PredicateWrites : Prop :=
  Compares .cmpEq (fun x y => x = y) ∧
  Compares .cmpNe (fun x y => x ≠ y) ∧
  Compares .cmpLt (fun x y => x.toInt < y.toInt) ∧
  Compares .cmpGe (fun x y => y.toInt ≤ x.toInt) ∧
  Compares .cmpLtu (fun x y => x.toNat < y.toNat) ∧
  Compares .cmpGeu (fun x y => y.toNat ≤ x.toNat) ∧
  Compares .cmpTst (fun x y => x &&& y ≠ 0) ∧
  ComparesImm .cmpiEq (fun x y => x = y) ∧
  ComparesImm .cmpiNe (fun x y => x ≠ y) ∧
  ComparesImm .cmpiLt (fun x y => x.toInt < y.toInt) ∧
  ComparesImm .cmpiGe (fun x y => y.toInt ≤ x.toInt) ∧
  ComparesImm .cmpiLtu (fun x y => x.toNat < y.toNat) ∧
  ComparesImm .cmpiGeu (fun x y => y.toNat ≤ x.toNat) ∧
  ComparesImm .cmpiTst (fun x y => x &&& y ≠ 0) ∧
  Combines .qopAnd (fun x y => x && y) ∧
  Combines .qopOr (fun x y => x || y) ∧
  Combines .qopXor (fun x y => x ^^ y) ∧
  Combines .qopAndn (fun x y => x && !y) ∧
  Combines .qopOrn (fun x y => x || !y) ∧
  Combines .qopXnor (fun x y => !(x ^^ y)) ∧
  (∀ (d a : Nat) (s : State), Ready .tm [] s → exec (.qopNot d a) s = .next (s.doneQ d (!s.ctx.q a))) ∧
  (∀ (c : Ctx) (n m : Nat) (b : Bool), n < 8 → m < 8 →
    (c.wq n b).q m = if m = 0 then true else if m = n then b else c.q m)

/-! ### Control transfer -/

/-- R32, R109 to R112: B taken when its predicate has the wanted value; JAL; JALR, whose unaligned target traps ALIGN with the
target and the PC unchanged; REP, which runs a body of a counter c at least once. -/
def Obligations.ControlTransfers : Prop :=
  (∀ (q n : Nat) (o : Int) (s : State), Ready .tm [] s → n < 2 →
    exec (.br q n o) s = .next (if s.ctx.q q = decide (n = 0) then retireTo s (s.ctx.pc + BitVec.ofInt 64 (o * 4)) else retire s)) ∧
  (∀ (d : Nat) (o : Int) (s : State), Ready .tm [.w d] s →
    exec (.jal d o) s =
      .next (retireTo (s.setCtx (s.ctx.ws d (s.ctx.pc + 4) false)) (s.ctx.pc + BitVec.ofInt 64 (o * 4)))) ∧
  (∀ (d a : Nat) (i : Int) (s : State), Ready .tm [.w d, .r a] s →
    let target := s.ctx.rs a + BitVec.ofInt 64 (i * 4)
    let wa := if s.mode = .prefixed then s.ctx.pc + 4 else s.ctx.pc
    s.mode = .plain ∨ s.mode = .prefixed →
    exec (.jalr d a i) s =
      .next (if target.toNat % 4 = 0 then retireTo (s.setCtx (s.ctx.ws d (wa + 4) false)) target
        else takeTrap s ⟨cALIGN, target⟩)) ∧
  (∀ (a : Nat) (i : Int) (s : State), Ready .tm [.rw a] s →
    let x := s.ctx.rs a
    exec (.rep a i) s =
      .next (if x = 0 then retire s
        else
          let u := s.setCtx (s.ctx.ws a (x - 1) (s.ctx.tainted a))
          if x = 1 then retire u else retireTo u (s.ctx.pc - BitVec.ofInt 64 (4 * i))))

/-- R38, R40 and R359: completing moves the PC past the word or the pair, and inside a repeat frame moves FRM to the next
captured word, the next pass, or past the frame; it counts INSTRET, and changes nothing else but the wait that ended. -/
def Obligations.CompletionAdvances : Prop :=
  ∀ s : State,
    let t := retire s
    let c := s.ctx
    t = s.setMe { s.me with ctx := t.ctx, wait := .none } ∧
    t.ctx = { c with pc := t.ctx.pc, frm := t.ctx.frm, inFrame := t.ctx.inFrame, instret := c.instret + 1 } ∧
    (s.mode = .plain → t.ctx.pc = c.pc + 4 ∧ t.ctx.frm = c.frm ∧ t.ctx.inFrame = false) ∧
    (s.mode = .prefixed ∨ s.mode = .ganged → t.ctx.pc = c.pc + 8 ∧ t.ctx.frm = c.frm ∧ t.ctx.inFrame = false) ∧
    (∀ len iter, s.mode = .captured len iter →
      let pass := c.frm.toNat / 16 % 256
      let idx := c.frm.toNat % 16
      (idx + 1 < len → t.ctx.pc = c.pc ∧ t.ctx.frm = BitVec.ofNat 64 (0x1000 + pass * 16 + (idx + 1)) ∧ t.ctx.inFrame = true) ∧
      (len ≤ idx + 1 → pass + 1 < iter →
        t.ctx.pc = c.pc ∧ t.ctx.frm = BitVec.ofNat 64 (0x1000 + (pass + 1) * 16) ∧ t.ctx.inFrame = true) ∧
      (len ≤ idx + 1 → iter ≤ pass + 1 →
        t.ctx.pc = c.pc + 4 + 4 * BitVec.ofNat 64 len ∧ t.ctx.frm = 0 ∧ t.ctx.inFrame = false))

/-! ### Scalar floating point (03_numbers.md) -/

/-- R113 to R116 with R73 to R75, R79 and R81: in the four formats of scalar arithmetic the sum, the difference, the product, the quotient,
the square root and the fused multiply-add of finite operands are their exact values rounded once, with the flags that go with it; an
exact sum of zero has the sign of R114; a quotient by zero raises DZ, or NV for a zero dividend; a negative operand of the square root
gives the default NaN with NV. A NaN operand gives the default NaN, with NV where it is signalling. R84 and R85: a finite value converted to any of
the six formats, and an integer, is rounded in the same way; one converted to an integer is rounded at the unit and saturated. R86 and R87: a block's
scale is the exponent of its largest magnitude less that of the format; an MX element is its value by the scale rounded once and
saturated, a PS2 element the nearest code, of two equally near the smaller, of several the least. -/
def Obligations.RoundedOnce : Prop :=
  ∀ (v : FEnv) (u : Nat), v.rm < 6 → u < 2 ^ 32 →
  (∀ f ∈ [fp64, fp32, fp16, bf16], ∀ (a b c : Nat) (n1 n2 n3 : Bool) (m1 m2 m3 : Nat) (e1 e2 e3 : Int),
    f.readFtz v.ftz a = .fin n1 m1 e1 → f.readFtz v.ftz b = .fin n2 m2 e2 → f.readFtz v.ftz c = .fin n3 m3 e3 →
    let x := (FVal.fin n1 m1 e1).rat
    let y := (FVal.fin n2 m2 e2).rat
    let z := (FVal.fin n3 m3 e3).rat
    (x + y ≠ 0 → RoundsRat f v u (decide (x + y < 0)) (x + y).abs (fAdd f v u a b)) ∧
    (x + y = 0 → fAdd f v u a b = (f.signBit (if x = 0 ∧ n1 = n2 then n1 else v.rm == 3), 0)) ∧
    (x - y ≠ 0 → RoundsRat f v u (decide (x - y < 0)) (x - y).abs (fSub f v u a b)) ∧
    (x - y = 0 → fSub f v u a b = (f.signBit (if x = 0 ∧ n1 ≠ n2 then n1 else v.rm == 3), 0)) ∧
    RoundsRat f v u (n1 != n2) (x * y).abs (fMul f v u a b) ∧
    (y ≠ 0 → RoundsRat f v u (n1 != n2) (x / y).abs (fDiv f v u a b)) ∧
    (y = 0 → x ≠ 0 → fDiv f v u a b = (f.inf (n1 != n2), flagDZ)) ∧
    (y = 0 → x = 0 → fDiv f v u a b = (f.nan, flagNV)) ∧
    (0 < x → RoundsTo f v u false (fun w => w * w < x) (fun w => w * w ≤ x) (fSqrt f v u a)) ∧
    (x = 0 → fSqrt f v u a = (f.signBit n1, 0)) ∧ (x < 0 → fSqrt f v u a = (f.nan, flagNV)) ∧
    (z + x * y ≠ 0 → RoundsRat f v u (decide (z + x * y < 0)) (z + x * y).abs (fFma f v false u a b c)) ∧
    (z - x * y ≠ 0 → RoundsRat f v u (decide (z - x * y < 0)) (z - x * y).abs (fFma f v true u a b c)) ∧
    (z + x * y = 0 → fFma f v false u a b c = (f.signBit (if z = 0 ∧ n3 = (n1 != n2) then n3 else v.rm == 3), 0)) ∧
    (z - x * y = 0 → fFma f v true u a b c = (f.signBit (if z = 0 ∧ n3 ≠ (n1 != n2) then n3 else v.rm == 3), 0))) ∧
  (∀ f ∈ [fp64, fp32, fp16, bf16], ∀ a b : Nat,
    let x := f.readFtz v.ftz a
    let y := f.readFtz v.ftz b
    let r := (f.nan, if x.isSnan || y.isSnan then flagNV else 0)
    x.isNan = true ∨ y.isNan = true → fAdd f v u a b = r ∧ fSub f v u a b = r ∧ fMul f v u a b = r ∧ fDiv f v u a b = r ∧
      (x.isNan = true → fSqrt f v u a = (f.nan, if x.isSnan then flagNV else 0))) ∧
  (∀ f ∈ [fp64, fp32, fp16, bf16, e5m2, e4m3],
    (∀ (n : Bool) (m : Nat) (e : Int), RoundsRat f v u n (FVal.fin false m e).rat (convVal f v u (.fin n m e))) ∧
    (∀ i : Int, RoundsRat f v u (decide (i < 0)) (i.natAbs : Rat) (ofInt f v u i)) ∧
    ∀ s, convVal f v u (.nan s) = (f.nan, if s then flagNV else 0)) ∧
  (∀ (n : Bool) (m : Nat) (e lo hi : Int), lo ≤ 0 → 0 ≤ hi →
    let x := (FVal.fin false m e).rat
    ∃ (k : Nat) (up : Bool), (k : Rat) ≤ x ∧ x < k + 1 ∧
      (up = true ↔ (k : Rat) < x ∧ RoundsUp v.rm u n k (· < x) (· ≤ x)) ∧
      let w : Int := if up then k + 1 else k
      let z := if n then -w else w
      (lo ≤ z → z ≤ hi → toInt v u lo hi (.fin n m e) = (z, if x = (w.toNat : Rat) then 0 else flagNX)) ∧
      (z < lo → toInt v u lo hi (.fin n m e) = (lo, flagNV)) ∧ (hi < z → toInt v u lo hi (.fin n m e) = (hi, flagNV)) ∧
      toInt v u lo hi (.inf n) = (if n then lo else hi, flagNV) ∧ ∀ s, toInt v u lo hi (.nan s) = (0, flagNV)) ∧
  (∀ (low n : Bool) (k e : Int) (m : Nat),
    let x := (FVal.fin n m e).rat / pow2 k
    let sat := if low then flagOF ||| flagNX else flagNX
    (∀ f g, (f, g) ∈ [(6, e4m3), (7, e5m2), (8, e2m1)] →
      (∃ r, RoundsRat g { v with sat8 := true, ftz := false } u n x.abs r ∧
        encodeElem f v u low k (.fin n m e) = if r.2 &&& flagOF = 0 then r else (g.signBit n + g.maxEnc, sat)) ∧
      encodeElem f v u low k (.inf n) = (g.signBit n + g.maxEnc, flagNX) ∧ ∀ s, encodeElem f v u low k (.nan s) = (0, flagNV)) ∧
    (2 < x.abs → encodeElem 9 v u low k (.fin n m e) = (if n then 0xFF else 0x77, sat)) ∧
    (x.abs ≤ 2 → ∃ c < 256, encodeElem 9 v u low k (.fin n m e) = (c, if (ps2Units c : Rat) = 128 * x then 0 else flagNX) ∧
      ∀ c' < 256,
        let far (y : Nat) : Rat := ((ps2Units y : Rat) - 128 * x).abs
        far c ≤ far c' ∧ (far c = far c' → (ps2Units c).natAbs ≤ (ps2Units c').natAbs ∧ (ps2Units c = ps2Units c' → c ≤ c'))) ∧
    encodeElem 9 v u low k (.inf n) = (if n then 0xFF else 0x77, flagNX) ∧ ∀ s, encodeElem 9 v u low k (.nan s) = (0x88, flagNV)) ∧
  ∀ (f : Nat) (emax : Int) (d : Nat → Nat) (xs : List FVal), (f, emax) ∈ [(6, (8 : Int)), (7, 15), (8, 2), (9, 0)] →
    ((∃ x ∈ xs, x.isNan = true ∨ x.isInf = true) → encodeBlock f v d xs = (255, xs.map fun _ => if f = 9 then 0x88 else 0, flagNV)) ∧
    ((∀ x ∈ xs, x.isZero = true) → encodeBlock f v d xs =
      (127, xs.map fun x => if f = 9 then 0x88 else if x.neg then (if f = 8 then 8 else 128) else 0, 0)) ∧
    ((∀ x ∈ xs, x.isNan = false ∧ x.isInf = false) → (∃ x ∈ xs, x.isZero = false) → ∃ top : Int,
      (∃ x ∈ xs, pow2 top ≤ x.rat.abs) ∧ (∀ x ∈ xs, x.rat.abs < pow2 (top + 1)) ∧
      let k := max (-127) (min 127 (top - emax))
      let rs := xs.zipIdx.map fun x => encodeElem f v (d x.2) (decide (127 < top - emax)) k x.1
      encodeBlock f v d xs = ((k + 127).toNat, rs.map (·.1), unionFlags (rs.map (·.2))))

/-! ### Scalar floating point -/

/-- R113, R115, R116, R119 with R79, R80, R94: each completes where FCSR enables none of the flags that its operation gives, and then
writes the result of the format's exact operation rounded once in FCSR.RM (FCVT: in the mode its code names) and raises the
flags; where one of them is enabled it traps FPE with nothing else changed. FCLASS always completes; the minimum and maximum round
nothing. SRSEED advances once under RS (R76). R118: the eight conditions of FCMP, which complete and write their predicate in the
same way, with NV for a signalling NaN, or for any NaN where the condition is an ordering. -/
def Obligations.ScalarFloat : Prop :=
  (Floats2 .fadd true fAdd ∧
   Floats2 .fsub true fSub ∧
   Floats2 .fmul true fMul ∧
   Floats2 .fdiv true fDiv ∧
   Floats2 .fmin false (fun g v _ x y => fMinMax g v.ftz false false x y) ∧
   Floats2 .fmax false (fun g v _ x y => fMinMax g v.ftz true false x y) ∧
   Floats2 .fminn false (fun g v _ x y => fMinMax g v.ftz false true x y) ∧
   Floats2 .fmaxn false (fun g v _ x y => fMinMax g v.ftz true true x y) ∧
   (∀ (t d a b : Nat) (s : State), Ready .tm [.rw d, .r a, .r b] s →
     let g := typeFmt t
     let v := fenvOf s 7
     let r (neg : Bool) := fFma g v neg (v.draw 0 0) ((s.ctx.rs a).toNat % 2 ^ g.width) ((s.ctx.rs b).toNat % 2 ^ g.width)
       ((s.ctx.rs d).toNat % 2 ^ g.width)
     s.Floats (exec (.fma t d a b) s) (r false).2 (v.rm == 5) (fun x => x.ws d (BitVec.ofNat 64 (r false).1) false) ∧
     s.Floats (exec (.fnma t d a b) s) (r true).2 (v.rm == 5) (fun x => x.ws d (BitVec.ofNat 64 (r true).1) false)) ∧
   (∀ (t d a : Nat) (s : State), Ready .tm [.w d, .r a] s →
     let g := typeFmt t
     let v := fenvOf s 7
     let r := fSqrt g v (v.draw 0 0) ((s.ctx.rs a).toNat % 2 ^ g.width)
     s.Floats (exec (.fsqrt t d a) s) r.2 (v.rm == 5) fun x => x.ws d (BitVec.ofNat 64 r.1) false) ∧
   (∀ (t d a : Nat) (s : State), Ready .tm [.w d, .r a] s →
     let g := typeFmt t
     exec (.fclass t d a) s = .next (s.doneS d (BitVec.ofNat 64 (fClass g ((s.ctx.rs a).toNat % 2 ^ g.width))) false)) ∧
   (∀ (d a t f r : Nat) (s : State), Ready .tm [.w d, .r a] s →
     let v := fenvOf s r
     let y := convert (fcvtType f) (fcvtType t) v (v.draw 0 0) ((s.ctx.rs a).toNat % 2 ^ (fcvtType f).bits)
     s.Floats (exec (.fcvt d a t f r) s) y.2 (v.rm == 5) fun x => x.ws d (BitVec.ofNat 64 y.1) false)) ∧
  (FloatCompares .fcmpEq 0 ∧ FloatCompares .fcmpNe 1 ∧ FloatCompares .fcmpLt 2 ∧ FloatCompares .fcmpLe 3 ∧
   FloatCompares .fcmpGt 4 ∧ FloatCompares .fcmpGe 5 ∧ FloatCompares .fcmpUn 6 ∧ FloatCompares .fcmpOr 7 ∧
   (∀ (g : Fmt) (ftz : Bool) (a b : Nat),
     let x := g.readFtz ftz a
     let y := g.readFtz ftz b
     let un := x.isNan || y.isNan
     let sn := x.isSnan || y.isSnan
     (∀ c, (fCompare g ftz c a b).2 = if (2 ≤ c ∧ c ≤ 5 ∧ un = true) ∨ sn = true then flagNV else 0) ∧
     (un = true → ∀ c < 8, (fCompare g ftz c a b).1 = decide (c = 1 ∨ c = 6)) ∧
     (un = false →
       (fCompare g ftz 0 a b).1 = decide (cmpVal x y = 0) ∧ (fCompare g ftz 1 a b).1 = decide (cmpVal x y ≠ 0) ∧
       (fCompare g ftz 2 a b).1 = decide (cmpVal x y < 0) ∧ (fCompare g ftz 3 a b).1 = decide (cmpVal x y ≤ 0) ∧
       (fCompare g ftz 4 a b).1 = decide (0 < cmpVal x y) ∧ (fCompare g ftz 5 a b).1 = decide (0 ≤ cmpVal x y) ∧
       (fCompare g ftz 6 a b).1 = false ∧ (fCompare g ftz 7 a b).1 = true)))

/-! ### Special functions -/

/-- R120, R122, R311: the eight functions on scalars and on vectors, on the master, through the SFU of the spur, and with the
result its token brings; each completes with its result where FCSR enables none of its flags, and else traps FPE (R79, R80).
R121: the special operands, in the formats FP32, BF16 and FP16: NaNs, infinities and zeros. R120 at finite operands: the reciprocal and the
reciprocal square root of every one, the power of two at every integer and the logarithm at every power of two are the exact value
rounded once to nearest; LOG2 and RSQ of a negative number give the default NaN with NV; SIN, TANH and ERF are odd and COS is even. The
model's choices in it: that a request waits in the queue where the agent's accesses are left outstanding, and else is answered at once
(the field defer, log 1), and the functions' evaluation (log 12). -/
def Obligations.SpecialFunctions : Prop :=
  (SpecialScalar .sfnExp2 0 ∧ SpecialScalar .sfnLog2 1 ∧ SpecialScalar .sfnRcp 2 ∧ SpecialScalar .sfnRsq 3 ∧
   SpecialScalar .sfnSin 4 ∧ SpecialScalar .sfnCos 5 ∧ SpecialScalar .sfnTanh 6 ∧ SpecialScalar .sfnErf 7 ∧
   SpecialVector .vsfnExp2 0 ∧ SpecialVector .vsfnLog2 1 ∧ SpecialVector .vsfnRcp 2 ∧ SpecialVector .vsfnRsq 3 ∧
   SpecialVector .vsfnSin 4 ∧ SpecialVector .vsfnCos 5 ∧ SpecialVector .vsfnTanh 6 ∧ SpecialVector .vsfnErf 7) ∧
  TokenIssues ∧
  (∀ g, (g = fp32 ∨ g = bf16 ∨ g = fp16) → ∀ ftz : Bool,
     let pinf := g.inf false
     let ninf := g.inf true
     let pz := 0
     let nz := g.signBit true
     (∀ fn < 8, ∀ x sn, g.readFtz ftz x = .nan sn → sfn fn g ftz x = (g.nan, if sn then flagNV else 0)) ∧
     sfn 0 g ftz ninf = (pz, 0) ∧ sfn 0 g ftz pinf = (pinf, 0) ∧
     sfn 1 g ftz pz = (ninf, flagDZ) ∧ sfn 1 g ftz nz = (ninf, flagDZ) ∧ sfn 1 g ftz ninf = (g.nan, flagNV) ∧
     sfn 1 g ftz pinf = (pinf, 0) ∧
     sfn 2 g ftz pz = (pinf, flagDZ) ∧ sfn 2 g ftz nz = (ninf, flagDZ) ∧
     sfn 2 g ftz pinf = (pz, 0) ∧ sfn 2 g ftz ninf = (nz, 0) ∧
     sfn 3 g ftz pz = (pinf, flagDZ) ∧ sfn 3 g ftz nz = (ninf, flagDZ) ∧ sfn 3 g ftz pinf = (pz, 0) ∧
     sfn 3 g ftz ninf = (g.nan, flagNV) ∧
     (∀ fn, (fn = 4 ∨ fn = 6 ∨ fn = 7) → sfn fn g ftz pz = (pz, 0) ∧ sfn fn g ftz nz = (nz, 0)) ∧
     (∀ x, (x = pz ∨ x = nz) → ∃ one, sfn 5 g ftz x = (one, 0) ∧ g.read one = .fin false (2 ^ g.mw) (-(g.mw : Int))) ∧
     (∀ fn, (fn = 4 ∨ fn = 5) → sfn fn g ftz pinf = (g.nan, flagNV) ∧ sfn fn g ftz ninf = (g.nan, flagNV)) ∧
     (∀ fn, (fn = 6 ∨ fn = 7) → ∃ one, g.read one = .fin false (2 ^ g.mw) (-(g.mw : Int)) ∧
       sfn fn g ftz pinf = (one, 0) ∧ sfn fn g ftz ninf = (nz + one, 0))) ∧
  ∀ g, (g = fp32 ∨ g = bf16 ∨ g = fp16) → ∀ (ftz : Bool) (bits : Nat) (n : Bool) (m : Nat) (e : Int),
    g.readFtz ftz bits = .fin n m e → m ≠ 0 →
    let v : FEnv := ⟨0, ftz, false, 0, 0⟩
    let x := (FVal.fin n m e).rat
    RoundsRat g v 0 n (1 / x).abs (sfn 2 g ftz bits) ∧
    (0 < x → RoundsTo g v 0 false (fun w => w * w * x < 1) (fun w => w * w * x ≤ 1) (sfn 3 g ftz bits)) ∧
    (x < 0 → sfn 3 g ftz bits = (g.nan, flagNV) ∧ sfn 1 g ftz bits = (g.nan, flagNV)) ∧
    (∀ i : Int, x = (i : Rat) → RoundsRat g v 0 false (pow2 i) (sfn 0 g ftz bits)) ∧
    (∀ i : Int, x = pow2 i → RoundsRat g v 0 (decide (i < 0)) (i.natAbs : Rat) (sfn 1 g ftz bits)) ∧
    (∀ fn, (fn = 4 ∨ fn = 6 ∨ fn = 7) → ∀ r, sfnVal fn g v (.fin false m e) = some r →
      sfnVal fn g v (.fin true m e) = some (r.1 ^^^ g.signBit true, r.2)) ∧
    sfnVal 5 g v (.fin true m e) = sfnVal 5 g v (.fin false m e)

/-! ### Vector instructions -/

/-- R123 and R124: the integer operations lane by lane, and the comparisons that give a mask in each lane; the operations of R125
on all 128 bits. R125, R129 to R131: VSEL by the mask in the destination, VSHUF, VSPLAT, VEXT with its sign extension, VINS,
VNZ. -/
def Obligations.VectorIntegers : Prop :=
  (LaneWise .vadd (fun _ x y r => r = x + y) ∧
   LaneWise .vsub (fun _ x y r => r = x - y) ∧
   LaneWise .vadds (fun w x y r => r.toInt = max (-2 ^ (w - 1)) (min (2 ^ (w - 1) - 1) (x.toInt + y.toInt))) ∧
   LaneWise .vsubs (fun w x y r => r.toInt = max (-2 ^ (w - 1)) (min (2 ^ (w - 1) - 1) (x.toInt - y.toInt))) ∧
   LaneWise .vmul (fun _ x y r => r = x * y) ∧
   LaneWise .vmulh (fun w x y r => r = BitVec.ofInt w (x.toInt * y.toInt / 2 ^ w)) ∧
   LaneWise .vmin (fun _ x y r => r.toInt = min x.toInt y.toInt) ∧
   LaneWise .vmax (fun _ x y r => r.toInt = max x.toInt y.toInt) ∧
   LaneWise .vand (fun _ x y r => r = x &&& y) ∧
   LaneWise .vor (fun _ x y r => r = x ||| y) ∧
   LaneWise .vxor (fun _ x y r => r = x ^^^ y) ∧
   LaneWise .vshl (fun w x y r => r = x <<< (y.toNat % w)) ∧
   LaneWise .vshr (fun w x y r => r = x >>> (y.toNat % w)) ∧
   LaneWise .vsra (fun w x y r => r = x.sshiftRight (y.toNat % w)) ∧
   LaneWise .vcmpEq (fun w x y r => r = if x = y then BitVec.allOnes w else 0#w) ∧
   LaneWise .vcmpLt (fun w x y r => r = if x.toInt < y.toInt then BitVec.allOnes w else 0#w) ∧
   LaneWise .vcmpLtu (fun w x y r => r = if x.toNat < y.toNat then BitVec.allOnes w else 0#w) ∧
   LaneWise .vcmpTst (fun w x y r => r = if x &&& y = 0#w then 0#w else BitVec.allOnes w) ∧
   (∀ (d a b m l : Nat) (s : State), s.ctx.q m = true → Ready .tm [.vrw d, .vr a, .vr b] s →
     let w := 128 / laneCount l
     ∃ v : BitVec 128, (∀ i < laneCount l, laneOf w v i =
         laneOf w (s.ctx.rv a) i * laneOf w (s.ctx.rv b) i + laneOf w (s.ctx.rv d) i) ∧
       exec (.vmad d a b m l) s = .next (s.doneV d v))) ∧
  ((∀ (d a b m l : Nat) (s : State), s.ctx.q m = true → Ready .tm [.vrw d, .vr a, .vr b] s →
     exec (.vsel d a b m l) s =
       .next (s.doneV d ((s.ctx.rv a &&& s.ctx.rv d) ||| (s.ctx.rv b &&& ~~~s.ctx.rv d)))) ∧
   (∀ (d a b m l : Nat) (s : State), s.ctx.q m = true → Ready .tm [.vw d, .vr a, .vr b] s →
     let w := 128 / laneCount l
     ∃ v : BitVec 128, (∀ i < laneCount l, laneOf w v i =
         (let j := (laneOf w (s.ctx.rv b) i).toNat
          if j < laneCount l then laneOf w (s.ctx.rv a) j else 0#w)) ∧
       exec (.vshuf d a b m l) s = .next (s.doneV d v)) ∧
   (∀ (d a m l : Nat) (s : State), s.ctx.q m = true → Ready .tm [.vw d, .r a] s →
     let w := 128 / laneCount l
     ∃ v : BitVec 128, (∀ i < laneCount l, laneOf w v i = (s.ctx.rs a).setWidth w) ∧
       exec (.vsplat d a m l) s = .next (s.doneV d v)) ∧
   (∀ (d a k m l : Nat) (s : State), s.ctx.q m = true → Ready .tm [.w d, .vr a] s →
     exec (.vext d a k m l) s =
       .next (s.doneS d ((laneOf (128 / laneCount l) (s.ctx.rv a) k).signExtend 64) false)) ∧
   (∀ (d a k m l : Nat) (s : State), s.ctx.q m = true → Ready .tm [.vrw d, .r a] s →
     let w := 128 / laneCount l
     ∃ v : BitVec 128,
       (∀ i < laneCount l, laneOf w v i = if i = k then (s.ctx.rs a).setWidth w else laneOf w (s.ctx.rv d) i) ∧
       exec (.vins d a k m l) s = .next (s.doneV d v)) ∧
   (∀ (d a m l : Nat) (s : State), s.ctx.q m = true → Ready .tm [.vw d, .vr a] s →
     let w := 128 / laneCount l
     let nz := (List.range (laneCount l)).filter fun i => laneOf w (s.ctx.rv a) i ≠ 0#w
     ∃ v : BitVec 128, (∀ i < laneCount l, (laneOf w v i).toNat = nz.getD i (laneCount l + nz.length)) ∧
       exec (.vnz d a m l) s = .next (s.doneV d v)))

/-- R133 to R135: the reductions of integer lanes and of floating-point lanes, and the dot products. R127, R128, R132: the
floating-point lane operations and comparisons, VFMA with the destination as its third source, and VCVT in the mode its code
names. Each completes with its result; one that gives flags does where FCSR enables none of them, and else traps FPE (R79, R80). -/
def Obligations.VectorFloat : Prop :=
  (Reduces .vredAdd (fun w xs r => r = xs.foldl (· + ·) 0#w) ∧
   Reduces .vredMin (fun _ xs r => r ∈ xs ∧ ∀ x ∈ xs, r.toInt ≤ x.toInt) ∧
   Reduces .vredMax (fun _ xs r => r ∈ xs ∧ ∀ x ∈ xs, x.toInt ≤ r.toInt) ∧
   Reduces .vredMinu (fun _ xs r => r ∈ xs ∧ ∀ x ∈ xs, r.toNat ≤ x.toNat) ∧
   Reduces .vredMaxu (fun _ xs r => r ∈ xs ∧ ∀ x ∈ xs, x.toNat ≤ r.toNat) ∧
   ReducesFloat .vredAdd (fun l v xs => vredFadd l v.ftz xs) ∧
   ReducesFloat .vredMin (fun l v xs => fpMinMaxTree l false false v xs) ∧
   ReducesFloat .vredMax (fun l v xs => fpMinMaxTree l true false v xs) ∧
   ReducesFloat .vredMinn (fun l v xs => fpMinMaxTree l false true v xs) ∧
   ReducesFloat .vredMaxn (fun l v xs => fpMinMaxTree l true true v xs) ∧
   (∀ (d a b m l : Nat) (s : State), intLane l = true → s.ctx.q m = true → Ready .tm [.vw d, .vr a, .vr b] s →
     let w := 128 / laneCount l
     let acc := if l = 0 then 32 else 64
     let sum := ((List.range (laneCount l)).map fun i =>
       (laneOf w (s.ctx.rv a) i).toInt * (laneOf w (s.ctx.rv b) i).toInt).foldl (· + ·) 0
     exec (.vdot d a b m l) s = .next (s.doneV d (BitVec.ofNat 128 (BitVec.ofInt acc sum).toNat))) ∧
   (∀ (d a b m l : Nat) (s : State), fpLane l = true → s.ctx.q m = true → Ready .tm [.vw d, .vr a, .vr b] s →
     let w := 128 / laneCount l
     let ftz := fcsrFtz s.ctx.fcsr
     let acc := if l = 7 then fp64 else fp32
     let xs := (List.range (laneCount l)).map fun i => ((laneOf w (s.ctx.rv a) i).toNat, (laneOf w (s.ctx.rv b) i).toNat)
     let r := laneTree (addNode acc ftz) (0, 0) (pairUp (dotPair (laneFmt l) acc ftz) xs)
     s.Floats (exec (.vdot d a b m l) s) r.2 false fun x => x.wv d (packLanes acc.width [r.1]))) ∧
  (LaneFloats .vfadd true fAdd ∧
   LaneFloats .vfsub true fSub ∧
   LaneFloats .vfmul true fMul ∧
   LaneFloats .vfmin false (fun g v _ x y => fMinMax g v.ftz false false x y) ∧
   LaneFloats .vfmax false (fun g v _ x y => fMinMax g v.ftz true false x y) ∧
   LaneFloats .vfminn false (fun g v _ x y => fMinMax g v.ftz false true x y) ∧
   LaneFloats .vfmaxn false (fun g v _ x y => fMinMax g v.ftz true true x y) ∧
   LaneFloats .vfcmpEq false (fun g v _ x y =>
     (if (fCompare g v.ftz 0 x y).1 then 2 ^ g.width - 1 else 0, (fCompare g v.ftz 0 x y).2)) ∧
   LaneFloats .vfcmpLt false (fun g v _ x y =>
     (if (fCompare g v.ftz 2 x y).1 then 2 ^ g.width - 1 else 0, (fCompare g v.ftz 2 x y).2)) ∧
   LaneFloats .vfcmpLe false (fun g v _ x y =>
     (if (fCompare g v.ftz 3 x y).1 then 2 ^ g.width - 1 else 0, (fCompare g v.ftz 3 x y).2)) ∧
   LaneFloats .vfcmpUn false (fun g v _ x y =>
     (if (fCompare g v.ftz 6 x y).1 then 2 ^ g.width - 1 else 0, (fCompare g v.ftz 6 x y).2)) ∧
   (∀ (d a b m l : Nat) (s : State), s.ctx.q m = true → Ready .tm [.vrw d, .vr a, .vr b] s →
     let w := 128 / laneCount l
     let v := fenvOf s 7
     let rs := (List.range (laneCount l)).map fun i => fFma (laneFmt l) v false (v.draw 0 i)
       (laneOf w (s.ctx.rv a) i).toNat (laneOf w (s.ctx.rv b) i).toNat (laneOf w (s.ctx.rv d) i).toNat
     s.Floats (exec (.vfma d a b m l) s) (unionFlags (rs.map (·.2))) (v.rm == 5) fun x => x.wv d (packLanes w (rs.map (·.1)))) ∧
   (∀ (d a f r m t : Nat) (s : State), s.ctx.q m = true → Ready .tm [.vw d, .vr a] s →
     let v := fenvOf s r
     let n := min (128 / (vcvtType f).bits) (128 / (vcvtType t).bits)
     let rs := (List.range n).map fun j =>
       convert (vcvtType f) (vcvtType t) v (v.draw 0 j) (laneOf (vcvtType f).bits (s.ctx.rv a) j).toNat
     s.Floats (exec (.vcvt d a f r m t) s) (unionFlags (rs.map (·.2))) (v.rm == 5) fun x =>
       x.wv d (packLanes (vcvtType t).bits (rs.map (·.1)))))

/-! ### Memory (07_ordering_rules.md, 08_memory_instr.md) -/

/-- R219, R221 to R224: the loads, little-endian, sign- or zero-extended; LDA aligned; LDC aligned, with the taint of its
destination (R95); LDV, which fills the pair s(2d), s(2d+1) from the high and the low eight bytes. The model's choices in it:
log 1. -/
def Obligations.MemoryLoads : Prop :=
  Loads .ldB 1 true false false ∧ Loads .ldBu 1 false false false ∧ Loads .ldH 2 true false false ∧
  Loads .ldHu 2 false false false ∧ Loads .ldW 4 true false false ∧ Loads .ldWu 4 false false false ∧
  Loads .ldD 8 false false false ∧ Loads .lda 8 false false true ∧ Loads .ldc 8 false true true ∧
  (∀ (d a : Nat) (i : Int) (s : State) (es : List (Nat × Nat)) (u : State), Ready .tm [.vw d, .r a] s →
    let ea := s.ctx.rs a + BitVec.ofInt 64 (i * 16)
    let va := ea.toNat % 2 ^ 56
    va % 8 = 0 → Translated .read va 16 s es u → Clear u (es.map (·.2)) → Sound u es →
    let v := BitVec.ofNat 128 (leNat ((es.map (·.2)).map (u.sees (es.all fun e => pteRoSpawn e.1))))
    (s.defer = false → redPending u.me (es.map (·.2)) = false →
      ∃ t, exec (.ldv d a i) s = .next t ∧ t.ctx = (s.doneV d v).ctx ∧ t.me.wait = .none ∧ t.mem = s.mem ∧ t.full = s.full) ∧
    (s.defer = true →
      exec (.ldv d a i) s = .next (u.setMe { u.me with wait := .load ⟨ea, 16, false, d, false, true⟩, wmode := u.mode }))) ∧
  (∀ (d a : Nat) (i : Int) (s : State), Ready .tm [.w d, .r a] s →
    let ea := s.ctx.rs a + BitVec.ofInt 64 (i * 8)
    ea.toNat % 8 ≠ 0 →
    exec (.lda d a i) s = .next (takeTrap s ⟨cALIGN, ea⟩) ∧ exec (.ldc d a i) s = .next (takeTrap s ⟨cALIGN, ea⟩))

/-- R219, R221 to R224: the stores of the low bytes of s[d], unaligned or not; STL aligned, here with none of the agent's
accesses outstanding before it; STV, 8-aligned. The model's choices in it: log 1, 11. -/
def Obligations.MemoryStores : Prop :=
  Stores .stB 1 false ∧ Stores .stH 2 false ∧ Stores .stW 4 false ∧ Stores .stD 8 false ∧
  (∀ (d a : Nat) (i : Int) (s : State) (es : List (Nat × Nat)) (u : State), Ready .tm [.r d, .r a] s →
    let va := (s.ctx.rs a + BitVec.ofInt 64 (i * 8)).toNat % 2 ^ 56
    let keys := es.map (·.2)
    va % 8 = 0 → Translated .write va 8 s es u → AtOnce u es → s.me.pend = [] →
    ∃ t, exec (.stl d a i) s = .next t ∧ t.mem = memSets s.mem keys (leBytes 8 (s.ctx.rs d).toNat) ∧
      t.ctx = (retire (s.setCtx s.sided)).ctx ∧ t.me.pend = [] ∧ t.full = s.full) ∧
  (∀ (d a : Nat) (i : Int) (s : State) (es : List (Nat × Nat)) (u : State), Ready .tm [.vr d, .r a] s →
    let va := (s.ctx.rs a + BitVec.ofInt 64 (i * 16)).toNat % 2 ^ 56
    let keys := es.map (·.2)
    va % 8 = 0 → Translated .write va 16 s es u → AtOnce u es → pendStores s.me < 32 →
    ∃ t, exec (.stv d a i) s = .next t ∧ t.mem = memSets s.mem keys (leBytes 16 (s.ctx.rv d).toNat) ∧
      t.ctx = (retire (s.setCtx s.sided)).ctx ∧ t.me.pend = s.me.pend ∧ t.full = s.full) ∧
  (∀ (d a : Nat) (i : Int) (s : State), Ready .tm [.r d, .r a] s →
    let ea := s.ctx.rs a + BitVec.ofInt 64 (i * 8)
    ea.toNat % 8 ≠ 0 → exec (.stl d a i) s = .next (takeTrap s ⟨cALIGN, ea⟩))

/-- R225 and R226: LDS and STS at an offset of the executing spur's SCR role, POOLREF beyond it before ALIGN; PREF, which
completes whatever its address holds and changes no register and no memory. -/
def Obligations.ScratchAndPrefetch : Prop :=
  (∀ (d a : Nat) (i : Int) (s : State),
    let k := s.mySpurKey
    let p := s.spur k
    let o := (BitVec.ofNat 64 ((s.ctx.rs a).toNat % 2 ^ 56) + BitVec.ofInt 64 (i * 8)).toNat
    let beyond : Trap := ⟨cPOOLREF, BitVec.ofNat 64 (Role.scr.code * 2 ^ 60 + min o (2 ^ 20 - 1))⟩
    (Ready .t [.w d, .r a] s →
      (p.size .scr < o + 8 → exec (.lds d a i) s = .next (takeTrap s beyond)) ∧
      (o + 8 ≤ p.size .scr → o % 8 ≠ 0 → exec (.lds d a i) s = .next (takeTrap s ⟨cALIGN, BitVec.ofNat 64 o⟩)) ∧
      (o + 8 ≤ p.size .scr → o % 8 = 0 → p.claimed .scr o 8 = false → p.poisonAt .scr o 8 = none →
        exec (.lds d a i) s = .next (s.doneS d (BitVec.ofNat 64 (leNat (p.rd .scr o 8))) false))) ∧
    (Ready .t [.r d, .r a] s →
      (p.size .scr < o + 8 → exec (.sts d a i) s = .next (takeTrap s beyond)) ∧
      (o + 8 ≤ p.size .scr → o % 8 ≠ 0 → exec (.sts d a i) s = .next (takeTrap s ⟨cALIGN, BitVec.ofNat 64 o⟩)) ∧
      (o + 8 ≤ p.size .scr → o % 8 = 0 → p.claimed .scr o 8 = false →
        exec (.sts d a i) s = .next (retire (s.setSpur k (p.wr .scr o (leBytes 8 (s.ctx.rs d).toNat))))))) ∧
  (∀ (a : Nat) (i : Int) (s : State), Ready .tm [.r a] s →
    ∃ t, exec (.pref a i) s = .next t ∧ t.ctx = (retire s).ctx ∧ t.me.pend = s.me.pend ∧ t.mem = s.mem ∧ t.full = s.full ∧
      t.progs = s.progs)

/-- R89 to R93, R227, R228: LDT of every element format, its elements and scales read as bytes, converted to the lane type in
RNE; STT of four FP32 lanes, rounded in its mode, to formats without a scale, to blocked ones against the scale in memory, and to those
of four bits, where an element's neighbour in its byte stays; a pointer with a bad format traps ILLFMT and an unaligned one ALIGN. The
model's choices in it: that the four elements are stored at once, in the instruction's own step (log 1, 11); PS2 (log 20). -/
def Obligations.TypedAccesses : Prop :=
  (∀ (d a b ty : Nat) (s : State) (el sc : Nat → List Byte), Ready .tm [.vw d, .r a, .r b] s →
    let p := s.ctx.rs a
    let q := s.ctx.rs b
    let f := ptrFmt p
    let g := ldtFmt ty
    let n := 128 / g.width
    fmtOk f (ptrBlg p) = true → p.toNat % 2 ^ 56 % max 1 (elemBits f / 8) = 0 →
    (∀ j < n, ReadsAs s (typedAddr p j % 2 ^ 56) (elemBytes f) (el j)) →
    (∀ j < n, blocked f = true → ReadsAs s (typedScale p q j) 1 (sc j)) →
    let x (j : Nat) := nibble p j (leNat (el j))
    let v := { fenvOf s 7 with rm := 0 }
    let rs := (List.range n).map fun j =>
      convVal g v 0 (if blocked f = true then scaledVal f (x j) (leNat (sc j)) else elemVal f (x j))
    let fl := unionFlags (rs.map (·.2))
    (fl &&& fcsrEnables s.ctx.fcsr = 0 → ∃ t, exec (.ldt d a b ty) s = .next t ∧ t.mem = s.mem ∧
      t.ctx = (s.floated fl false fun c => c.wv d (packLanes g.width (rs.map (·.1)))).ctx) ∧
    (fl &&& fcsrEnables s.ctx.fcsr ≠ 0 → exec (.ldt d a b ty) s = .next (takeTrap s ⟨cFPE, fl.zeroExtend 64⟩))) ∧
  (∀ (d a b r : Nat) (s : State) (keys : Nat → List Nat), Ready .tm [.vr d, .r a, .r b] s →
    let p := s.ctx.rs a
    let f := ptrFmt p
    fmtOk f (ptrBlg p) = true → p.toNat % 2 ^ 56 % max 1 (elemBits f / 8) = 0 → blocked f = false → 8 ≤ elemBits f →
    (∀ j < 4, StoresAt s (typedAddr p j % 2 ^ 56) (elemBytes f) (keys j)) → pendStores s.me < 32 →
    let v := fenvOf s r
    let rs := (List.range 4).map fun j => sttElem f v (v.draw 0 j) 0 (fp32.readFtz v.ftz (laneOf 32 (s.ctx.rv d) j).toNat)
    let fl := unionFlags (rs.map (·.2))
    (fl &&& fcsrEnables s.ctx.fcsr = 0 → ∃ t, exec (.stt d a b r) s = .next t ∧
      t.ctx = (retire (s.setCtx (s.sided.rounded fl (v.rm == 5)))).ctx ∧ t.full = s.full ∧ t.me.pend = s.me.pend ∧
      t.mem = ((List.range 4).map keys |>.zip (rs.map (·.1))).foldl (fun m x => memSets m x.1 (leBytes (elemBytes f) x.2)) s.mem) ∧
    (fl &&& fcsrEnables s.ctx.fcsr ≠ 0 → exec (.stt d a b r) s = .next (takeTrap s ⟨cFPE, fl.zeroExtend 64⟩))) ∧
  (∀ (d a b r : Nat) (s : State) (keys : Nat → List Nat) (sc old : Nat → List Byte), Ready .tm [.vr d, .r a, .r b] s →
    let p := s.ctx.rs a
    let f := ptrFmt p
    fmtOk f (ptrBlg p) = true → p.toNat % 2 ^ 56 % max 1 (elemBits f / 8) = 0 → blocked f = true ∨ elemBits f = 4 →
    (∀ j < 4, blocked f = true → ReadsAs s (typedScale p (s.ctx.rs b) j) 1 (sc j)) →
    (∀ j < 4, elemBits f = 4 → ReadsAs s (typedAddr p j % 2 ^ 56) 1 (old j)) →
    (∀ j < 4, StoresAt s (typedAddr p j % 2 ^ 56) (elemBytes f) (keys j)) → pendStores s.me < 32 →
    let v := fenvOf s r
    let rs := (List.range 4).map fun j => sttElem f v (v.draw 0 j) (if blocked f then leNat (sc j) else 0)
      (fp32.readFtz v.ftz (laneOf 32 (s.ctx.rv d) j).toNat)
    let fl := unionFlags (rs.map (·.2))
    (fl &&& fcsrEnables s.ctx.fcsr = 0 → ∃ t, exec (.stt d a b r) s = .next t ∧
      t.ctx = (retire (s.setCtx (s.sided.rounded fl (v.rm == 5 && f != 9)))).ctx ∧ t.full = s.full ∧ t.me.pend = s.me.pend ∧
      (elemBits f = 8 →
        t.mem = ((List.range 4).map keys |>.zip (rs.map (·.1))).foldl (fun m x => memSets m x.1 (leBytes 1 x.2)) s.mem) ∧
      (elemBits f = 4 → (∀ k, (∀ j < 4, k ∉ keys j) → memGet t.mem k = memGet s.mem k) ∧
        ∀ j < 4, ∀ k ∈ keys j,
          let half (m : List Host.Cell) (i : Nat) : Nat := (memGet m k).toNat / 16 ^ (i % 2) % 16
          half t.mem (typedIndex p j) = (rs.getD j (0, 0)).1 ∧
          ((∀ i < 4, typedAddr p i = typedAddr p j → i = j) → half t.mem (typedIndex p j + 1) = half s.mem (typedIndex p j + 1)))) ∧
    (fl &&& fcsrEnables s.ctx.fcsr ≠ 0 → exec (.stt d a b r) s = .next (takeTrap s ⟨cFPE, fl.zeroExtend 64⟩))) ∧
  (∀ (f : Nat) (v : FEnv) (u c : Nat) (x : FVal),
    (blocked f = true → sttElem f v u c x =
      if c = 255 then (if f = 9 then 0x88 else 0, flagNV) else encodeElem f v u false ((c : Int) - 127) x) ∧
    (∀ g, (f, g) ∈ [(1, fp32), (2, bf16), (3, fp16), (4, e4m3), (5, e5m2), (12, fp64)] → sttElem f v u c x = convVal g v u x) ∧
    (∀ w, (f, w) ∈ [(10, 8), (11, 4)] →
      sttElem f v u c x = ((BitVec.ofInt w (toInt v u (-2 ^ (w - 1)) (2 ^ (w - 1) - 1) x).1).toNat,
        (toInt v u (-2 ^ (w - 1)) (2 ^ (w - 1) - 1) x).2))) ∧
  (∀ (d a b y : Nat) (s : State),
    let p := s.ctx.rs a
    let bad : Option Trap :=
      if fmtOk (ptrFmt p) (ptrBlg p) = false then some ⟨cILLFMT, p⟩
      else if p.toNat % 2 ^ 56 % max 1 (elemBits (ptrFmt p) / 8) ≠ 0 then some ⟨cALIGN, p⟩ else none
    ∀ tr, bad = some tr →
      (Ready .tm [.vw d, .r a, .r b] s → exec (.ldt d a b y) s = .next (takeTrap s tr)) ∧
      (Ready .tm [.vr d, .r a, .r b] s → exec (.stt d a b y) s = .next (takeTrap s tr)))

/-- R232 and R233: the returning atomics on words and doublewords; s[d] takes the old word sign-extended. R235: the reductions,
integers of 32 and 64 bits, FADD, FMIN and FMAX of FP32 and FP64 with subnormals kept, rounded to nearest even, and no flag
recorded. The model's choice in it: whether the instruction leaves its access outstanding is the field defer (log 1). -/
def Obligations.AtomicUpdates : Prop :=
  (Atomics .amoSwapW 32 false (fun _ y _ r => r = y) ∧ Atomics .amoSwapD 64 false (fun _ y _ r => r = y) ∧
   Atomics .amoAddW 32 false (fun x y _ r => r = x + y) ∧ Atomics .amoAddD 64 false (fun x y _ r => r = x + y) ∧
   Atomics .amoAndW 32 false (fun x y _ r => r = x &&& y) ∧ Atomics .amoAndD 64 false (fun x y _ r => r = x &&& y) ∧
   Atomics .amoOrW 32 false (fun x y _ r => r = x ||| y) ∧ Atomics .amoOrD 64 false (fun x y _ r => r = x ||| y) ∧
   Atomics .amoXorW 32 false (fun x y _ r => r = x ^^^ y) ∧ Atomics .amoXorD 64 false (fun x y _ r => r = x ^^^ y) ∧
   Atomics .amoMinW 32 false (fun x y _ r => r.toInt = min x.toInt y.toInt) ∧
   Atomics .amoMinD 64 false (fun x y _ r => r.toInt = min x.toInt y.toInt) ∧
   Atomics .amoMaxW 32 false (fun x y _ r => r.toInt = max x.toInt y.toInt) ∧
   Atomics .amoMaxD 64 false (fun x y _ r => r.toInt = max x.toInt y.toInt) ∧
   Atomics .amoMinuW 32 false (fun x y _ r => r.toNat = min x.toNat y.toNat) ∧
   Atomics .amoMinuD 64 false (fun x y _ r => r.toNat = min x.toNat y.toNat) ∧
   Atomics .amoMaxuW 32 false (fun x y _ r => r.toNat = max x.toNat y.toNat) ∧
   Atomics .amoMaxuD 64 false (fun x y _ r => r.toNat = max x.toNat y.toNat) ∧
   Atomics .amocasW 32 true (fun x y z r => r = if x = z then y else x) ∧
   Atomics .amocasD 64 true (fun x y z r => r = if x = z then y else x)) ∧
  ((∀ w n : Nat, (w = 0 ∧ n = 32) ∨ (w = 1 ∧ n = 64) →
     Reductions .redAdd w n (fun x y r => r = x + y) ∧ Reductions .redAnd w n (fun x y r => r = x &&& y) ∧
     Reductions .redOr w n (fun x y r => r = x ||| y) ∧ Reductions .redXor w n (fun x y r => r = x ^^^ y) ∧
     Reductions .redMin w n (fun x y r => r.toInt = min x.toInt y.toInt) ∧
     Reductions .redMax w n (fun x y r => r.toInt = max x.toInt y.toInt) ∧
     Reductions .redMinu w n (fun x y r => r.toNat = min x.toNat y.toNat) ∧
     Reductions .redMaxu w n (fun x y r => r.toNat = max x.toNat y.toNat)) ∧
   (∀ w n : Nat, (w = 2 ∧ n = 32) ∨ (w = 3 ∧ n = 64) →
     let g := if w = 2 then fp32 else fp64
     Reductions .redFadd w n (fun x y r => r = BitVec.ofNat n (fAdd g ⟨0, false, false, 0, 0⟩ 0 x.toNat y.toNat).1) ∧
     Reductions .redFmin w n (fun x y r => r = BitVec.ofNat n (fMinMax g false false false x.toNat y.toNat).1) ∧
     Reductions .redFmax w n (fun x y r => r = BitVec.ofNat n (fMinMax g false true false x.toNat y.toNat).1)))

/-- R229 to R231: the five full-empty operations at a granule without waiters, in memory or in SCR: LDF and LDFE on FULL, STF
on EMPTY, STO and FEST always; one that may not proceed joins the granule's waiters and changes neither the word, its state
nor a register. The model's choices in it: log 23; whether an operation sets the side-effect bit (log 49). -/
def Obligations.FullEmptyOperations : Prop :=
  ∀ (d a : Nat) (i : Int) (s : State) (g : Granule),
    let x := s.ctx.rs a
    let y := s.ctx.rs d
    let full := granFull s g
    let waits (f : Nat → Nat → Int → Instr) (op : Nat) : Prop :=
      ∃ t, exec (f d a i) s = .next t ∧ (t.ctx = s.ctx ∨ t.ctx = s.sided) ∧ (∃ r, t.me.wait = .granule r ∧ r.op = op ∧ r.g = g) ∧
        t.feWait = s.feWait ++ [(g, s.cur)] ∧ Becomes s t g none none
    (∀ z ∈ s.feWait, z.1 ≠ g) → (s.spur s.mySpurKey).notice.pending = false → ownDescs s = [] →
    (Ready .tm [.w d, .r a] s →
      (Names s x i false g →
        (full = true → ∃ t, exec (.ldf d a i) s = .next t ∧ t.ctx = (s.doneS d (granWord s g) false).ctx ∧
          Becomes s t g none none) ∧
        (full = false → waits .ldf 0)) ∧
      (Names s x i true g →
        (full = true → ∃ t c, exec (.ldfe d a i) s = .next t ∧ (c = s.ctx ∨ c = s.sided) ∧
          t.ctx = (retire (s.setCtx (c.ws d (granWord s g) false))).ctx ∧ Becomes s t g none (some false)) ∧
        (full = false → waits .ldfe 1))) ∧
    (Ready .tm [.r d, .r a] s → Names s x i true g →
      (full = false → ∃ t c, exec (.stf d a i) s = .next t ∧ (c = s.ctx ∨ c = s.sided) ∧
        t.ctx = (retire (s.setCtx c)).ctx ∧ Becomes s t g (some y) (some true)) ∧
      (full = true → waits .stf 2) ∧
      (∃ t c, exec (.sto d a i) s = .next t ∧ (c = s.ctx ∨ c = s.sided) ∧
        t.ctx = (retire (s.setCtx c)).ctx ∧ Becomes s t g (some y) (some true))) ∧
    (Ready .tm [.rw d, .r a] s → Names s x i (!y.getLsbD 1) g →
      ∃ t c, exec (.fest d a i) s = .next t ∧ (c = s.ctx ∨ c = s.sided) ∧
        t.ctx = (retire (s.setCtx (c.ws d (if full then 1 else 0) false))).ctx ∧
        Becomes s t g none (if y.getLsbD 1 then none else some (y.getLsbD 0)))

/-- R198, R199, R209, R236, R358: a fence performs the agent's accesses of its domain, and waits while one of them must wait at its
home; then it takes the oldest deferred trap instead of completing. REDWAIT does so for reductions. FENCE.T and FENCE.S wait for no
access to memory; FENCE.T marks those before it for the source reads of later engine commands. The model's choices in it: that a fence
performs the accesses in its own step, which of them FENCE.T and FENCE.S wait for, and that one which stalls answers the same state (log
30). -/
def Obligations.FencesDrain : Prop :=
  ∀ (s : State), Ready .tm [] s →
    ∀ (i : Instr) (f : Pend → Bool),
      ((i = .fenceT ∧ f = fun _ => false) ∨ (i = .fenceS ∧ f = fun _ => false) ∨
       (i = .fenceD ∧ f = fun p => p.homes.contains (.die (dieOf s.cur)) && p.keys.any fun k => keySpace k == 0) ∨
       (i = .fenceP ∧ f = fun p => p.keys.any fun k => keySpace k == 0) ∨ (i = .fenceX ∧ f = fun _ => true) ∨
       (i = .redwait ∧ f = fun p => match p.kind with
         | .red .. => true
         | .store _ => false)) →
      ((∀ p ∈ s.me.pend, pendFree s p = true) → ∃ t, exec i s = .next t ∧ ∀ p ∈ t.me.pend, p ∈ s.me.pend ∧ f p = false) ∧
      ((∃ p ∈ s.me.pend, f p = true ∧ pendFree s p = false) → (s.me.pend.map Pend.id).Nodup → exec i s = .next s) ∧
      ((∀ p ∈ s.me.pend, f p = false) → s.me.dtraps = [] →
        exec i s = .next (retire (if i = .fenceT then s.setMe { s.me with fenceT := s.me.nextPend } else s))) ∧
      (∀ tr rest, (∀ p ∈ s.me.pend, f p = false) → s.me.dtraps = tr :: rest →
        exec i s = .next (takeTrap (s.setMe { s.me with dtraps := rest }) tr)) ∧
      (∀ p bs, s.me.pend = [p] → f p = true → pendFree s p = true → p.kind = .store bs → s.me.dtraps = [] →
        (∀ h ∈ p.homes, s.reach h = true) →
        ∃ t, exec i s = .next t ∧ t.mem = memSets s.mem p.keys bs ∧ t.ctx = (retire s).ctx ∧ t.me.pend = [])

/-! ### Extension prefix and repeat frame (02_encoding.md) -/

/-- R38, R39, R40 to R43: XIMM runs the instruction of the next word with its immediate widened, signed at bit 33, or 30 for
CMPI, as one instruction, and traps ILLOP with the second word before any other; FRAME runs the captured instruction that FRM
names, its register fields moved by the strides of the pass, and traps ILLOP, with FRM unchanged, for an uncapturable word on
entry and for a position outside the frame. Both complete as the instruction they run does: spelled out for the integer operations with
an immediate and comparisons under a prefix, and for integer and floating-point operations in a frame. The model's choices in it: log 24,
25. -/
def Obligations.PrefixesAndFrames : Prop :=
  (∀ (h w : Nat) (s u : State), (fetchWord (s.ctx.pc + 4)).run s = .ok (w, u) →
    let v : State := { u with iw := w, mode := .prefixed }
    let wide : List (Nat → Nat → Int → Instr) := [.addi, .andi, .ori, .xori, .lih, .jalr, .ldB, .ldBu, .ldH, .ldHu, .ldW, .ldWu,
      .ldD, .stB, .stH, .stW, .stD, .ldv, .stv, .lda, .stl, .ldc, .lds, .sts, .ldf, .ldfe, .stf, .sto, .fest, fun _ a i => .pref a i]
    let wideC : List (Nat → Nat → Int → Instr) := [.cmpiEq, .cmpiNe, .cmpiLt, .cmpiGe, .cmpiLtu, .cmpiGeu, .cmpiTst]
    (∀ c ∈ wide, ∀ d a i, decodeLowWord w = .ok (c d a i) → ∃ z : Int, -2 ^ 33 ≤ z ∧ z < 2 ^ 33 ∧
      (z - (h * 1024 + i % 1024)) % 2 ^ 34 = 0 ∧ exec (.ximm h) s = exec (c d a z) v) ∧
    (∀ c ∈ wideC, ∀ d a i, decodeLowWord w = .ok (c d a i) → ∃ z : Int, -2 ^ 30 ≤ z ∧ z < 2 ^ 30 ∧
      (z - (h * 128 + i % 128)) % 2 ^ 31 = 0 ∧ exec (.ximm h) s = exec (c d a z) v) ∧
    (∀ c rel, (c, rel) ∈ ([(.addi, fun x z r => r.toInt = (x.toInt + z).bmod (2 ^ 64)), (.andi, fun x z r => r = x &&& BitVec.ofInt 64 z),
          (.ori, fun x z r => r = x ||| BitVec.ofInt 64 z), (.xori, fun x z r => r = x ^^^ BitVec.ofInt 64 z),
          (.lih, fun x z r => r.toInt = (x.toInt + z * 2 ^ 34).bmod (2 ^ 64))] :
          List ((Nat → Nat → Int → Instr) × (Word → Int → Word → Prop))) →
      ∀ d a i, decodeLowWord w = .ok (c d a i) → Ready .tm [.w d, .r a] v → ∃ (z : Int) (r : Word), -2 ^ 33 ≤ z ∧ z < 2 ^ 33 ∧
        (z - (h * 1024 + i % 1024)) % 2 ^ 34 = 0 ∧ rel (v.ctx.rs a) z r ∧
        exec (.ximm h) s = .next (v.doneS d r (v.ctx.tainted a))) ∧
    (∀ c cond, (c, cond) ∈ ([(.cmpiEq, fun x z => x = BitVec.ofInt 64 z), (.cmpiNe, fun x z => x ≠ BitVec.ofInt 64 z),
          (.cmpiLt, fun x z => x.toInt < z), (.cmpiGe, fun x z => z ≤ x.toInt),
          (.cmpiLtu, fun x z => x.toNat < (BitVec.ofInt 64 z).toNat), (.cmpiGeu, fun x z => (BitVec.ofInt 64 z).toNat ≤ x.toNat),
          (.cmpiTst, fun x z => x &&& BitVec.ofInt 64 z ≠ 0)] : List ((Nat → Nat → Int → Instr) × (Word → Int → Prop))) →
      ∀ q a i, decodeLowWord w = .ok (c q a i) → Ready .tm [.r a] v → ∃ (z : Int) (t : Bool), -2 ^ 30 ≤ z ∧ z < 2 ^ 30 ∧
        (z - (h * 128 + i % 128)) % 2 ^ 31 = 0 ∧ (t = true ↔ cond (v.ctx.rs a) z) ∧ exec (.ximm h) s = .next (v.doneQ q t)) ∧
    ((∀ c ∈ wide ++ wideC, ∀ d a i, decodeLowWord w ≠ .ok (c d a i)) →
      exec (.ximm h) s = .next (takeTrap v ⟨cILLOP, BitVec.ofNat 64 w⟩))) ∧
  (∀ (l i d a b : Nat) (s : State),
    let p := s.ctx.pc
    let word (n : Nat) : Word := p + 4 + BitVec.ofNat 64 (4 * n)
    let pass := s.ctx.frm.toNat / 16 % 256
    let idx := s.ctx.frm.toNat % 16
    let completes (j : Instr) (v : State) : Prop :=
      (∀ x y z, Ready .tm [.w x, .r y, .r z] v →
        let p := v.ctx.rs y
        let q := v.ctx.rs z
        let t := v.ctx.tainted y || v.ctx.tainted z
        ∀ r, (j, r) ∈ [(Instr.add x y z, p + q), (.sub x y z, p - q), (.and x y z, p &&& q), (.or x y z, p ||| q), (.xor x y z, p ^^^ q),
            (.mul x y z, p * q)] → exec (.frame l i d a b) s = .next (v.doneS x r t)) ∧
      (∀ x y (m : Int), Ready .tm [.w x, .r y] v → j = .addi x y m →
        exec (.frame l i d a b) s = .next (v.doneS x (v.ctx.rs y + BitVec.ofInt 64 m) (v.ctx.tainted y))) ∧
      (∀ f x y z, Ready .tm [.w x, .r y, .r z] v → j = .fadd f x y z ∨ j = .fmul f x y z →
        let g := typeFmt f
        let e := fenvOf v 7
        let op := if j = .fadd f x y z then fAdd else fMul
        let r := op g e (e.draw 0 0) ((v.ctx.rs y).toNat % 2 ^ g.width) ((v.ctx.rs z).toNat % 2 ^ g.width)
        v.Floats (exec (.frame l i d a b) s) r.2 (e.rm == 5) fun c => c.ws x (BitVec.ofNat 64 r.1) false)
    (∀ ws u w0 u0 j, s.ctx.inFrame = false → ((List.range (l + 1)).mapM fun n => fetchWord (word n)).run s = .ok (ws, u) →
      ((∃ w ∈ ws, capturable w = false) → exec (.frame l i d a b) s = .next (takeTrap s ⟨cILLOP, BitVec.ofNat 64 s.iw⟩)) ∧
      ((∀ w ∈ ws, capturable w = true) → capturable w0 = true →
        (fetchWord (word 0)).run (u.setCtx { u.ctx with frm := 0x1000, inFrame := true }) = .ok (w0, u0) →
        decodeLowWord w0 = .ok j →
        exec (.frame l i d a b) s = exec j { u0 with iw := w0, mode := .captured (l + 1) (i + 1) } ∧
          completes j { u0 with iw := w0, mode := .captured (l + 1) (i + 1) })) ∧
    (s.ctx.inFrame = true → (i + 1 ≤ pass ∨ l + 1 ≤ idx) →
      exec (.frame l i d a b) s = .next (takeTrap s ⟨cILLOP, BitVec.ofNat 64 s.iw⟩)) ∧
    (∀ w u, s.ctx.inFrame = true → pass < i + 1 → idx < l + 1 → (fetchWord (word idx)).run s = .ok (w, u) → capturable w = true →
      let v : State := { u with iw := w, mode := .captured (l + 1) (i + 1) }
      (strideWord w (pass * d) (pass * a) (pass * b) = none →
        exec (.frame l i d a b) s = .next (takeTrap v ⟨cILLOP, BitVec.ofNat 64 w⟩)) ∧
      (∀ w' j, strideWord w (pass * d) (pass * a) (pass * b) = some w' → decodeLowWord w' = .ok j →
        exec (.frame l i d a b) s = exec j v ∧ completes j v))) ∧
  (∀ l d a b m kd ka kb : Nat, d < 128 → a < 128 → b < 128 → l < 8 → (m = 1 ∨ m = 2 ∨ m = 3) →
    let w := m * 2 ^ 24 + d * 2 ^ 17 + a * 2 ^ 10 + b * 2 ^ 3 + l
    let ok (x y : Nat) : Bool := if x < 96 then decide (y < 96) else decide (y < 128)
    strideWord w kd ka kb = if ok d (d + kd) && ok a (a + ka) && ok b (b + kb) then
      some (m * 2 ^ 24 + (d + kd) * 2 ^ 17 + (a + ka) * 2 ^ 10 + (b + kb) * 2 ^ 3 + l) else none)

/-! ### Tiles and accumulators (05_matrix.md) -/

/-- R137 to R140, R158 to R162: KSHAPE writes a valid shape or traps ILLFMT with it; KZERO, KMOV and KTR at their tiles' bytes,
here unclaimed and without poison; KLD and KST move raw rows and scales, KLDT of the tile's own format copies elements and
scales. R141, R142, R163 to R165: AZERO clears an accumulator; ALD and AST move the window that s[s + 2] names between its
rows and memory; ACVT converts it to the tile's format, each element or block rounded in the instruction's mode, its flags in
FCSR. The model's choices in it: that KST and AST perform their stores at once, in their own step (log 1, 11), and that the TVAL of
KSHAPE's ILLFMT has bits [63:40] cleared (log 24). -/
def Obligations.TileMoves : Prop :=
  ((∀ (d x : Nat) (s : State), Ready .t [.r x] s →
     let w := BitVec.ofNat 64 ((s.ctx.rs x).toNat % 2 ^ 40)
     exec (.kshape d x) s =
       .next (if shapeValid w then retire (s.setCtx { s.ctx with ksh := tabSet s.ctx.ksh d w }) else takeTrap s ⟨cILLFMT, w⟩)) ∧
   (∀ (d a : Nat) (s : State), Ready .t [] s →
     let k := s.mySpurKey
     let p := s.spur k
     let t := shapeOf (tabGet s.ctx.ksh d 0)
     let u := shapeOf (tabGet s.ctx.ksh a 0)
     let free (t : Shape) : Prop := t.start + t.size ≤ p.size .til ∧ p.claimed .til t.start t.size = false
     free t → shapeValid (tabGet s.ctx.ksh d 0) = true →
     exec (.kzero d) s = .next (retire (s.setSpur k (p.wr .til t.start
       (List.replicate t.eBytes (if t.fmt = 9 then 0x88#8 else 0#8) ++ List.replicate t.sBytes 0x7F#8)))) ∧
     (free u → p.poisonAt .til u.start u.size = none →
       (t.fmt = u.fmt → t.rows = u.rows → t.cols = u.cols → t.blg = u.blg →
         exec (.kmov d a) s = .next (retire (s.setSpur k (p.wr .til t.start (p.rd .til u.start u.size))))) ∧
       (t.fmt = u.fmt → t.rows = u.cols → t.cols = u.rows → blocked t.fmt = false →
         exec (.ktr d a) s = .next (retire (s.setSpur k (p.wr .til t.start (rowBytes t.fmt
           ((List.range t.rows).flatMap fun r => (List.range t.cols).map fun c => p.elem u c r)))))))) ∧
   (∀ (d x : Nat) (s : State) (el sc : Nat → List Byte),
     let k := s.mySpurKey
     let p := s.spur k
     let t := shapeOf (tabGet s.ctx.ksh d 0)
     let n := if blocked t.fmt then 4 else 2
     let bytes := (List.range t.rows).flatMap el ++ if blocked t.fmt then (List.range t.rows).flatMap sc else []
     Ready .t [.grp x n] s → t.fmt ≠ 0 → t.start + t.size ≤ p.size .til →
     (s.ctx.rs x).toNat % fmtAlign t.fmt = 0 → (s.ctx.rs (x + 1)).toNat % fmtAlign t.fmt = 0 →
     (∀ i < t.rows, ReadsAs s (rowVa (s.ctx.rs x) (s.ctx.rs (x + 1)) i) t.rowBytesN (el i)) →
     (∀ i < t.rows, blocked t.fmt = true → ReadsAs s (rowVa (s.ctx.rs (x + 2)) (s.ctx.rs (x + 3)) i) t.rowScales (sc i)) →
     p.claimed .til t.start bytes.length = false →
     ∃ u, exec (.kld d x) s = .next u ∧ u.ctx = (retire s).ctx ∧ u.mem = s.mem ∧
       (u.spur k).pool = (p.wr .til t.start bytes).pool) ∧
   (∀ (d x : Nat) (s : State) (ek sk : Nat → List Nat),
     let p := s.spur s.mySpurKey
     let t := shapeOf (tabGet s.ctx.ksh d 0)
     let n := if blocked t.fmt then 4 else 2
     let bs := p.rd .til t.start t.size
     Ready .t [.grp x n] s → t.fmt ≠ 0 → t.start + t.size ≤ p.size .til → p.claimed .til t.start t.size = false →
     p.poisonAt .til t.start t.size = none → pendStores s.me < 32 →
     (s.ctx.rs x).toNat % fmtAlign t.fmt = 0 → (s.ctx.rs (x + 1)).toNat % fmtAlign t.fmt = 0 →
     (∀ i < t.rows, StoresAt s (rowVa (s.ctx.rs x) (s.ctx.rs (x + 1)) i) t.rowBytesN (ek i)) →
     (∀ i < t.rows, blocked t.fmt = true → StoresAt s (rowVa (s.ctx.rs (x + 2)) (s.ctx.rs (x + 3)) i) t.rowScales (sk i)) →
     (0 < t.rows) →
     let els := (List.range t.rows).foldl (fun m i => memSets m (ek i) ((bs.drop (i * t.rowBytesN)).take t.rowBytesN)) s.mem
     ∃ u, exec (.kst d x) s = .next u ∧ u.ctx = (retire (s.setCtx s.sided)).ctx ∧
       u.mem = (if blocked t.fmt then (List.range t.rows).foldl (fun m i =>
         memSets m (sk i) ((bs.drop (t.eBytes + i * t.rowScales)).take t.rowScales)) els else els)) ∧
   (∀ (d x : Nat) (s : State) (el sc : Nat → Nat → List Byte),
     let k := s.mySpurKey
     let p := s.spur k
     let t := shapeOf (tabGet s.ctx.ksh d 0)
     let row (i : Nat) : Word := rowPtr (s.ctx.rs x) (s.ctx.rs (x + 1)) i
     let srow (i : Nat) : Word := rowPtr (s.ctx.rs (x + 2)) (s.ctx.rs (x + 3)) i
     let bytes := rowBytes t.fmt ((List.range t.rows).flatMap fun i => (List.range t.cols).map fun j => nibble (row i) j (leNat (el i j)))
       ++ if blocked t.fmt then (List.range t.rows).flatMap fun i => (List.range t.rowScales).map fun b =>
         BitVec.ofNat 8 (leNat (sc i b)) else []
     Ready .t [.grp x 4] s → shapeValid (tabGet s.ctx.ksh d 0) = true → fmtOk t.fmt t.blg = true → ptrFmt (s.ctx.rs x) = t.fmt → ptrBlg (s.ctx.rs x) = t.blg →
     t.start + t.size ≤ p.size .til → (s.ctx.rs x).toNat % 2 ^ 56 % fmtAlign t.fmt = 0 →
     (s.ctx.rs (x + 1)).toNat % fmtAlign t.fmt = 0 →
     (blocked t.fmt = true → ∀ i < t.rows, typedIndex (row i) 0 % 2 ^ t.blg = 0) →
     (∀ i < t.rows, ∀ j < t.cols, ReadsAs s (typedAddr (row i) j % 2 ^ 56) (elemBytes t.fmt) (el i j)) →
     (blocked t.fmt = true → ∀ i < t.rows, ∀ b < t.rowScales,
       ReadsAs s (typedScale (row i) (srow i) (b * 2 ^ t.blg)) 1 (sc i b)) →
     p.claimed .til t.start bytes.length = false →
     ∃ u, exec (.kldt d x) s = .next u ∧ u.ctx = (retire s).ctx ∧ u.mem = s.mem ∧
       (u.spur k).pool = (p.wr .til t.start bytes).pool) ∧
   (∀ (d x : Nat) (s : State) (el sc : Nat → Nat → List Byte),
     let k := s.mySpurKey
     let p := s.spur k
     let t := shapeOf (tabGet s.ctx.ksh d 0)
     let f := ptrFmt (s.ctx.rs x)
     let row (i : Nat) : Word := rowPtr (s.ctx.rs x) (s.ctx.rs (x + 1)) i
     let srow (i : Nat) : Word := rowPtr (s.ctx.rs (x + 2)) (s.ctx.rs (x + 3)) i
     let g := if t.fmt = 2 then bf16 else if t.fmt = 3 then fp16 else if t.fmt = 12 then fp64 else fp32
     let v := { fenvOf s 7 with rm := 0 }
     let raw (i j : Nat) : Nat := nibble (row i) j (leNat (el i j))
     let rs := (List.range t.rows).flatMap fun i => (List.range t.cols).map fun j =>
       convVal g v 0 (if blocked f = true then scaledVal f (raw i j) (leNat (sc i j)) else elemVal f (raw i j))
     let bytes := rowBytes t.fmt (rs.map (·.1))
     Ready .t [.grp x 4] s → fmtOk f (ptrBlg (s.ctx.rs x)) = true → (f ≠ t.fmt ∨ ptrBlg (s.ctx.rs x) ≠ t.blg) →
     (t.fmt = 1 ∨ t.fmt = 2 ∨ t.fmt = 3 ∨ t.fmt = 12) → t.start + t.size ≤ p.size .til →
     (s.ctx.rs x).toNat % 2 ^ 56 % fmtAlign f = 0 → (s.ctx.rs (x + 1)).toNat % fmtAlign f = 0 →
     (∀ i < t.rows, ∀ j < t.cols, ReadsAs s (typedAddr (row i) j % 2 ^ 56) (elemBytes f) (el i j)) →
     (blocked f = true → ∀ i < t.rows, ∀ j < t.cols, ReadsAs s (typedScale (row i) (srow i) j) 1 (sc i j)) →
     p.claimed .til t.start bytes.length = false →
     ∃ u, exec (.kldt d x) s = .next u ∧ u.ctx = (retire (s.setCtx (s.ctx.rounded (unionFlags (rs.map (·.2))) false))).ctx ∧
       u.mem = s.mem ∧ (u.spur k).pool = (p.wr .til t.start bytes).pool)) ∧
  ((∀ (c : Nat) (s : State), Ready .t [] s →
     let p := s.spur s.mySpurKey
     c * 65536 + 65536 ≤ p.size .acc → p.claimed .acc (c * 65536) 65536 = false →
     exec (.azero c) s = .next (retire (s.setSpur s.mySpurKey (p.wr .acc (c * 65536) (List.replicate 65536 0))))) ∧
   (∀ (c ty x : Nat) (s : State),
     let p := s.spur s.mySpurKey
     let w := s.ctx.rs (x + 2)
     let m := if winRows w = 0 then 128 else winRows w
     let n := if winCols w = 0 then atCols ty else winCols w
     let off (i : Nat) : Nat := c * 65536 + (winRow w + i) * 512 + winCol w * atSize ty
     Ready .t [.grp x 3] s → winRow w + m ≤ 128 → winCol w + n ≤ atCols ty → (c + 1) * 65536 ≤ p.size .acc →
     (s.ctx.rs x).toNat % atSize ty = 0 → (s.ctx.rs (x + 1)).toNat % atSize ty = 0 →
     (∀ i < m, p.claimed .acc (off i) (n * atSize ty) = false) →
     (∀ bs : Nat → List Byte, (∀ i < m, ReadsAs s (rowVa (s.ctx.rs x) (s.ctx.rs (x + 1)) i) (n * atSize ty) (bs i)) →
       ∃ t, exec (.ald c ty x) s = .next t ∧ t.ctx = (retire s).ctx ∧ t.mem = s.mem ∧
         (t.spur s.mySpurKey).pool = ((List.range m).foldl (fun (q : Spur) i => q.wr .acc (off i) (bs i)) p).pool) ∧
     (∀ keys : Nat → List Nat, (∀ i < m, StoresAt s (rowVa (s.ctx.rs x) (s.ctx.rs (x + 1)) i) (n * atSize ty) (keys i)) →
       (∀ i < m, p.poisonAt .acc (off i) (n * atSize ty) = none) → pendStores s.me < 32 →
       ∃ t, exec (.ast c ty x) s = .next t ∧ t.ctx = (retire (s.setCtx s.sided)).ctx ∧
         t.mem = (List.range m).foldl (fun mem i => memSets mem (keys i) (p.rd .acc (off i) (n * atSize ty))) s.mem)) ∧
   (∀ (d c ty r x : Nat) (s : State),
     let p := s.spur s.mySpurKey
     let w := s.ctx.rs x
     let t := shapeOf (tabGet s.ctx.ksh d 0)
     let v := fenvOf s r
     let off (i : Nat) : Nat := c * 65536 + (winRow w + i) * 512 + winCol w * atSize ty
     let old (i j : Nat) : Nat := leNat (p.rd .acc (off i + j * atSize ty) (atSize ty))
     let draw (i j : Nat) : Nat := v.draw (winRow w + i) (winCol w + j)
     Ready .t [.r x] s → acvtPair ty t.fmt = true → t.start + t.size ≤ p.size .til → p.claimed .til t.start t.size = false →
     shapeValid (tabGet s.ctx.ksh d 0) = true → winRow w + t.rows ≤ 128 → winCol w + t.cols ≤ atCols ty →
     (c + 1) * 65536 ≤ p.size .acc →
     (∀ i < t.rows, p.claimed .acc (off i) (t.cols * atSize ty) = false ∧ p.poisonAt .acc (off i) (t.cols * atSize ty) = none) →
     let rs := (List.range t.rows).flatMap fun i => (List.range t.cols).map fun j => acvtElem ty t.fmt v (draw i j) (old i j)
     (blocked t.fmt = false →
       ∃ u, exec (.acvt d c ty r x) s = .next u ∧ u.mem = s.mem ∧
         u.ctx = (retire (s.setCtx (s.ctx.rounded (unionFlags (rs.map (·.2)))
           (v.rm == 5 && !(ty == 2 && (t.fmt == 10 || t.fmt == 11)))))).ctx ∧
         (u.spur s.mySpurKey).pool = (p.wr .til t.start (rowBytes t.fmt (rs.map (·.1)))).pool) ∧
     (blocked t.fmt = true →
       let g := if ty = 1 then fp64 else fp32
       let blk (i b : Nat) := encodeBlock t.fmt v (fun j => draw i (b * 2 ^ t.blg + j))
         ((List.range (2 ^ t.blg)).map fun j => g.readFtz v.ftz (old i (b * 2 ^ t.blg + j)))
       let blks := (List.range t.rows).flatMap fun i => (List.range (t.cols / 2 ^ t.blg)).map (blk i)
       ∃ u, exec (.acvt d c ty r x) s = .next u ∧ u.mem = s.mem ∧
         u.ctx = (retire (s.setCtx (s.ctx.rounded (unionFlags (blks.map (·.2.2))) (v.rm == 5 && t.fmt != 9)))).ctx ∧
         (u.spur s.mySpurKey).pool = (p.wr .til t.start (rowBytes t.fmt (blks.flatMap (·.2.1)) ++
           blks.map fun b => BitVec.ofNat 8 b.1)).pool)))

/-! ### Matrix products (05_matrix.md) -/

/-- R144, R145: an element of an integer product is its old value plus, or minus under NEG, the sum over the unmasked columns,
wrapped to 32 bits, with no flag, whatever the block length; and a block sum of finite products is exact. -/
def Obligations.ProductElements : Prop :=
  (∀ (p : Spur) (m : Mma) (blk i j : Nat), m.t = 2 → 0 < blk →
    let k := m.a.cols
    let lo := winKlo m.win
    let hi := if winKhi m.win = 0 then k else min (winKhi m.win) k
    let c : Int := if m.z then 0
      else sextN 32 (leNat (p.rd .acc (accOff m.acc 2 (winRow m.win + i) (winCol m.win + j)) 4))
    let sum := (((List.range k).filter fun x => decide (lo ≤ x ∧ x < hi)).map fun x =>
      sextN (elemBits m.a.fmt) (p.elem m.a i x) * sextN (elemBits m.b.fmt) (p.elem m.b j x)).foldl (· + ·) 0
    mmaOne p m blk i j = (((c + if m.neg then -sum else sum) % 2 ^ 32).toNat, 0)) ∧
  (∀ (xs : List Exact) (e0 : Int), xs ≠ [] → (∀ x ∈ xs, e0 ≤ x.e) →
    ∃ y : Exact, blockSum (xs.map .val) = .val y ∧ (y.m ≠ 0 → e0 ≤ y.e) ∧
      (if y.m = 0 then 0 else scaledInt y.neg y.m y.e e0) = (xs.map fun x => scaledInt x.neg x.m x.e e0).foldl (· + ·) 0)

/-- R149 to R156: GANG runs the KMMA or KMMR after it as one instruction and traps ILLOP before any other, after a fault on the
fetch of either word (R54), and either traps ILLOP without it; a member whose checks pass parks at its record; the last of the four
cores, of every spur of the ring for KMMR, starts the operation: every spur's product, then the rotation of kb, and every member goes on
past its pair with the flags; each said of the second word and of the pair that GANG makes with it. R150 to R152, R166, R305: the
events of gangs. The operation of a full record begins where the governor's gate and the bytes allow, and completes: its members go on,
or trap POISON; a parked member's WLIM, once reached, ends its wait in WLIMIT and breaks an open record, here one whose other members have
limits, and a broken one's in GANGBRK; a pair stalled for a record traps WLIMIT while there is none. The model's choices in it: log 1. -/
def Obligations.GangOperations : Prop :=
  ((∀ s : State, isSlot s.cur = true → ∀ w u, (fetchWord (s.ctx.pc + 4)).run s = .ok (w, u) →
     let v : State := { u with iw := w, mode := .ganged }
     (∀ c a b n z ty x, decodeLowWord w = .ok (.kmma c a b n z ty x) → exec .gang s = exec (.kmma c a b n z ty x) v) ∧
     (∀ c a b n z ty x, decodeLowWord w = .ok (.kmmr c a b n z ty x) → exec .gang s = exec (.kmmr c a b n z ty x) v) ∧
     (bits w 31 24 ≠ 0xB8 → bits w 31 24 ≠ 0xB9 → exec .gang s = .next (takeTrap u ⟨cILLOP, BitVec.ofNat 64 s.iw⟩))) ∧
   (∀ s : State, isSlot s.cur = false → ∀ w u, (fetchWord (s.ctx.pc + 4)).run s = .ok (w, u) →
     exec .gang s = .next (takeTrap u ⟨cILLOP, BitVec.ofNat 64 s.iw⟩)) ∧
   (∀ (s : State) (tr : Trap), (fetchWord (s.ctx.pc + 4)).run s = .error (.trap tr) → exec .gang s = .next (takeTrap s tr)) ∧
   (∀ (c a b n z ty x : Nat) (s : State), s.mode ≠ .ganged →
     exec (.kmma c a b n z ty x) s = .next (takeTrap s ⟨cILLOP, BitVec.ofNat 64 s.iw⟩) ∧
     exec (.kmmr c a b n z ty x) s = .next (takeTrap s ⟨cILLOP, BitVec.ofNat 64 s.iw⟩)) ∧
   (∀ (ring : Bool) (c a b n z ty x l : Nat) (s : State) (ps : List Nat) (out : Host.Outcome State Fault Refusal),
     let i : Instr := if ring then .kmmr c a b n z ty x else .kmma c a b n z ty x
     let d := dieOf s.cur
     let p := spurOf s.cur
     let id := s.ctx.gangid.toNat % 256
     let w := s.ctx.rs x
     let sa := shapeOf (tabGet s.ctx.ksh a 0)
     let sb := shapeOf (tabGet s.ctx.ksh b 0)
     let me : GangMember := ⟨s.cur, s.iw, w, tabGet s.ctx.ksh a 0, tabGet s.ctx.ksh b 0, fcsrFtz s.ctx.fcsr,
       if ring then s.ctx.ring else 0⟩
     let m : Mma := ⟨c, ty, z == 1, n == 1, w, sa, sb, fcsrFtz s.ctx.fcsr⟩
     s.mode = .ganged → Ready .t [.r x] s → decodeLowWord s.iw = .ok i →
     (out = exec i s ∨ ∃ (r u : State) (y : Nat), isSlot r.cur = true ∧ (fetchWord (r.ctx.pc + 4)).run r = .ok (y, u) ∧
       s = { u with iw := y, mode := .ganged } ∧ out = exec .gang r) →
     sa.fmt ≠ 0 → sb.fmt ≠ 0 → sa.cols = sb.cols → pairOf sa.fmt sa.blg sb.fmt sb.blg = some (ty, l) →
     sa.start + sa.size ≤ (s.spur (d, p)).size .til → sb.start + sb.size ≤ (s.spur (d, p)).size .til →
     winRow w + sa.rows ≤ 128 → winCol w + sb.rows ≤ atCols ty → (c + 1) * 65536 ≤ (s.spur (d, p)).size .acc →
     (if ring then ringSpurs p s.ctx.ring = some ps ∧ p ∈ ps ∧
       ∀ q ∈ ps, q ∈ s.myProg.quota ∧ (s.spur (d, q)).fenced = false else ps = [p]) →
     (findGang s d id ps = none → gangRoom s d ps = true →
       ∃ t g, out = .next t ∧ t.ctx = s.ctx ∧ t.me.wait = .gang id ∧ findGang t d id ps = some g ∧ g.state = .opened ∧
         g.spurs = ps ∧ g.members = [me] ∧ ∀ k, t.spur k = s.spur k) ∧
     (∀ g, findGang s d id ps = some g → g.state = .opened → g.spurs = ps → g.gone = [] →
       (g.members.map fun y => coreAt y.who).contains (coreAt s.cur) = false → (g.members.map (·.who)).Nodup →
       (∀ y ∈ g.members, { y with who := s.cur } = me ∧ dieOf y.who = d) →
       (∀ q ∈ ps, ∀ k < 4, (q, k) = coreAt s.cur ∨ (q, k) ∈ g.members.map fun y => coreAt y.who) →
       s.defer = false → (∀ h ∈ (s.die d).gangs, h.state ≠ .started ∧ h.begun = false) → (s.die d).cycle % 64 < mgateOf (s.die d).level →
       (∀ q ∈ ps, mmaBlocked (s.spur (d, q)) m = false ∧ mmaPoison (s.spur (d, q)) m (ring && decide (1 < ps.length)) = none) →
       let res (q : Nat) := mmaSpur (s.spur (d, q)) m l
       let fl := unionFlags (ps.map fun q => (res q).2)
       let src (j : Nat) : Nat := if ringDir s.ctx.ring then (j + 1) % ps.length else (j + ps.length - 1) % ps.length
       ∃ t, out = .next t ∧ findGang t d id ps = none ∧
         (∀ j q, ps[j]? = some q → (t.spur (d, q)).pool =
           if ring = true ∧ 1 < ps.length then ((res q).1.wr .til sb.start ((s.spur (d, ps.getD (src j) 0)).rd .til sb.start sb.size)).pool
           else (res q).1.pool) ∧
         t.ctx = (retire (s.setCtx { s.ctx with fcsr := fcsrRaise s.ctx.fcsr fl })).ctx ∧ t.me.wait = .none ∧
         ∀ y ∈ g.members, (t.agent y.who).wait = .none ∧ (t.agent y.who).ctx.pc = (s.agent y.who).ctx.pc + 8 ∧
           (t.agent y.who).ctx.fcsr = fcsrRaise (s.agent y.who).ctx.fcsr fl))) ∧
  ((∀ (d p id : Nat) (s : State) (g : Gang), findGang s d id [p] = some g → mayStart s d g = true →
     ∃ t h, exec (.matrixOpStart d p id) s = .next t ∧ findGang t d id [p] = some h ∧ h.state = .started ∧
       h.begun = true ∧ h.members = g.members ∧ h.spurs = g.spurs ∧ t.nextEng = s.nextEng + 1 ∧ t.agents = s.agents) ∧
   (∀ (d p id : Nat) (s : State) (g : Gang), findGang s d id [p] = some g → g.begun = true → (g.members.map (·.who)).Nodup →
     ∃ t, exec (.matrixOpComplete d p id) s = .next t ∧ findGang t d id [p] = none ∧ t.mem = s.mem ∧
       (g.bad = none → ∀ y ∈ g.members, (t.agent y.who).wait = .none ∧ (t.agent y.who).ctx.pc = (s.agent y.who).ctx.pc + 8 ∧
         (t.agent y.who).ctx.fcsr = fcsrRaise (s.agent y.who).ctx.fcsr g.fl) ∧
       (∀ v, g.bad = some v → ∀ y ∈ g.members, inhibited (s.agent y.who).ctx = false → handler (s.agent y.who).ctx ≠ 0 →
         (t.agent y.who).ctx = (s.agent y.who).ctx.trapped ⟨cPOISON, v⟩ (s.agent y.who).ctx.pc)) ∧
   (∀ (who : AgentId) (id : Nat) (s : State) (g : Gang), (s.agent who).wait = .gang id →
     findGang s (dieOf who) id [spurOf who] = some g → due s who = true → (∃ y ∈ g.members, y.who = who) →
     inhibited (s.agent who).ctx = false → handler (s.agent who).ctx ≠ 0 →
     (g.state = .opened → ∃ t, exec (.gangParkExpiry who) s = .next t ∧
       (t.agent who).ctx = (s.agent who).ctx.trapped ⟨cWLIMIT, BitVec.ofNat 64 (id * 256 + 0x10)⟩ (s.agent who).ctx.pc ∧
       (t.agent who).wait = .none ∧
       (g.full = false → (∀ y ∈ g.members, y.who = who ∨ bounded s y.who = true) →
         ∃ h, findGang t (dieOf who) id [spurOf who] = some h ∧ h.state = .broken ∧ coreAt who ∈ h.gone ∧
           h.members = g.members.filter fun y => y.who ≠ who)) ∧
     (g.state = .broken → ∃ t, exec (.gangParkExpiry who) s = .next t ∧
       (t.agent who).ctx = (s.agent who).ctx.trapped ⟨cGANGBRK, BitVec.ofNat 64 (id * 256)⟩ (s.agent who).ctx.pc ∧
       (t.agent who).wait = .none)) ∧
   (∀ (who : AgentId) (id : Nat) (sp : List Nat) (s : State), (s.agent who).wait = .gangRoom id sp → due s who = true →
     (gangStalls s (dieOf who) id sp = false → exec (.gangRecordStallExpiry who) s = .next s) ∧
     (gangStalls s (dieOf who) id sp = true → inhibited (s.agent who).ctx = false → handler (s.agent who).ctx ≠ 0 →
       ∃ t, exec (.gangRecordStallExpiry who) s = .next t ∧
         (t.agent who).ctx = (s.agent who).ctx.trapped ⟨cWLIMIT, BitVec.ofNat 64 (id * 256 + 0x11)⟩ (s.agent who).ctx.pc ∧
         (t.agent who).wait = .none)))

/-! ### Engines of a spur (06_sparse.md, 08_memory_instr.md) -/

/-- R240 to R244, R434: CPY and CPY2D from memory to memory move every row and then raise the counter, at once or in the
spur's queue, and write only there where a destination byte is a source byte by another address; between memory and SCR or TIL they move
every row in the same way; a full queue answers BUSY, and a bad length or row count, an unknown space or overlapping ranges of memory
RANGE, with nothing else done; CPWAIT waits for the thread's commands, of every spur of the die, and reports how many stopped. The
model's choices in it: log 1, 11; VALUE 0 of a refusal (log 24); that a CPWAIT which waits answers the same state (log 30). -/
def Obligations.CopyCommands : Prop :=
  (∀ (two : Bool) (d a b : Nat) (s : State),
    let i : Instr := if two then .cpy2d d a b else .cpy d a b
    let dst : Nat := (s.ctx.rs a).toNat % 2 ^ 56
    let src : Nat := (s.ctx.rs (a + 1)).toNat % 2 ^ 56
    let len := (s.ctx.rs (a + 2)).toNat
    let ctl := (s.ctx.rs b).toNat
    let ctr := (s.ctx.rs (b + 1)).toNat
    let rows := if two then (s.ctx.rs (b + 2)).toNat else 1
    let dstr := if two then (s.ctx.rs (b + 3)).toInt else 0
    let sstr := if two then (s.ctx.rs (b + 4)).toInt else 0
    let bad := if two then 65536 < len ∨ 65536 < rows else 2 ^ 26 < len
    let meet := ∃ r < rows, ∃ q < rows, 0 < len ∧ (((src : Int) + q * sstr - (dst + r * dstr)) % 2 ^ 56 < len ∨
      ((dst : Int) + r * dstr - (src + q * sstr)) % 2 ^ 56 < len)
    Ready .t [.w d, .grp a 3, .grp b (if two then 5 else 2)] s → ctr % 8 = 0 →
    (s.myProg.spawning = true → roPages s = [] ∧ ∃ ck, Counter s ctr ck) →
    (ctl % 4 = 0 ∨ ctl % 4 = 3) → (ctl / 4 % 4 = 0 ∨ ctl / 4 % 4 = 3) →
    bad ∨ ctl % 4 = 3 ∨ ctl / 4 % 4 = 3 ∨ meet → exec i s = .next (s.doneS d (status kRANGE 0 0) false)) ∧
  (∀ (two : Bool) (d a b : Nat) (s : State) (sk dk : Nat → List Nat) (ck : List Nat),
    let i : Instr := if two then .cpy2d d a b else .cpy d a b
    let p := s.spur s.mySpurKey
    let dst : Nat := (s.ctx.rs a).toNat % 2 ^ 56
    let src : Nat := (s.ctx.rs (a + 1)).toNat % 2 ^ 56
    let len := (s.ctx.rs (a + 2)).toNat
    let ctl := (s.ctx.rs b).toNat
    let ctr := (s.ctx.rs (b + 1)).toNat
    let rows := if two then (s.ctx.rs (b + 2)).toNat else 1
    let dstr := if two then (s.ctx.rs (b + 3)).toInt else 0
    let sstr := if two then (s.ctx.rs (b + 4)).toInt else 0
    let row (x : Nat) (st : Int) (r : Nat) : Nat := (((x : Int) + r * st) % 2 ^ 56).toNat
    Ready .t [.w d, .grp a 3, .grp b (if two then 5 else 2)] s → Counter s ctr ck → ctl % 4 = 0 → s.owned = [] → s.me.pend = [] →
    s.me.wait = .none → s.feWait = [] → s.moves = [] →
    (∀ r < rows, WritesFor (tlbSpur s.cur) s (row dst dstr r) len (dk r)) →
    (ctl / 4 % 4 = 0 → (if two then len ≤ 65536 ∧ rows ≤ 65536 else len ≤ 2 ^ 26) →
      (∀ r < rows, ∀ q < rows, 0 < len → (len : Int) ≤ ((src : Int) + q * sstr - (dst + r * dstr)) % 2 ^ 56 ∧
        (len : Int) ≤ ((dst : Int) + r * dstr - (src + q * sstr)) % 2 ^ 56) →
      (16 ≤ p.copyQ.length → exec i s = .next (s.doneS d (status kBUSY 0 0) false)) ∧
      (p.copyQ.length < 16 → (∀ r < rows, EngKeys .read s (row src sstr r) len (sk r) ∧ ∀ k ∈ sk r, s.poisoned k = false ∧ s.spillKey k = false) →
        (s.defer = false → ∃ t, exec i s = .next t ∧
          t.ctx = (retire (s.setCtx (s.sided.ws d (status kOK (len * rows) 0) false))).ctx ∧
          (∀ k, k ∉ ck → (∀ r < rows, k ∉ dk r) → memGet t.mem k = memGet s.mem k) ∧
          ((∀ r < rows, ∀ q < rows, ∀ k ∈ dk r, k ∉ sk q) →
            t.mem = counted ((List.range rows).foldl (fun m r => memSets m (dk r) (memGets s.mem (sk r))) s.mem) ck)) ∧
        (s.defer = true → 0 < len * rows → ∃ t c, exec i s = .next t ∧ t.mem = s.mem ∧
          t.ctx = (retire (s.setCtx (s.sided.ws d (status kOK (len * rows) 0) false))).ctx ∧
          (t.spur s.mySpurKey).copyQ = p.copyQ ++ [c] ∧ c.dst = dst ∧ c.src = src ∧ c.len = len ∧ c.rows = rows ∧ c.ctr = ctr ∧
          (∀ r < rows, ∀ k ∈ dk r, t.ownedLine k = true))))) ∧
  (∀ (two : Bool) (d a b : Nat) (s : State) (mk : Nat → List Nat) (ck : List Nat) (role : Role) (sp : Nat),
    let i : Instr := if two then .cpy2d d a b else .cpy d a b
    let p := s.spur s.mySpurKey
    let len := (s.ctx.rs (a + 2)).toNat
    let ctl := (s.ctx.rs b).toNat
    let ctr := (s.ctx.rs (b + 1)).toNat
    let rows := if two then (s.ctx.rs (b + 2)).toNat else 1
    let dstr := if two then (s.ctx.rs (b + 3)).toInt else 0
    let sstr := if two then (s.ctx.rs (b + 4)).toInt else 0
    let va (x : Word) (st : Int) (r : Nat) : Nat := (((x.toNat % 2 ^ 56 : Nat) + r * st : Int) % 2 ^ 56).toNat
    let off (x : Word) (st : Int) (r : Nat) : Int := (x.toNat : Int) + r * st
    let fits (x : Word) (st : Int) : Prop := ∀ r < rows, 0 ≤ off x st r ∧ off x st r + len ≤ p.size role
    (sp = 1 ∧ role = .scr) ∨ (sp = 2 ∧ role = .til) →
    Ready .t [.w d, .grp a 3, .grp b (if two then 5 else 2)] s → Counter s ctr ck → s.owned = [] → s.me.pend = [] →
    s.me.wait = .none → s.feWait = [] → s.moves = [] → p.claims = [] → p.notice.pending = false → p.copyQ.length < 16 →
    (if two then len ≤ 65536 ∧ rows ≤ 65536 else len ≤ 2 ^ 26) → s.defer = false →
    (ctl % 4 = sp → ctl / 4 % 4 = 0 → fits (s.ctx.rs a) dstr →
      (∀ r < rows, EngKeys .read s (va (s.ctx.rs (a + 1)) sstr r) len (mk r) ∧ ∀ k ∈ mk r, s.poisoned k = false ∧ s.spillKey k = false) →
      ∃ t, exec i s = .next t ∧ t.ctx = (retire (s.setCtx (s.sided.ws d (status kOK (len * rows) 0) false))).ctx ∧
        t.mem = counted s.mem ck ∧ (t.spur s.mySpurKey).pool = ((List.range rows).foldl (fun (q : Spur) r =>
          q.wr role (off (s.ctx.rs a) dstr r).toNat (memGets s.mem (mk r))) p).pool) ∧
    (ctl % 4 = 0 → ctl / 4 % 4 = sp → fits (s.ctx.rs (a + 1)) sstr →
      (∀ r < rows, WritesFor (tlbSpur s.cur) s (va (s.ctx.rs a) dstr r) len (mk r) ∧
        p.poisonAt role (off (s.ctx.rs (a + 1)) sstr r).toNat len = none) →
      ∃ t, exec i s = .next t ∧ t.ctx = (retire (s.setCtx (s.sided.ws d (status kOK (len * rows) 0) false))).ctx ∧
        t.mem = counted ((List.range rows).foldl (fun m r =>
          memSets m (mk r) (p.rd role (off (s.ctx.rs (a + 1)) sstr r).toNat len)) s.mem) ck)) ∧
  (∀ (d : Nat) (s : State), Ready .t [.w d] s →
    ((∃ x ∈ s.spurs, x.1.1 = dieOf s.cur ∧ ∃ c ∈ x.2.copyQ, ownCmd s c = true) → exec (.cpwait d) s = .next s) ∧
    ((∀ x ∈ s.spurs, x.1.1 = dieOf s.cur → ∀ c ∈ x.2.copyQ, ownCmd s c = false) →
      exec (.cpwait d) s =
        .next (retire (s.setCtx ({ s.ctx with cpErr := 0 }.ws d (status kOK s.ctx.cpErr 0) false)))))

/-- R168 to R172: GATH moves the rows that its list names, of memory, to TIL or SCR, each index read after the rows before it
are written, an index from its limit on giving a row of zeros, and raises the counter; NZSCAN writes the numbers of the
nonzero elements and their count; each runs at once, or goes on alone. R172, R210, R242, R244: the events of the engines. A
command whose data moves and that names no counter leaves its queue, its lines and pool bytes free, and the engine commands of
its program are one fewer; a command that can only stop gives up its lines, and leaves too unless its report is still to be made or its
counter to be marked; a scan that waited completes with what it would have done at issue. The model's choices in it: log 1; VALUE 0 of a refusal (log 24); what a
stopped command gives up, and how long it stays in its queue (log 31). -/
def Obligations.GatherAndScan : Prop :=
  ((∀ (d a b : Nat) (s : State) (ib rb : Nat → List Byte) (ck : List Nat),
     let k := s.mySpurKey
     let p := s.spur k
     let list := s.ctx.rs a
     let m := (s.ctx.rs (a + 1)).toNat
     let ctl := (s.ctx.rs (a + 2)).toNat
     let base := s.ctx.rs b
     let size := (s.ctx.rs (b + 1)).toNat
     let stride := s.ctx.rs (b + 2)
     let dst := (s.ctx.rs (b + 3)).toNat
     let iw := if ctl % 2 = 1 then 8 else 4
     let role : Role := if ctl / 2 % 2 = 1 then .til else .scr
     let x (r : Nat) : Nat := leNat (ib r)
     let zero (r : Nat) : Prop := ctl / 2 ^ 32 ≠ 0 ∧ ctl / 2 ^ 32 ≤ x r
     let q (r : Nat) : Spur := (List.range r).foldl (fun (q : Spur) r => q.wr role (dst + r * size) (rb r)) p
     Ready .t [.w d, .grp a 3, .grp b 5] s → Counter s (s.ctx.rs (b + 4)).toNat ck → s.owned = [] → s.me.pend = [] →
     s.me.wait = .none → s.feWait = [] → s.moves = [] → p.notice.pending = false → p.claims = [] →
     dst + m * size ≤ p.size role → (ctl / 4 % 2 = 1 → list.toNat + m * iw ≤ p.size .scr) →
     size % 4 = 0 → base.toNat % 4 = 0 → stride.toNat % 4 = 0 → dst % 4 = 0 → list.toNat % iw = 0 →
     ((size < 4 ∨ 4096 < size ∨ 65536 < m) → exec (.gath d a b) s = .next (s.doneS d (status kRANGE 0 0) false)) ∧
     (4 ≤ size → size ≤ 4096 → m ≤ 65536 →
       (16 ≤ p.gathQ.length → exec (.gath d a b) s = .next (s.doneS d (status kBUSY 0 0) false)) ∧
       (p.gathQ.length < 16 → s.defer = true → 0 < m → ∃ t c, exec (.gath d a b) s = .next t ∧ t.mem = s.mem ∧
         t.ctx = (retire (s.setCtx (s.sided.ws d (status kOK m 0) false))).ctx ∧ (t.spur k).gathQ = p.gathQ ++ [c] ∧
         c.gather = true ∧ c.rows = m ∧ c.len = size ∧ c.dst = dst) ∧
       (p.gathQ.length < 16 → s.defer = false →
         (∀ r < m, if ctl / 4 % 2 = 1 then
             (q r).poisonAt .scr (list.toNat + r * iw) iw = none ∧ ib r = (q r).rd .scr (list.toNat + r * iw) iw
           else EngReads s ((list.toNat % 2 ^ 56 + r * iw) % 2 ^ 56) iw (ib r)) →
         (∀ r < m, (zero r → rb r = List.replicate size 0) ∧
           (¬ zero r → EngReads s ((((base.toNat % 2 ^ 56 : Nat) : Int) + x r * stride.toInt) % 2 ^ 56).toNat size (rb r))) →
         ∃ t, exec (.gath d a b) s = .next t ∧ t.mem = counted s.mem ck ∧
           t.ctx = (retire (s.setCtx (s.sided.ws d (status kOK m 0) false))).ctx ∧
           (t.spur k).pool = (q m).pool))) ∧
   (∀ (d a b : Nat) (s : State) (el : Nat → List Byte),
     let p := s.spur s.mySpurKey
     let ptr := s.ctx.rs a
     let n := (s.ctx.rs (a + 1)).toNat
     let off := (s.ctx.rs b).toNat
     let f := ptrFmt ptr
     let hits := (List.range n).filter fun j => !(elemVal f (nibble ptr j (leNat (el j)))).isZero
     let bytes := hits.flatMap fun j => leBytes 4 (((s.ctx.rs (b + 1)).toNat + j) % 2 ^ 32)
     Ready .t [.w d, .grp a 2, .grp b 2] s → f ∈ [1, 2, 3, 4, 5, 10, 12] → ptrBlg ptr = 0 → off + 4 * n ≤ p.size .scr →
     ptr.toNat % 2 ^ 56 % max 1 (elemBits f / 8) = 0 → off % 4 = 0 →
     (65536 < n → exec (.nzscan d a b) s = .next (s.doneS d (status kRANGE 0 0) false)) ∧
     (n ≤ 65536 → s.defer = false ∨ n = 0 → p.claimed .scr off bytes.length = false →
       (∀ j < n, ReadsAs s (typedAddr ptr j % 2 ^ 56) (elemBytes f) (el j)) →
       ∃ t, exec (.nzscan d a b) s = .next t ∧ t.mem = s.mem ∧ t.ctx = (s.doneS d (status kOK hits.length 0) false).ctx ∧
         (t.spur s.mySpurKey).pool = (p.wr .scr off bytes).pool) ∧
     (n ≤ 65536 → 0 < n → s.defer = true → ∃ t r, exec (.nzscan d a b) s = .next t ∧ t.ctx = s.ctx ∧ t.me.wait = .unit r ∧
       r.op = .nzscan ∧ r.d = d))) ∧
  ((∀ (d p k : Nat) (gather : Bool) (s : State) (c : EngCmd), c.key = (d, p) →
     (if gather then (s.spur (d, p)).gathQ else (s.spur (d, p)).copyQ)[k]? = some c →
     (∀ u, c.refused = none → c.wait = none → c.log = none → c.data = false → c.ctr = 0 → s.feWait = [] → c.move.run s = .ok ((), u) →
       ∃ t, exec (if gather then .gatherCommandComplete d p k else .copyCommandComplete d p k) s = .next t ∧ t.mem = u.mem ∧
         (∀ x ∈ (t.spur (d, p)).copyQ ++ (t.spur (d, p)).gathQ, x.id ≠ c.id) ∧ (∀ y ∈ t.owned, y.id ≠ c.id) ∧
         (∀ y ∈ (t.spur (d, p)).claims, y.unit ≠ c.id) ∧ (t.prog (d, c.core)).e = (u.prog (d, c.core)).e - 1) ∧
     (∀ cause va, c.stops s = some (cause, va) →
       ∃ t, exec (.engineFaultStop d p (if gather then 2 else 1) k) s = .next t ∧
         (∀ x ∈ (t.spur (d, p)).copyQ ++ (t.spur (d, p)).gathQ, x.id = c.id → x.log.isSome = true ∨ (c.ctr ≠ 0 ∧ x.failed = true)) ∧
         (∀ y ∈ t.owned, y.id ≠ c.id))) ∧
   (∀ (who : AgentId) (s : State) (r : UnitReq) (ptr n off base : Word), (s.agent who).wait = .unit r → r.op = .nzscan →
     r.xs = [ptr, n, off, base] →
     exec (.nzscanComplete who) s = .next (finishWait who (scanBody r.d ptr n off base) s)))

/-! ### Arete and the gate unit (06_sparse.md) -/

/-- R173 to R176, R180, R183, R185: MGOPEN, MGAREA, MGEND and MGSTAT decide on the program's sessions of the die and answer
with a status; one that the move leaves under way waits for Arete's reply, which decides then. R177 to R179, R181 to R184:
MGPUT takes a batch that the session has room for, in order, and answers with the stream's position, after a spill of the entries on chip
where it needs one; it answers CLOSED, NOSESS, RANGE with the first bad triple, or SPILLFULL, with nothing taken; MGFIN writes the merged arrays of an ended session
whose spill area is intact (R179); the merge sorts by row and column, combines equal keys, and of integers gives the sum. The model's
choices in it: log 1, 40; VALUE 0 of a refusal, and that RANGE names the lowest bad triple (log 24). -/
def Obligations.SessionCommands : Prop :=
  ((∀ (d a : Nat) (s : State) (bs : List Byte), Ready .tm [.w d, .r a] s → (s.ctx.rs a).toNat % 2 ^ 56 % 64 = 0 →
     ReadsAs s ((s.ctx.rs a).toNat % 2 ^ 56) 64 bs → s.defer = false →
     let die := dieOf s.cur
     let all := (s.die die).arete
     let num := freeNum ((all.filter fun x => x.core == s.myKey.2).map (·.num))
     ∃ t, exec (.mgopen d a) s = .next t ∧ t.mem = s.mem ∧
       match sessionOf s.myKey.2 num bs with
       | none => Answered s t d (status kRANGE 0 0) ∧ (t.die die).arete = all
       | some x =>
         if 16 ≤ all.length ∨ 4194304 < all.foldl (fun n y => n + y.cap) x.cap then
           Answered s t d (status kNOFREE 0 0) ∧ (t.die die).arete = all
         else Answered s t d (status kOK num 0) ∧ (t.die die).arete = all ++ [x]) ∧
   (∀ (d a b : Nat) (s : State) (bs : List Byte), s.defer = true →
     let waits (i : Instr) (op : UnitOp) : Prop := ∃ t r, exec i s = .next t ∧ t.me.wait = .unit r ∧ r.op = op ∧ r.d = d ∧
       t.ctx = s.sided ∧ t.mem = s.mem ∧ (t.die (dieOf s.cur)).arete = (s.die (dieOf s.cur)).arete
     (Ready .tm [.w d, .r a] s → (s.ctx.rs a).toNat % 2 ^ 56 % 64 = 0 → ReadsAs s ((s.ctx.rs a).toNat % 2 ^ 56) 64 bs →
       waits (.mgopen d a) .mgopen) ∧
     (Ready .tm [.w d, .r a, .grp b 2] s → waits (.mgarea d a b) .mgarea ∧ waits (.mgstat d a b) .mgstat) ∧
     (Ready .tm [.w d, .r a, .r b] s → waits (.mgendEnd d a b) .mgend ∧ waits (.mgendAbandon d a b) .mgend)) ∧
   (∀ (d a b : Nat) (s : State), s.defer = false →
     let num := (s.ctx.rs a).toNat
     let all := (s.die (dieOf s.cur)).arete
     let mine (y : Session) : Bool := y.core == s.myKey.2 && y.num == num
     let becomes (t : State) (new : List Session) : Prop :=
       (t.die (dieOf s.cur)).arete = all.flatMap fun y => if mine y then new else [y]
     (Ready .tm [.w d, .r a, .grp b 2] s →
       (all.find? mine = none →
         (∃ t, exec (.mgarea d a b) s = .next t ∧ Answered s t d (status kNOSESS 0 0)) ∧
         (∃ t, exec (.mgstat d a b) s = .next t ∧ Answered s t d (status kNOSESS 0 0))) ∧
       (∀ x, all.find? mine = some x →
         let addr := (s.ctx.rs b).toNat % 2 ^ 56
         let size := (s.ctx.rs (b + 1)).toNat
         (x.state = .opened → addr % 64 = 0 → 0 < size → size % 64 = 0 → x.extents.length < 16 →
           let y := { x with extents := x.extents ++ [(addr, size)] }
           ∃ t, exec (.mgarea d a b) s = .next t ∧ Answered s t d (status kOK y.free64 0) ∧ becomes t [y]) ∧
         (x.state ≠ .opened → ∃ t, exec (.mgarea d a b) s = .next t ∧ Answered s t d (status kCLOSED 0 0)) ∧
         (∃ t w, let fl := if x.bad then Config.freeFlags s.free else x.flags
           exec (.mgstat d a b) s = .next t ∧ Answered s t d w ∧
           ((s.ctx.rs b).toNat = 0 → w = status kOK (match x.state with
             | .opened => 1
             | .ended => 2
             | .merging => 3) fl) ∧
           ((s.ctx.rs b).toNat = 1 → w = status kOK x.onchip fl) ∧
           ((s.ctx.rs b).toNat = 2 → w = status kOK x.runs fl) ∧
           ((s.ctx.rs b).toNat = 3 → w = status kOK x.free64 fl) ∧
           ((s.ctx.rs b).toNat = 4 → w = status kOK x.accepted fl) ∧
           ((s.ctx.rs b).toNat = 5 → size ≤ 4095 → w = status kOK (tabGet x.pos size 0) fl) ∧
           (5 < (s.ctx.rs b).toNat → w = status kRANGE 0 0)))) ∧
     (∀ f ∈ [Instr.mgendEnd, Instr.mgendAbandon], Ready .tm [.w d, .r a, .r b] s →
       (all.find? mine = none → ∃ t, exec (f d a b) s = .next t ∧ Answered s t d (status kNOSESS 0 0)) ∧
       (∀ x, all.find? mine = some x →
         (s.ctx.rs b = 0 → x.state = .opened → ∃ t, exec (f d a b) s = .next t ∧ Answered s t d (status kOK 0 0) ∧
           becomes t [{ x with state := .ended }]) ∧
         (s.ctx.rs b = 0 → x.state = .ended → ∃ t, exec (f d a b) s = .next t ∧ Answered s t d (status kCLOSED 0 0) ∧
           (t.die (dieOf s.cur)).arete = all) ∧
         (s.ctx.rs b = 1 → x.state ≠ .merging → ∃ t, exec (f d a b) s = .next t ∧ Answered s t d (status kOK 0 0) ∧
           becomes t []) ∧
         ((s.ctx.rs b).toNat ≤ 1 → x.state = .merging → ∃ t, exec (f d a b) s = .next t ∧ Answered s t d (status kBUSY 0 0) ∧
           (t.die (dieOf s.cur)).arete = all)))) ∧
   (∀ (who : AgentId) (s : State) (r : UnitReq), (s.agent who).wait = .unit r →
     r.op ∈ [UnitOp.mgopen, .mgarea, .mgend, .mgstat] →
     exec (.areteCommandReply who) s = .next (finishWait who (areteBody r) s))) ∧
  ((∀ (d a b : Nat) (s : State),
     let k := s.mySpurKey
     let p := s.spur k
     let num := (s.ctx.rs a).toNat
     let stream := (s.ctx.rs (a + 1)).toNat
     let off := (s.ctx.rs b).toNat
     let n := (s.ctx.rs (b + 1)).toNat
     let ts := triples n (p.rd .scr off (16 * n))
     let mine (y : Session) : Bool := y.core == s.myKey.2 && y.num == num
     let all := (s.die (dieOf s.cur)).arete
     let gives (w : Word) : Prop := ∃ t, exec (.mgput d a b) s = .next t ∧ Answered s t d w ∧ (t.die (dieOf s.cur)).arete = all
     Ready .t [.w d, .grp a 2, .grp b 2] s → off + 16 * n ≤ p.size .scr → off % 16 = 0 →
     p.claimed .scr off (16 * n) = false → p.poisonAt .scr off (16 * n) = none → Idle s →
     (s.defer = true → ∃ t r, exec (.mgput d a b) s = .next t ∧ t.me.wait = .unit r ∧ r.op = .mgput ∧
       r.bytes = p.rd .scr off (16 * n) ∧ (t.die (dieOf s.cur)).arete = all) ∧
     (s.defer = false →
       (all.find? mine = none → gives (status kNOSESS 0 0)) ∧
       (∀ x, all.find? mine = some x →
         (x.state ≠ .opened → gives (status kCLOSED 0 0)) ∧
         (x.state = .opened →
           ((4095 < stream ∨ 4096 < n ∨ x.cap < n ∨ 2 ^ 32 - 1 < x.accepted + n) → gives (status kRANGE 0 0)) ∧
           (stream ≤ 4095 → n ≤ 4096 → n ≤ x.cap → x.accepted + n < 2 ^ 32 →
             (∀ i t, ts[i]? = some t → (x.nrows ≤ t.1 ∨ x.ncols ≤ t.2.1) →
               (∀ j < i, ∀ t, ts[j]? = some t → t.1 < x.nrows ∧ t.2.1 < x.ncols) → gives (status kRANGE i 0)) ∧
             ((∀ t ∈ ts, t.1 < x.nrows ∧ t.2.1 < x.ncols) → 0 < n →
               let pos := tabGet x.pos stream 0
               let spill := (64 + 16 * x.onchip + 63) / 64 * 64
               (x.onchip + n ≤ x.cap → ∃ t, exec (.mgput d a b) s = .next t ∧ Answered s t d (status kOK pos 0) ∧
                 ∃ y, (t.die (dieOf s.cur)).arete = (all.flatMap fun z => if mine z then [y] else [z]) ∧
                   y.onchip = x.onchip + n ∧ y.accepted = x.accepted + n ∧ tabGet y.pos stream 0 = pos + n ∧
                   y.entries.length = x.entries.length + n ∧ y.state = .opened ∧
                   (∀ i t, ts[i]? = some t → y.entries[x.entries.length + i]? = some ⟨t.1, t.2.1, stream, pos + i,
                     if x.efmt = 0 then t.2.2 &&& 0xFFFFFFFF#64 else t.2.2⟩)) ∧
               (∀ va len ks, x.cap < x.onchip + n → x.runs < 4096 → x.extents = [(va, len)] → x.spilt + spill ≤ len →
                 (∀ z ∈ all, mine z = true ∨ z.extents = []) → WritesFor none s ((va + x.spilt) % 2 ^ 56) spill ks →
                 ∃ t, exec (.mgput d a b) s = .next t ∧ Answered s t d (status kOK pos 0) ∧
                   (∀ k, k ∉ ks → memGet t.mem k = memGet s.mem k) ∧
                   ∃ y, (t.die (dieOf s.cur)).arete = (all.flatMap fun z => if mine z then [y] else [z]) ∧
                     y.onchip = n ∧ y.runs = x.runs + 1 ∧ y.spilt = x.spilt + spill ∧ y.accepted = x.accepted + n ∧ y.bad = x.bad ∧
                     tabGet y.pos stream 0 = pos + n ∧ y.state = .opened ∧ y.entries.take x.entries.length = x.entries ∧
                     y.entries.length = x.entries.length + n ∧
                     (∀ i t, ts[i]? = some t → y.entries[x.entries.length + i]? = some ⟨t.1, t.2.1, stream, pos + i,
                       if x.efmt = 0 then t.2.2 &&& 0xFFFFFFFF#64 else t.2.2⟩)) ∧
               (x.cap < x.onchip + n → x.trapsf = false → 4096 ≤ x.runs → gives (status kSPILLFULL 0 0)) ∧
               (x.cap < x.onchip + n → x.trapsf = false → x.runs < 4096 → x.free < spill → gives (status kSPILLFULL spill 0)) ∧
               (x.cap < x.onchip + n → x.trapsf = true → x.runs < 4096 → x.free < spill → spill < 2 ^ 56 →
                 ∃ t, exec (.mgput d a b) s = .next t ∧
                   t.ctx = (takeTrap s ⟨cSPILLFULL, BitVec.ofNat 64 spill⟩).ctx))))))) ∧
   (∀ (d a b : Nat) (s : State) (x : Session) (k1 k2 k3 : List Nat),
     let num := (s.ctx.rs a).toNat
     let mine (y : Session) : Bool := y.core == s.myKey.2 && y.num == num
     let all := (s.die (dieOf s.cur)).arete
     let l := (mergeEntries x.efmt x.op x.entries).1
     let fl := x.flags ||| (mergeEntries x.efmt x.op x.entries).2
     let rows := (List.range (x.nrows + 1)).map fun r => (l.filter fun e => decide (e.1 < r)).length
     let es := if x.efmt = 0 then 4 else 8
     Ready .tm [.w d, .r a, .r b] s → s.ctx.rs b = 0 → Idle s → s.defer = false → all.find? mine = some x → x.state = .ended →
     x.merge = none → x.intact (mergeDests x x.rowptr x.colidx x.values x.capnnz) = true →
     (∀ y ∈ all, mine y = true ∨ y.extents = []) → WritesFor none s x.rowptr (4 * (x.nrows + 1)) k1 →
     WritesFor none s x.colidx (4 * x.capnnz) k2 → WritesFor none s x.values (es * x.capnnz) k3 →
     (∀ va n, (va, n) ∈ [(x.rowptr, 4 * (x.nrows + 1)), (x.colidx, 4 * x.capnnz), (x.values, es * x.capnnz)] →
       ∃ ks, KeysFor (tlbSpur s.cur) .write s va n ks) →
     ∃ t, exec (.mgfin d a b) s = .next t ∧ Answered s t d (status (if l.length ≤ x.capnnz then kOK else kRANGE) l.length fl) ∧
       t.mem = memSets (memSets (memSets s.mem k1 (rows.flatMap (leBytes 4))) k2
         ((l.take x.capnnz).flatMap fun e => leBytes 4 e.2.1)) k3 ((l.take x.capnnz).flatMap fun e => leBytes es e.2.2.toNat) ∧
       (t.die (dieOf s.cur)).arete = all.flatMap fun y => if mine y then
         (if l.length ≤ x.capnnz then [] else [{ x with state := .ended, flags := fl }]) else [y]) ∧
   (∀ (efmt op : Nat) (es : List Entry),
     let l := (mergeEntries efmt op es).1
     l.Pairwise (fun x y => x.1 < y.1 ∨ (x.1 = y.1 ∧ x.2.1 < y.2.1)) ∧
     (∀ r c, (∃ v, (r, c, v) ∈ l) ↔ ∃ e ∈ es, e.row = r ∧ e.col = c) ∧
     (efmt = 2 → op = 0 → ∀ r c v, (r, c, v) ∈ l →
       v = ((es.filter fun e => e.row == r && e.col == c).map (·.val)).foldl (· + ·) 0)) ∧
   (∀ (who : AgentId) (s : State) (r : UnitReq), (s.agent who).wait = .unit r → r.page = none →
     (r.op = .mgput → exec (.aretePutReply who) s =
       .next (asAgent who (s.agent who).wmode (fun t => settle t ((mgputBody r).run t)) s)) ∧
     (r.op = .mgfin → exec (.areteMergeComplete who) s =
       .next (asAgent who (s.agent who).wmode (fun t => settle t ((mgfinBody r).run t)) s))))

/-- R188 to R191: GTOPK, GHIST and GPERM on an idle gate unit write their four-byte lists and answer; operands out of range
answer RANGE and write nothing, and so does an index from E on; the ranking of GTOPK is a sort of the experts. The model's
choices in it: log 1; VALUE 0 of a refusal of operands, and that RANGE names the lowest position (log 24). -/
def Obligations.GateOperations : Prop :=
  (∀ (d a b : Nat) (s : State) (sc : Nat → Nat) (ok pk : List Nat),
    let die := dieOf s.cur
    let t := (s.ctx.rs (a + 1)).toNat
    let e := (s.ctx.rs (a + 2)).toNat
    let k := (s.ctx.rs (a + 3)).toNat
    let o := s.ctx.rs b
    let p := s.ctx.rs (b + 1)
    let best := (List.range t).flatMap fun i =>
      (sortBy ranksAbove ((List.range e).map fun j => (j, sc (i * e + j)))).take k
    Ready .tm [.w d, .grp a 4, .grp b 2] s → Idle s → s.defer = false → (s.die die).gateQ = [] →
    (s.ctx.rs a).toNat % 4 = 0 → o.toNat % 4 = 0 → p.toNat % 4 = 0 →
    (¬(1 ≤ t ∧ t ≤ 1048576 ∧ 1 ≤ e ∧ e ≤ 256 ∧ 1 ≤ k ∧ k ≤ 8 ∧ k ≤ e) →
      ∃ u, exec (.gtopk d a b) s = .next u ∧ Answered s u d (status kRANGE 0 0) ∧ u.mem = s.mem) ∧
    (1 ≤ t → t ≤ 1048576 → 1 ≤ e → e ≤ 256 → 1 ≤ k → k ≤ 8 → k ≤ e →
      (∀ i < t * e, sc i < 2 ^ 32 ∧
        BytesFor none s (((s.ctx.rs a).toNat % 2 ^ 56 + 4 * i) % 2 ^ 56) 4 (leBytes 4 (sc i))) →
      WritesFor none s (o.toNat % 2 ^ 56) (4 * (t * k)) ok → NoRo s →
      (if p = 0 then pk = [] else WritesFor none s (p.toNat % 2 ^ 56) (4 * (t * k)) pk) →
      ∃ u, exec (.gtopk d a b) s = .next u ∧ Answered s u d (status kOK (t * k) 0) ∧ (u.die die).gateQ = [] ∧
        u.mem = memSets (memSets s.mem ok (best.flatMap fun x => leBytes 4 x.1)) pk (best.flatMap fun x => leBytes 4 x.2))) ∧
  (∀ (d a b : Nat) (s : State),
    let n := (s.ctx.rs (a + 1)).toNat
    let e := (s.ctx.rs (a + 2)).toNat
    Ready .tm [.w d, .grp a 3, .grp b 2] s → (s.ctx.rs a).toNat % 4 = 0 → (s.ctx.rs b).toNat % 4 = 0 →
    (s.ctx.rs (b + 1)).toNat % 4 = 0 → 8388608 < n ∨ e = 0 ∨ 256 < e →
    ∀ f ∈ [Instr.ghist, Instr.gperm], ∃ u, exec (f d a b) s = .next u ∧ Answered s u d (status kRANGE 0 0) ∧ u.mem = s.mem) ∧
  (∀ (d a b : Nat) (s : State) (ix : Nat → Nat) (ok pk : List Nat),
    let die := dieOf s.cur
    let n := (s.ctx.rs (a + 1)).toNat
    let e := (s.ctx.rs (a + 2)).toNat
    let o := s.ctx.rs b
    let p := s.ctx.rs (b + 1)
    let xs := (List.range n).map ix
    let below (i : Nat) : Nat := (xs.filter fun x => decide (x < i)).length
    let count (i : Nat) : Nat := (xs.filter fun x => x == i).length
    let place (i : Nat) : Nat := below (ix i) + (((List.range i).map ix).filter fun x => x == ix i).length
    Ready .tm [.w d, .grp a 3, .grp b 2] s → Idle s → s.defer = false → (s.die die).gateQ = [] → NoRo s →
    (s.ctx.rs a).toNat % 4 = 0 → o.toNat % 4 = 0 → p.toNat % 4 = 0 → n ≤ 8388608 → 1 ≤ e → e ≤ 256 →
    (∀ i < n, ix i < 2 ^ 32 ∧ BytesFor none s (((s.ctx.rs a).toNat % 2 ^ 56 + 4 * i) % 2 ^ 56) 4 (leBytes 4 (ix i))) →
    (∀ i < n, e ≤ ix i → (∀ j < i, ix j < e) → (s.myProg.spawning = true → roPages s = []) →
      (∃ u, exec (.ghist d a b) s = .next u ∧ Answered s u d (status kRANGE i 0) ∧ u.mem = s.mem) ∧
      (∃ u, exec (.gperm d a b) s = .next u ∧ Answered s u d (status kRANGE i 0) ∧ u.mem = s.mem)) ∧
    ((∀ i < n, ix i < e) →
      (WritesFor none s (o.toNat % 2 ^ 56) (4 * e) ok →
        (if p = 0 then pk = [] else WritesFor none s (p.toNat % 2 ^ 56) (4 * (e + 1)) pk) →
        ∃ u, exec (.ghist d a b) s = .next u ∧ Answered s u d (status kOK n 0) ∧
          u.mem = memSets (memSets s.mem ok ((List.range e).flatMap fun i => leBytes 4 (count i))) pk
            ((List.range (e + 1)).flatMap fun i => leBytes 4 (below i))) ∧
      (WritesFor none s (o.toNat % 2 ^ 56) (4 * n) ok →
        (if p = 0 then pk = [] else WritesFor none s (p.toNat % 2 ^ 56) (4 * n) pk) →
        ∃ (u : State) (out : Nat → Nat), exec (.gperm d a b) s = .next u ∧ Answered s u d (status kOK n 0) ∧ (∀ i < n, out (place i) = i) ∧
          u.mem = memSets (memSets s.mem ok ((List.range n).flatMap fun i => leBytes 4 (out i))) pk
            ((List.range n).flatMap fun i => leBytes 4 (place i))))) ∧
  (∀ xs : List Nat, (∀ x ∈ xs, x < 2 ^ 32) →
    let l := sortBy ranksAbove ((List.range xs.length).map fun j => (j, xs.getD j 0))
    l.Perm ((List.range xs.length).map fun j => (j, xs.getD j 0)) ∧ l.Pairwise (fun x y => ranksAbove y x = false)) ∧
  (∀ (die : Nat) (who : AgentId) (rest : List AgentId) (s : State) (r : UnitReq), (s.die die).gateQ = who :: rest →
    (s.agent who).wait = .unit r → r.page = none →
    exec (.gateOperationComplete die) s =
      .next (asAgent who (s.agent who).wmode (fun t => settle t ((gateBody r).run t)) s))

/-! ### Cairn (09_cairn.md) -/

/-- R248, R249, R252, R260, R261: BIND of a free number to a region with a good header; UNBIND; CREAD of a node or the header;
CREUSE of a node without children, which leaves it alone in the other half under the next epoch; each with its status. R253 to
R256: a descent that starts at a node that is not expanded raises its VL, claims a leaf, records a path of one entry and
answers with the node; the choice of a child is one that no other score exceeds, and the first of those. The model's choices
in it: log 1, 40, and VALUE 0 of a refusal, log 24. -/
def Obligations.TreeBinding : Prop :=
  ((∀ f ∈ [Instr.ctreeBind, Instr.ctreeUnbind], ∀ (d a b n : Nat) (s : State) (bs : List Byte),
     Ready .tm [.w d, .grp a 2, .r b] s → (s.ctx.rs a).toNat = n →
     let va := (s.ctx.rs (a + 1)).toNat % 2 ^ 56
     let h := leNat bs
     let all := (s.die (dieOf s.cur)).trees
     let good : Prop := 1 ≤ bits h 31 0 ∧ bits h 31 0 ≤ 2 ^ 30 ∧ 1 ≤ bits h 63 32 ∧ bits h 63 32 ≤ bits h 31 0 ∧
       bits h 95 64 < bits h 63 32 ∧ bits h 227 227 = 0 ∧ finite32 (bits h 159 128) = true ∧ finite32 (bits h 191 160) = true ∧
       finite32 (bits h 223 192) = true
     (1 < (s.ctx.rs b).toNat → ∃ u, exec (f d a b) s = .next u ∧ Answered s u d (status kRANGE 0 0)) ∧
     (s.ctx.rs b = 0 → va % 64 ≠ 0 → exec (f d a b) s = .next (takeTrap s ⟨cALIGN, s.ctx.rs (a + 1)⟩)) ∧
     (s.ctx.rs b = 0 → va % 64 = 0 → 15 < n → ∃ u, exec (f d a b) s = .next u ∧ Answered s u d (status kRANGE 0 0)) ∧
     (s.ctx.rs b = 0 → va % 64 = 0 → n < 16 → ReadsAs s va 64 bs →
       (s.myProg.spawning = true → ∀ e k, Hits .read va s e k → pteRoSpawn e = false) →
       (findTree s n ≠ none → ∃ u, exec (f d a b) s = .next u ∧ Answered s u d (status kBUSY 0 0)) ∧
       (findTree s n = none → 16 ≤ all.length → ∃ u, exec (f d a b) s = .next u ∧ Answered s u d (status kNOFREE 0 0)) ∧
       (findTree s n = none → all.length < 16 → ¬ good → ∃ u, exec (f d a b) s = .next u ∧ Answered s u d (status kRANGE 0 0) ∧
         (u.die (dieOf s.cur)).trees = all) ∧
       (findTree s n = none → all.length < 16 → good →
         ∃ u t, exec (f d a b) s = .next u ∧ Answered s u d (status kOK (bits h 63 32) 0) ∧
           (u.die (dieOf s.cur)).trees = all ++ [t] ∧ t.core = s.myKey.2 ∧ t.num = n ∧ t.region = va ∧ t.cap = bits h 31 0 ∧
           t.cpuct = bits h 159 128 ∧ t.fpu = bits h 191 160 ∧ t.vlw = bits h 223 192 ∧ t.alt = h.testBit 225 ∧
           t.tft = h.testBit 226 ∧ t.bad = false)) ∧
     (s.ctx.rs b = 1 → n < 16 → findTree s n = none → ∃ u, exec (f d a b) s = .next u ∧ Answered s u d (status kNOSESS 0 0)) ∧
     (∀ t, s.ctx.rs b = 1 → n < 16 → findTree s n = some t → otherOps s n = [] → s.defer = false → Idle s →
       ∃ u, exec (f d a b) s = .next u ∧ Answered s u d (status kOK 0 0) ∧
         (u.die (dieOf s.cur)).trees = all.filter fun y => !(y.core == t.core && y.num == t.num))) ∧
   (∀ (d a b n : Nat) (s : State) (t : Tree) (key : Nat → Nat), TreeReady s n t key → (s.ctx.rs a).toNat = n →
     let h := leNat (memGets s.mem (hdrKeys key))
     let i := (s.ctx.rs (a + 1)).toNat % 2 ^ 32
     let old (i : Nat) : Nat := leNat (memGets s.mem (nodeKeys t key (hHalf h) i))
     let wrote (x : Nat) : Ctx := (List.range 4).foldl (fun c k => c.ws (b + k) (BitVec.ofNat 64 (x / 2 ^ (64 * k))) false) s.sided
     (Ready .tm [.w d, .grp a 2, .wgrp b 4] s → b < 128 →
       (i = 2 ^ 32 - 1 → ∃ u, exec (.cread d a b) s = .next u ∧ u.mem = s.mem ∧
         u.ctx = (retire (s.setCtx ((wrote (bits h 227 0)).ws d (status kOK i 0) false))).ctx) ∧
       (i < hUsed h → i < t.cap → i ≠ 2 ^ 32 - 1 → ∃ u, exec (.cread d a b) s = .next u ∧ u.mem = s.mem ∧
         u.ctx = (retire (s.setCtx ((wrote { Node.ofNat (old i) with rsv := 0 }.toNat).ws d (status kOK i 0) false))).ctx) ∧
       (hUsed h ≤ i → i ≠ 2 ^ 32 - 1 → ∃ u, exec (.cread d a b) s = .next u ∧ u.mem = s.mem ∧
         Answered s u d (status kRANGE 0 0))) ∧
     (Ready .tm [.w d, .grp a 2] s →
       (hUsed h ≤ i → ∃ u, exec (.creuse d a) s = .next u ∧ u.mem = s.mem ∧ Answered s u d (status kRANGE 0 0)) ∧
       (i < hUsed h → i < t.cap → (Node.ofNat (old i)).state ≠ nEXPANDED → Memory.wf s.mem = true →
         ∃ u, exec (.creuse d a) s = .next u ∧ Answered s u d (status kOK 1 0) ∧
           (let g := leNat (memGets u.mem (hdrKeys key))
            hHalf g = 1 - hHalf h ∧ hRoot g = 0 ∧ hUsed g = 1 ∧ hEpoch g = (hEpoch h + 1) % 2 ^ 32 ∧ hBusy g = 0 ∧
            bits g 31 0 = bits h 31 0 ∧ bits g 223 128 = bits h 223 128) ∧
           (let x := Node.ofNat (old i)
            Node.ofNat (leNat (memGets u.mem (nodeKeys t key (1 - hHalf h) 0))) =
              { x with vl := 0, state := if x.state = nPENDING then nLEAF else x.state, first := 2 ^ 32 - 1, parent := 2 ^ 32 - 1
                       rsv := 0 }) ∧
           ∀ k, (k ∉ hdrKeys key ∧ k ∉ nodeKeys t key (1 - hHalf h) 0) → memGet u.mem k = memGet s.mem k)))) ∧
  ((∀ (d a b n : Nat) (s : State) (t : Tree) (key : Nat → Nat) (pk : List Nat), TreeReady s n t key → (s.ctx.rs a).toNat = n →
     Ready .tm [.w d, .grp a 2, .r b] s →
     let loc := (s.ctx.rs b).toNat
     let p := s.spur s.mySpurKey
     let h := leNat (memGets s.mem (hdrKeys key))
     let a0 := (s.ctx.rs (a + 1)).toNat % 2 ^ 32
     let x := if a0 = 2 ^ 32 - 1 then hRoot h else a0
     let nk := nodeKeys t key (hHalf h) x
     let nd := Node.ofNat (leNat (memGets s.mem nk))
     let code := if nd.state = nLEAF then kOK else if nd.state = nPENDING then kPENDING else kTERMINAL
     let record := leBytes 8 (pathWord (hEpoch h) n 1 (nd.state == nLEAF)) ++ leBytes 4 x
     let m := memSets s.mem nk (leBytes 32
       { nd with vl := min (nd.vl + 1) 65535, state := if nd.state = nLEAF then nPENDING else nd.state, rsv := 0 }.toNat)
     loc % 8 = 0 → (if isSlot s.cur then loc + 264 ≤ p.size .scr ∧ p.claimed .scr loc 12 = false
       else StoresAt s (loc % 2 ^ 56) 264 pk) →
     (hUsed h ≤ x → ∃ u, exec (.cdesc d a b) s = .next u ∧ Answered s u d (status kRANGE 0 0) ∧ u.mem = s.mem) ∧
     (x < hUsed h → x < t.cap → nd.state ≠ nEXPANDED →
       ∃ u, exec (.cdesc d a b) s = .next u ∧ Answered s u d (status code x 0) ∧
         (isSlot s.cur = true → u.mem = m ∧ (u.spur s.mySpurKey).pool = (p.wr .scr loc record).pool) ∧
         (isSlot s.cur = false → u.mem = memSets m pk record))) ∧
   (∀ (t : Tree) (cs : List Node), cs ≠ [] →
     let sum := cs.foldl (fun k c => k + c.n + c.vl) 0
     let sq := (fSqrt fp32 ⟨0, false, false, 0, 0⟩ 0 (ofInt fp32 ⟨0, false, false, 0, 0⟩ 0 ((max sum 1 : Nat) : Int)).1).1
     let score (c : Node) : Nat := (puctScore t sq c).1
     let k := (puctChoose t cs).1
     ∃ c, cs[k]? = some c ∧ (∀ x ∈ cs, scoreAbove (score x) (score c) = false) ∧
       ∀ j x, j < k → cs[j]? = some x → scoreAbove (score c) (score x) = true))

/-- R257 to R259: CEXP writes the children of a leaf, or marks it terminal, refuses an expanded one, a stale path and a full
tree; CBACK takes a unit of virtual loss from every node of its path and, for BACKUP, adds the visit and the value. R262:
Cairn performs one step of an instruction, and completes one whose last step is over. The model's choices in it: log 1; VALUE 0 of a
refusal, log 24; RANGE for an entry that no half holds, log 40; the side bit set where CEXP traps TREEFULL, log 49. -/
def Obligations.TreeUpdates : Prop :=
  (∀ (d a b n : Nat) (s : State) (t : Tree) (key : Nat → Nat) (pb : List Byte), TreeReady s n t key → (s.ctx.rs a).toNat = n →
     Ready .tm [.w d, .grp a 2, .grp b 2] s →
     let loc := (s.ctx.rs (a + 1)).toNat
     let h := leNat (memGets s.mem (hdrKeys key))
     let half := hHalf h
     let ph := leNat (pb.take 8)
     let len := ph % 2 ^ 8
     let claim := ph.testBit 8
     let entry (j : Nat) : Nat := leNat ((pb.drop (8 + 4 * j)).take 4)
     let v := entry (len - 1)
     let nk (i : Nat) : List Nat := nodeKeys t key half i
     let node (m : List Host.Cell) (i : Nat) : Node := Node.ofNat (leNat (memGets m (nk i)))
     let y := (s.ctx.rs b).toNat
     let k := (s.ctx.rs (b + 1)).toNat
     let bad : Prop := bits ph 19 16 ≠ n ∨ len = 0 ∨ 64 < len
     let wild (first : Nat) : Prop := ∃ j < len, first ≤ j ∧ t.cap ≤ entry j
     loc % 8 = 0 → PlaceBytes s loc 264 pb →
     (∀ cb : List Byte, y % 8 = 0 → k ≤ 256 → PlaceBytes s y (8 * k) cb →
       let gives (c value : Nat) : Prop := ∃ u, exec (.cexp d a b) s = .next u ∧ Answered s u d (status c value 0) ∧ u.mem = s.mem
       let nd := node s.mem v
       let child (j : Nat) : Node := ⟨0, 0, leNat ((cb.drop (8 * j)).take 2), 0, 2 ^ 32 - 1, v, leNat ((cb.drop (8 * j + 4)).take 4),
         0, nLEAF, 0, 0⟩
       (bad → gives kRANGE 0) ∧
       (¬ bad → bits ph 63 32 ≠ hEpoch h → gives kSTALE 0) ∧
       (¬ bad → bits ph 63 32 = hEpoch h → wild (len - 1) → gives kRANGE 0) ∧
       (¬ bad → bits ph 63 32 = hEpoch h → ¬ wild (len - 1) →
         ((nd.state = nEXPANDED ∨ nd.state = nTERMINAL) → gives kEXPANDED 0) ∧
         (nd.state = nPENDING → claim = false → gives kPENDING 0) ∧
         ((nd.state = nLEAF ∨ (nd.state = nPENDING ∧ claim = true)) →
           (k = 0 → ∃ u, exec (.cexp d a b) s = .next u ∧ Answered s u d (status kOK v 0) ∧
             u.mem = memSets s.mem (nk v) (leBytes 32 { nd with state := nTERMINAL, rsv := 0 }.toNat)) ∧
           (0 < k → t.cap < hUsed h + k → t.tft = false → gives kTREEFULL (t.cap - hUsed h)) ∧
           (0 < k → t.cap < hUsed h + k → t.tft = true → ∃ u, exec (.cexp d a b) s = .next u ∧
             u.ctx = (takeTrap (s.setCtx s.sided) ⟨cTREEFULL, BitVec.ofNat 64 (k * 2 ^ 32 + v)⟩).ctx ∧ u.mem = s.mem) ∧
           (0 < k → hUsed h + k ≤ t.cap → v < hUsed h → Memory.wf s.mem = true →
             ∃ u, exec (.cexp d a b) s = .next u ∧ Answered s u d (status kOK (hUsed h) 0) ∧
               hUsed (leNat (memGets u.mem (hdrKeys key))) = hUsed h + k ∧
               (∀ j < k, node u.mem (hUsed h + j) = child j) ∧
               node u.mem v = { nd with first := hUsed h, nch := k, state := nEXPANDED, rsv := 0 } ∧
               ∀ i < t.cap, i ≠ v → (i < hUsed h ∨ hUsed h + k ≤ i) → node u.mem i = node s.mem i)))) ∧
     (let cancel : Prop := k = 1
      let sg (j : Nat) : Nat := if t.alt = true ∧ (len - 1 - j) % 2 = 1 then y % 2 ^ 32 ^^^ 2 ^ 31 else y % 2 ^ 32
      let sum (j : Nat) := fAdd fp32 ⟨0, false, false, 0, 0⟩ 0 (node s.mem (entry j)).w (sg j)
      ∀ f ∈ [Instr.cbackBackup, Instr.cbackCancel],
       let gives (c : Nat) : Prop := ∃ u, exec (f d a b) s = .next u ∧ Answered s u d (status c 0 0) ∧ u.mem = s.mem
       ((bad ∨ 1 < k) → gives kRANGE) ∧
       (¬ bad → k ≤ 1 → bits ph 63 32 ≠ hEpoch h → gives kSTALE) ∧
       (¬ bad → k ≤ 1 → bits ph 63 32 = hEpoch h → wild 0 → gives kRANGE) ∧
       (¬ bad → k ≤ 1 → bits ph 63 32 = hEpoch h → ¬ wild 0 → ((List.range len).map entry).Nodup → Memory.wf s.mem = true →
         ∃ u fl, exec (f d a b) s = .next u ∧ Answered s u d (status kOK len fl) ∧
           ((cancel → fl = 0) ∧ (¬ cancel → fl = unionFlags ((List.range len).map fun j => (sum j).2))) ∧
           (∀ j < len,
             let x := node s.mem (entry j)
             let last : Prop := j + 1 = len ∧ claim = true ∧ x.state = nPENDING
             node u.mem (entry j) = { x with
               vl := x.vl - 1
               n := if k = 1 then x.n else min (x.n + 1) (2 ^ 32 - 1)
               w := if k = 1 then x.w else (sum j).1
               state := if last then nLEAF else x.state
               rsv := 0 }) ∧
           ∀ i < t.cap, i ∉ (List.range len).map entry → node u.mem i = node s.mem i))) ∧
  (∀ (who : AgentId) (s : State) (r : UnitReq) (o : CairnOp), (s.agent who).wait = .unit r → findOp s who = some o →
     r.op ∈ [UnitOp.ctree, .cdesc, .cexp, .cback, .cread, .creuse] → r.page = none → r.dead = none →
     (o.done = false → (s.agent who).refused = none → ∀ o' u,
       (cairnStep r o).run { s with cur := who, mode := (s.agent who).wmode, defer := false } = .ok (o', u) →
       ∃ t, exec (.cairnAtomicStep who) s = .next t ∧ findOp t who = some o' ∧ t.mem = u.mem ∧ t.cur = s.cur ∧
         (t.agent who).wait = .unit r) ∧
     (o.done = true → (s.agent who).refused = none → ∀ f u,
       (cairnFinish r o).run { s with cur := who, mode := (s.agent who).wmode, defer := false } = .ok (f, u) →
       ∃ t, exec (.cairnOperationComplete who) s = .next t ∧ t.mem = u.mem ∧ (t.agent who).wait = .none ∧
         (t.agent who).ctx.instret = (u.agent who).ctx.instret + 1))

/-! ### Spawn and join (10_spawn.md) -/

/-- R62, R269, R271 to R273: SPAWN and SPAWNR read the header before the body, are refused with a code and nothing else, or start the next
spawn: its snapshot, its counts, every member of a resident one placed. Here the quota is at its target (R302). -/
def Obligations.SpawnStarts : Prop :=
  ∀ (d : Nat) (o : Int) (s : State) (hb : List Byte),
    let k := s.myKey
    let p := s.myProg
    let entry := s.ctx.pc + BitVec.ofInt 64 (o * 4)
    let head := entry - 4
    let n := (s.ctx.rs d).toNat
    let q := p.quota.filter fun x => (s.spur (k.1, x)).fenced = false
    let g := (List.range 32).map fun i => s.ctx.rs (96 + i)
    Ready .m [.r d] s → ReadsAs s (head.toNat % 2 ^ 56) 4 hb →
    (headerWindow (leNat hb) = none → ∀ c ∈ [Instr.spawn, Instr.spawnr], exec (c d o) s = .next (takeTrap s ⟨cILLOP, head⟩)) ∧
    (∀ w, headerWindow (leNat hb) = some w →
      (∀ c ∈ [Instr.spawn, Instr.spawnr], p.sstate ≠ 0 → ∃ t, exec (c d o) s = .next t ∧ t.ctx = (retire s).ctx ∧
        t.prog k = { p with rcode := 2 }) ∧
      (∀ c ∈ [Instr.spawn, Instr.spawnr], p.sstate = 0 → 2 ^ 32 ≤ n → ∃ t, exec (c d o) s = .next t ∧ t.ctx = (retire s).ctx ∧
        t.prog k = { p with rcode := 7 }) ∧
      (p.sstate = 0 → n < 2 ^ 32 → quotaTarget s k = p.quota.length → p.quota.Pairwise (· < ·) → s.me.pend = [] →
        let sp : SpawnRec := ⟨entry.toNat, w, n, 0, g, s.ctx.tvec, s.ctx.wlim, s.ctx.fcsr, s.ctx.srseed, q⟩
        ((0 < n ∧ ∀ x ∈ q, (s.spur (k.1, x)).fit w = none) → ∃ t, exec (.spawn d o) s = .next t ∧ t.ctx = (retire s).ctx ∧
          t.prog k = { p with rcode := 4 }) ∧
        (placementFails s k.1 w q n = true → ∃ t, exec (.spawnr d o) s = .next t ∧ t.ctx = (retire s).ctx ∧
          t.prog k = { p with rcode := 4 }) ∧
        ((n = 0 ∨ ∃ x ∈ q, (s.spur (k.1, x)).fit w ≠ none) → ∃ t, exec (.spawn d o) s = .next t ∧ t.ctx = (retire s).ctx ∧
          let r := t.prog k
          r.seq = (p.seq + 1) % 2 ^ 32 ∧ r.sstate = 1 ∧ r.rcode = 0 ∧ r.spawn = sp ∧ r.u = n ∧ r.d = 0 ∧ r.l = 0 ∧ r.e = 0 ∧
          r.spflags = 0 ∧ r.jres = [] ∧ r.jval = 0 ∧ r.lost = [] ∧
          ∀ x ∈ q, (t.spur (k.1, x)).rdc = [] ∧ (t.spur (k.1, x)).ibuf = []) ∧
        (placementFails s k.1 w q n = false → heldAny p q = false → ∃ t, exec (.spawnr d o) s = .next t ∧ t.ctx = (retire s).ctx ∧
          (let r := t.prog k
           r.seq = (p.seq + 1) % 2 ^ 32 ∧ r.sstate = 2 ∧ r.rcode = 0 ∧ r.spawn = { sp with next := n } ∧ r.u = 0 ∧ r.d = 0 ∧
           r.l = n ∧ r.e = 0 ∧ r.spflags = 0 ∧ r.jres = [] ∧ r.jval = 0 ∧ r.lost = []) ∧
          ∀ i < n,
            let a := t.agent (.slot k.1 (q.getD (i / 4 % q.length) 0) (i % 4) (i / (4 * q.length)))
            a.live = true ∧ a.resident = true ∧ a.ctx = threadCtx sp ((p.seq + 1) % 2 ^ 32) i)))

/-- R281 to R284: JOIN answers NOSPAWN with no spawn outstanding, waits while a count is not zero, and else takes the
reduction and the list of lost threads and ends the spawn; TEND of a thread whose accesses are performed leaves its slot free
and its contribution, or takes the oldest trap it deferred. The model's choices in it: log 1. -/
def Obligations.JoinAndTend : Prop :=
  (∀ (d : Nat) (s : State), Ready .m [.w d] s →
    let p := s.myProg
    (p.sstate = 0 → exec (.join d) s = .next (s.doneS d 2 false)) ∧
    (p.sstate ≠ 0 → ¬(p.u = 0 ∧ p.d = 0 ∧ p.l = 0 ∧ p.e = 0) →
      exec (.join d) s = .next (s.setMe { s.me with wait := .join d, wmode := s.mode })) ∧
    (p.sstate ≠ 0 → p.u = 0 → p.d = 0 → p.l = 0 → p.e = 0 →
      (∀ n ∈ p.quota, (s.spur (s.myKey.1, n)).badBanks = [] ∧ (s.spur (s.myKey.1, n)).worn = false) →
      ∃ (t : State) (lost : List Nat), exec (.join d) s = .next t ∧ lost.Pairwise (· < ·) ∧ (∀ x, x ∈ lost ↔ x ∈ p.lostNow) ∧
        t.ctx = (s.doneS d (BitVec.ofNat 64 (min lost.length (2 ^ 32 - 1) * 2 ^ 32 + if lost = [] then 0 else 1)) false).ctx ∧
        (let r := t.myProg
         r.sstate = 0 ∧ r.held = none ∧ r.lost = lost.take 4096 ∧ (r.lostov = true ↔ 4096 < lost.length) ∧ r.lostix = 0 ∧ r.lostNow = [] ∧
         r.contribs = [] ∧ (∀ i < 8, jOps p.contribs i = [] → tabGet r.jres i 0 = 0 ∧ r.jval.testBit i = false) ∧
         ∀ i < 8, ∀ op, jOps p.contribs i = [op] → tabGet r.jres i 0 = ((jRoot p.contribs i op 18 0).1).getD 0 ∧
           r.jval.testBit i = ((jRoot p.contribs i op 18 0).1).isSome))) ∧
  (∀ s : State, Ready .t [] s → s.me.pend = [] →
    (∀ tr ts, s.me.dtraps = tr :: ts → exec .tend s = .next (takeTrap (s.setMe { s.me with dtraps := ts }) tr)) ∧
    (s.me.dtraps = [] → s.me.frames = [] → ∃ t, exec .tend s = .next t ∧ t.me = Agent.blank ∧
      (let p := s.myProg
       t.prog s.myKey = { p with l := p.l - 1, contribs := p.contribs ++
         [⟨s.me.tag, s.ctx.tid.toNat, s.me.items, s.ctx.fcsr.toNat % 32⟩] }) ∧
      ∀ w ∈ (t.spur s.mySpurKey).windows, w.who ≠ s.cur)) ∧
  (∀ s : State, Ready .t [] s → s.me.pend ≠ [] → s.defer = true →
    exec .tend s = .next (s.setMe { s.me with wait := .ended, wmode := s.mode }))

/-- R276 to R279: SSPAWN of a count to a Scree with room pushes a descriptor with the parent's registers and its level, one
deeper; a count of 0 does nothing; at level 16 it traps NESTDEEP; with Scree full the children run in the parent's slot, the
parent's late Ridge results and deferred traps kept for it. The model's choices in it: log 9. -/
def Obligations.NestedSpawn : Prop :=
  ∀ (d a y : Nat) (s : State) (hb : List Byte), Ready .t [.r d, .r a] s →
    let k := s.myKey
    let c := s.ctx
    let e := (c.rs a).toNat % 2 ^ 56
    let head := BitVec.ofNat 64 e - 4
    let n := (c.rs d).toNat % 2 ^ 32
    let level := c.nlevel.toNat % 32
    let all := (s.die k.1).scree
    (e % 4 ≠ 0 → exec (.sspawn d a y) s = .next (takeTrap s ⟨cALIGN, c.rs a⟩)) ∧
    (e % 4 = 0 → ReadsAs s (head.toNat % 2 ^ 56) 4 hb →
      (headerWindow (leNat hb) = none → exec (.sspawn d a y) s = .next (takeTrap s ⟨cILLOP, head⟩)) ∧
      (∀ w, headerWindow (leNat hb) = some w →
        (level = 16 → exec (.sspawn d a y) s = .next (takeTrap s ⟨cNESTDEEP, BitVec.ofNat 64 e⟩)) ∧
        (level ≠ 16 → n = 0 → ∃ t, exec (.sspawn d a y) s = .next t ∧ t.ctx = (retire s).ctx ∧ (t.die k.1).scree = all) ∧
        (level ≠ 16 → 0 < n → Ready .t [.r 1, .r 2, .r 3, .r 4] s → all.length < 4096 → s.me.pend = [] →
          ∃ t ds, exec (.sspawn d a y) s = .next t ∧ (t.die k.1).scree = all ++ [ds] ∧
            ds.core = k.2 ∧ ds.entry = e ∧ ds.window = w ∧ ds.count = n ∧ ds.next = 0 ∧ ds.prio = y ∧
            ds.args = [c.rs 1, c.rs 2, c.rs 3, c.rs 4] ∧ ds.tvec = c.tvec ∧ ds.wlim = c.wlim ∧ ds.level = level + 1 ∧
            ds.srseed = mix64 c.srseed ∧ ds.fcsr = c.fcsr &&& ~~~31#64 ∧ ds.ptid = c.tid.toNat ∧ ds.ptag = s.me.tag ∧
            (t.prog k).d = s.myProg.d + n ∧ t.me.items = s.me.items ++ [.nest ds.tag] ∧
            t.ctx = (retire (s.setCtx { c with side := true, srseed := advanceSeed c.srseed })).ctx) ∧
        (level ≠ 16 → 0 < n → Ready .t [.r 1, .r 2, .r 3, .r 4] s → 4096 ≤ all.length → dynRoom s k 1 = true → s.me.pend = [] →
          recordBusy s k (freeRecord s k) = false →
          (((s.spur s.mySpurKey).unplace s.cur).place s.cur w).isSome = true →
          ∃ t f, exec (.sspawn d a y) s = .next t ∧ (t.die k.1).scree = all ∧ t.me.frames = f :: s.me.frames ∧ f.desc.next = 1 ∧
            f.desc.count = n ∧ f.ctx.regs = c.regs ∧ f.ctx.pc = c.pc ∧ f.ridge = s.me.ridge ∧ f.dtraps = s.me.dtraps ∧
            t.me.ridge = [] ∧ t.me.dtraps = [] ∧ t.ctx.pc = BitVec.ofNat 64 e ∧ t.ctx.tid = 0 ∧
            t.ctx.tcount = BitVec.ofNat 64 n ∧
            t.ctx.nlevel = BitVec.ofNat 64 (level + 1 + 32) ∧ t.ctx.window = w)))

/-- R274, R278 to R282, R284, R306, R310, R380: the events of dispatch. A slot that is idle and has room takes the next number
of the spawn, the next of the best descriptor, a lost thread or a parked one, with the counts changed in the same step; a held
resident spawn is placed; a child enters once REG has room; a TEND that waited ends its thread, and a JOIN that waited
completes when the counts are zero. The model's choices in it: log 2, 52. -/
def Obligations.DispatchEvents : Prop :=
  (∀ (who : AgentId) (s : State) (k : Nat × Nat), slotProg s who = some k →
    (∀ w ∈ (s.spur (dieOf who, spurOf who)).windows, w.who ≠ who) →
    let p := s.prog k
    let room (w : Nat) : Prop := (s.spur (dieOf who, spurOf who)).fit w ≠ none
    let placed (t : State) (w : Nat) : Prop := ∃ b, ⟨who, b, w / 8⟩ ∈ (t.spur (dieOf who, spurOf who)).windows
    (freshReady s k p who = true → p.sstate = 1 → 0 < p.u → room p.spawn.window →
      ∃ t, exec (.numberGrant who) s = .next t ∧ (t.agent who).live = true ∧ placed t p.spawn.window ∧
        (t.agent who).ctx = threadCtx p.spawn p.seq p.spawn.next ∧
        t.prog k = { p with u := p.u - 1, l := p.l + 1, spawn := { p.spawn with next := p.spawn.next + 1 } }) ∧
    (∀ d, freshReady s k p who = true → (p.sstate ≠ 1 ∨ p.u = 0) → room d.window →
      bestDesc ((s.die k.1).scree.filter fun d => d.core = k.2) = some d →
      ∃ t, exec (.screeDraw who) s = .next t ∧ (t.agent who).live = true ∧ placed t d.window ∧
        (t.agent who).ctx = childCtx p d d.next false ∧ (t.agent who).tag = d.tag ∧ t.prog k = { p with d := p.d - 1, l := p.l + 1 }) ∧
    (∀ st rest, p.rerun = st :: rest → slotIdle s who = true → onList p who = true → parkedFor s k p who = none →
      slotHeld p who = false → room st.ctx.window →
      ∃ t, exec (.rerunTake who) s = .next t ∧ (t.agent who).live = true ∧ (t.agent who).ctx = st.ctx ∧
        t.prog k = { p with rerun := rest }) ∧
    (∀ i x, parkedFor s k p who = some i → p.runList[i]? = some x → slotIdle s who = true → p.ending = none → p.saving = none →
      room x.agent.ctx.window →
      recordBusy s k x.record = false → recordKept s k x.record x.agent.ctx x.agent.frames = true →
      recordHurt s (physKey (recordAt s k x.record)) x.agent.ctx = [] →
      ∃ t, exec (.parkedThreadReturn who) s = .next t ∧ t.agent who = { x.agent with wait := .none } ∧
        t.prog k = { p with runList := listDel p.runList i })) ∧
  (∀ (die core : Nat) (s : State) (r : SpawnRec), (s.prog (die, core)).held = some r → (s.prog (die, core)).ending = none →
    (s.prog (die, core)).saving = none → heldAny (s.prog (die, core)) r.quota = false →
    (∀ n ∈ r.quota, (s.spur (die, n)).fenced = false) →
    placementFails s die r.window r.quota r.count = false → r.quota.Nodup →
    ∃ t, exec (.residentPlacement die core) s = .next t ∧ (t.prog (die, core)).held = none ∧ (t.prog (die, core)).u = 0 ∧
      (t.prog (die, core)).l = (s.prog (die, core)).l + r.count ∧
      ∀ i < r.count, (t.agent (memberPlace die r.quota i)).ctx = threadCtx r (s.prog (die, core)).seq i) ∧
  (∀ (who : AgentId) (s : State), (s.agent who).live = true → (s.agent who).wait = .room →
    exec (.inlineChildStart who) s = .next (inlineStep s who)) ∧
  (∀ (who : AgentId) (s : State) (f : Frame) (fs : List Frame), (s.agent who).live = true → (s.agent who).wait = .room →
    (s.agent who).frames = f :: fs → f.desc.next < f.desc.count → rewindow s who f.desc.window ≠ none →
    ∃ t, exec (.inlineChildStart who) s = .next t ∧ (t.agent who).wait = .none ∧
      (t.agent who).ctx = childCtx (s.prog (s.progKey who)) f.desc f.desc.next true) ∧
  (∀ (who : AgentId) (s : State), isSlot who = true → (s.agent who).live = true → (s.agent who).wait = .ended →
    (s.agent who).frames = [] → (s.agent who).pend = [] → (s.agent who).dtraps = [] →
    ∃ t, exec (.threadEnd who) s = .next t ∧ t.agent who = Agent.blank ∧
      (t.prog (s.progKey who)).l = (s.prog (s.progKey who)).l - 1) ∧
  (∀ (die core : Nat) (s : State),
    let a := AgentId.master die core
    joinReady (s.prog (die, core)) = true →
    (∀ d, (s.agent a).wait = .join d → ∃ t, exec (.joinComplete die core) s = .next t ∧ (t.agent a).wait = .none ∧
      (t.agent a).ctx.instret = (s.agent a).ctx.instret + 1 ∧ (t.prog (die, core)).sstate = 0) ∧
    ((s.agent a).wait = .halt → (s.prog (die, core)).ending = none →
      ∃ t, exec (.joinComplete die core) s = .next t ∧ (t.prog (die, core)).ending = some haltEnd))

/-- R285 to R289: the Ridge registers and the join reductions. PS adds and gives the old value; PSM traps on an odd register
and else adds only up to the limit; the result is written at once or stays under way (R287), and its event writes it. A JRED
adds one item to the thread's sequence and writes no register. R289 to R291: the root of a slot over threads that contribute
one operand each: for ADD their sum, for the others the extreme of their order, whatever the tree's shape; with no
contribution there is none. The model's choices in it: log 1. -/
def Obligations.RidgeInstructions : Prop :=
  ((∀ (d n b : Nat) (s : State), Ready .t [.w d, .r b] s →
     let old := s.myProg.n n
     let y := s.ctx.rs b
     let limit := s.myProg.n (n + 1)
     let leaves (c : Instr) (x v : Word) : Prop := ∃ t, exec c s = .next t ∧ t.mem = s.mem ∧
       (∀ m, (t.prog s.myKey).n m = if m = n then x else s.myProg.n m) ∧
       (s.defer = false → t.ctx = (retire (s.setCtx (s.sided.ws d v false))).ctx ∧ t.me.ridge = s.me.ridge) ∧
       (s.defer = true → t.ctx = (retire (s.setCtx s.sided)).ctx ∧ t.me.ridge = s.me.ridge ++ [(d, v)])
     leaves (.ps d n b) (BitVec.ofNat 64 (old.toNat + y.toNat)) old ∧
     (n % 2 = 1 → exec (.psm d n b) s = .next (takeTrap s ⟨cILLOP, BitVec.ofNat 64 s.iw⟩)) ∧
     (n % 2 = 0 → old.toNat + y.toNat ≤ limit.toNat → leaves (.psm d n b) (BitVec.ofNat 64 (old.toNat + y.toNat)) old) ∧
     (n % 2 = 0 → limit.toNat < old.toNat + y.toNat → leaves (.psm d n b) old (BitVec.ofInt 64 (-1)))) ∧
   (∀ (who : AgentId) (s : State) (d : Nat) (v : Word) (rest : List (Nat × Word)), (s.agent who).ridge = (d, v) :: rest →
     ∃ t, exec (.ridgeReply who) s = .next t ∧ t.mem = s.mem ∧
       t.agent who = { s.agent who with ctx := (s.agent who).ctx.ws d v false, ridge := rest }) ∧
   (∀ (d n : Nat) (s : State), Ready .tm [.w d] s → exec (.nrd d n) s = .next (s.doneS d (s.myProg.n n) false)) ∧
   (∀ (n b : Nat) (s : State), Ready .m [.r b] s → ∃ t, exec (.nwr n b) s = .next t ∧ t.ctx = (retire s).ctx ∧ t.mem = s.mem ∧
     ∀ m, (t.prog s.myKey).n m = if m = n then s.ctx.rs b else s.myProg.n m) ∧
   (∀ (n b : Nat) (s : State), Ready .t [.r b] s →
     ∀ c ∈ [(Instr.jredAdd n b, 0), (.jredMin n b, 1), (.jredMax n b, 2), (.jredMinu n b, 3), (.jredMaxu n b, 4),
       (.jredFaddFp64 n b, 5), (.jredFaddFp32 n b, 6)],
       exec c.1 s = .next (retire (s.setMe { s.me with items := s.me.items ++
         [.val n c.2 (if c.2 = 6 then BitVec.ofNat 64 ((s.ctx.rs b).toNat % 2 ^ 32) else s.ctx.rs b)] })))) ∧
  (∀ (slot : Nat) (vs : List (Nat × Word)), (vs.map (·.1)).Nodup → (∀ v ∈ vs, v.1 < 2 ^ 32) →
     let cs (op : Nat) : List Contrib := vs.map fun v => ⟨0, v.1, [.val slot op v.2], 0⟩
     let root (op : Nat) : Option Word := (jRoot (cs op) slot op 18 0).1
     (vs = [] → ∀ op, root op = none) ∧
     (vs ≠ [] →
       (∃ r, root 0 = some r ∧ r.toNat = (vs.map fun v => v.2.toNat).sum % 2 ^ 64) ∧
       (∃ r, root 1 = some r ∧ r ∈ vs.map (·.2) ∧ ∀ v ∈ vs, r.toInt ≤ v.2.toInt) ∧
       (∃ r, root 2 = some r ∧ r ∈ vs.map (·.2) ∧ ∀ v ∈ vs, v.2.toInt ≤ r.toInt) ∧
       (∃ r, root 3 = some r ∧ r ∈ vs.map (·.2) ∧ ∀ v ∈ vs, r.toNat ≤ v.2.toNat) ∧
       ∃ r, root 4 = some r ∧ r ∈ vs.map (·.2) ∧ ∀ v ∈ vs, v.2.toNat ≤ r.toNat))

/-- R292, R293, R309, R312, R313: YIELD, whose slot leaves the next rotation set, the barriers and WAIT. A
phase whose arrivals reach C releases every arrived agent and
starts anew with the count set for it; BARINIT sets the count at once, or for the next phase where one has arrived; a WAIT takes
the word where the condition holds and else sleeps; an expired wait traps WLIMIT with its arrival withdrawn, and a remote access that
need not wait at its target is not one. -/
def Obligations.BarriersAndWaits : Prop :=
  (∀ s : State, Ready .tm [] s →
    (isSlot s.cur = false → exec .yield s = .next (retire s)) ∧
    (∀ d p c k, s.cur = .slot d p c k →
      let t := tabGet s.turns (d, p, c) ⟨[], []⟩
      exec .yield s = .next (retire { s with turns := tabSet s.turns (d, p, c) { t with skip := t.skip ++ [k] } }))) ∧
  (∀ (i : Int) (s : State),
    let id := i.toNat
    let k := s.myKey
    let b := s.myProg.bar id
    (Ready .t [] s → Unwoken s → ownDescs s = [] →
      (b.arrived.length + 1 < b.c → ∃ t, exec (.bar i) s = .next t ∧ t.ctx = s.sided ∧ t.me.wait = .bar id ∧
        ∀ j, (t.prog k).bar j = if j = id then { b with arrived := b.arrived ++ [s.cur] } else s.myProg.bar j) ∧
      (b.c ≤ b.arrived.length + 1 → (b.arrived ++ [s.cur]).Nodup →
        ∃ t, exec (.bar i) s = .next t ∧ t.ctx = (retire (s.setCtx s.sided)).ctx ∧ t.me.wait = .none ∧
          (∀ j, (t.prog k).bar j = if j = id then ⟨b.cNext.getD b.c, none, []⟩ else s.myProg.bar j) ∧
          ∀ a ∈ b.arrived, (t.agent a).wait = .none ∧ (t.agent a).ctx = (retire (s.turn a)).ctx)) ∧
    ∀ a, Ready .t [.r a] s →
      let x := (s.ctx.rs a).toNat
      let c := if x = 0 ∨ s.myProg.liveCount < x then s.myProg.liveCount else x
      ∃ t, exec (.barinit a i) s = .next t ∧ t.ctx = (retire (s.setCtx s.sided)).ctx ∧
        ∀ j, (t.prog k).bar j = if j ≠ id then s.myProg.bar j else if b.arrived = [] then { b with c := c } else { b with cNext := some c }) ∧
  (let waits (f : Nat → Nat → Nat → Instr) (code : Nat) (holds : Word → Word → Prop) : Prop :=
    (∀ (d a b : Nat) (s : State) (bs : List Byte), Ready .tm [.w d, .r a, .r b] s → Unwoken s → ownDescs s = [] →
      let ea := s.ctx.rs a
      let va := ea.toNat % 2 ^ 56
      let x := BitVec.ofNat 64 (leNat bs)
      (va % 8 ≠ 0 → exec (f d a b) s = .next (takeTrap s ⟨cALIGN, ea⟩)) ∧
      (va % 8 = 0 → ReadsAs s va 8 bs →
        ((∃ e key, Hits .wait va s e key ∧ keySpace key ≠ 0) → exec (f d a b) s = .next (takeTrap s ⟨cPROT, ea⟩)) ∧
        ((∀ e key, Hits .wait va s e key → keySpace key = 0) →
          (holds x (s.ctx.rs b) → ∃ t, exec (f d a b) s = .next t ∧ t.ctx = (s.doneS d x false).ctx ∧ t.me.wait = .none ∧ t.mem = s.mem) ∧
          (¬ holds x (s.ctx.rs b) → ∃ t, exec (f d a b) s = .next t ∧ t.ctx = s.ctx ∧ t.mem = s.mem ∧
            t.me.wait = .mem ⟨code, ea, s.ctx.rs b, d⟩)))) ∧
    (∀ (who : AgentId) (s : State) (ea y : Word) (d : Nat) (bs : List Byte), (s.agent who).wait = .mem ⟨code, ea, y, d⟩ →
      let va := ea.toNat % 2 ^ 56
      let x := BitVec.ofNat 64 (leNat bs)
      ReadsAs (s.turn who) va 8 bs → (∀ e key, Hits .wait va (s.turn who) e key → keySpace key = 0) →
      (holds x y → ∃ t, exec (.waitRecheck who) s = .next t ∧ (t.agent who).wait = .none ∧ t.mem = s.mem ∧
        (t.agent who).ctx = ((s.turn who).doneS d x false).ctx) ∧
      (¬ holds x y → ∃ t, exec (.waitRecheck who) s = .next t ∧ (t.agent who).wait = .mem ⟨code, ea, y, d⟩ ∧ t.mem = s.mem ∧
        (t.agent who).ctx = (s.agent who).ctx))
   waits .waitGeu 0 (fun x y => y.toNat ≤ x.toNat) ∧ waits .waitEq 1 (fun x y => x = y) ∧ waits .waitNe 2 (fun x y => x ≠ y)) ∧
  (∀ (who : AgentId) (s : State),
    let limit := (s.agent who).ctx.wlim.toNat % 2 ^ 48
    limit ≠ 0 → (s.agent who).since + limit ≤ s.clock who →
    let traps (e : Instr) (v : Word) (q : State → Prop) : Prop := ∃ t, exec e s = .next t ∧ t.mem = s.mem ∧ q t ∧
      t.agent who = (takeTrap (s.turn who) ⟨cWLIMIT, v⟩).me
    (∀ r, (s.agent who).wait = .mem r → traps (.waitWlimExpiry who) r.ea fun _ => True) ∧
    (∀ id, (s.agent who).wait = .bar id → traps (.barWlimExpiry who) (BitVec.ofNat 64 id) fun t =>
      ((t.prog (s.progKey who)).bar id).arrived = ((s.prog (s.progKey who)).bar id).arrived.filter fun a => a ≠ who) ∧
    (∀ r, (s.agent who).wait = .granule r → (∃ g, (g, who) ∈ s.feWait) → granExists s r.g = true → traps (.feWaitExpiry who) r.tval fun t =>
      t.feWait = s.feWait.filter fun x => x.2 ≠ who) ∧
    (∀ r, (s.agent who).wait = .remote r → r.fe = true → r.off + 8 ≤ (s.spur (r.die, r.spur)).size .scr →
      (remoteHeld s who = true ∨ remoteReady s r = false → traps (.remoteWaitExpiry who) r.tval fun t =>
        t.feWait = (s.feWait.filter fun x => x.2 ≠ who) ∧ t.ports = s.ports.filter fun x => x.2 ≠ who) ∧
      (remoteHeld s who = false → remoteReady s r = true → exec (.remoteWaitExpiry who) s = .next s)))

/-- R245, R246: RLD and RST check the target spur, the offset against its SCR role and the alignment, in this order, and then
access its SCR: plainly, or as a full-empty step that proceeds or waits at the granule, in the target's table of 64 or, where it is
full or others wait so, at its port; an access left under way is performed by its event. The model's choices in it: log 1. -/
def Obligations.RemoteScratch : Prop :=
  ∀ (d a b : Nat) (s : State),
    let x := s.ctx.rs a
    let o := (s.ctx.rs (a + 1)).toNat
    let ctl := (s.ctx.rs b).toNat
    let fe := decide (ctl % 2 = 1)
    let keep := decide (ctl / 2 % 2 = 1)
    let n := if fe then 8 else 2 ^ (ctl / 4 % 4)
    let k := (dieOf s.cur, x.toNat)
    let p := s.spur k
    let data := s.ctx.rs (b + 1)
    let away : Prop := x.toNat ∉ s.myProg.quota ∨ p.fenced = true
    let ready (c : Instr) : Prop :=
      (c = .rld d a b ∧ Ready .t [.w d, .grp a 2, .grp b 1] s) ∨ (c = .rst d a b ∧ Ready .t [.w d, .grp a 2, .grp b 2] s)
    let g := Granule.scr k.1 k.2 o
    let full := granFull s g
    let word := BitVec.ofNat 64 (leNat (p.rd .scr o 8))
    let r (load : Bool) : RemoteReq := ⟨load, fe, keep, n, k.1, k.2, o, d, if load then 0 else data, s.ctx.rs (a + 1)⟩
    let side (load : Bool) : Ctx := if load then s.ctx else s.sided
    (fe = true → Unwoken s) →
    (∀ c, ready c →
      (away → exec c s = .next (takeTrap s ⟨cPROT, x⟩)) ∧
      (¬ away → p.size .scr < o + n →
        exec c s = .next (takeTrap s ⟨cPOOLREF, BitVec.ofNat 64 (2 * 2 ^ 60 + min o (2 ^ 20 - 1))⟩)) ∧
      (¬ away → o + n ≤ p.size .scr → o % n ≠ 0 → exec c s = .next (takeTrap s ⟨cALIGN, s.ctx.rs (a + 1)⟩))) ∧
    (¬ away → o + n ≤ p.size .scr → o % n = 0 → (fe = true → ownDescs s = []) →
      (∀ c load, ready c → (load = true ↔ c = .rld d a b) → s.defer = true →
        ∃ t, exec c s = .next t ∧ t.ctx = side load ∧ t.me.wait = .remote (r load) ∧ t.mem = s.mem ∧ t.feWait = s.feWait) ∧
      (s.defer = false → p.claimed .scr o n = false → p.poisonAt .scr o n = none →
        (fe = false →
          (ready (.rld d a b) → exec (.rld d a b) s = .next (s.doneS d (BitVec.ofNat 64 (leNat (p.rd .scr o n))) false)) ∧
          (ready (.rst d a b) → ∃ t, exec (.rst d a b) s = .next t ∧ t.ctx = (retire (s.setCtx (s.sided.ws d 0 false))).ctx ∧
            t.mem = s.mem ∧ (t.spur k).pool = (p.wr .scr o (leBytes n data.toNat)).pool)) ∧
        (fe = true → (∀ z ∈ s.feWait, z.1 ≠ g) →
          (ready (.rld d a b) → full = true → ∃ t, exec (.rld d a b) s = .next t ∧ t.ctx = (s.doneS d word false).ctx ∧
            Becomes s t g none (if keep then none else some false)) ∧
          (ready (.rst d a b) → keep = true ∨ full = false → ∃ t, exec (.rst d a b) s = .next t ∧
            t.ctx = (retire (s.setCtx (s.sided.ws d (if full then 2 ^ 32 else 0) false))).ctx ∧ Becomes s t g (some data) (some true)) ∧
          (∀ c load, ready c → (load = true ↔ c = .rld d a b) → (load = true ∧ full = false ∨ load = false ∧ keep = false ∧ full = true) →
            remoteHeld s s.cur = false →
            let port := 64 ≤ remoteWaiting s k.1 k.2 ∨ ∃ z ∈ s.ports, z.1.onSpur k.1 k.2 = true
            let waits (q : State → Prop) : Prop :=
              ∃ t, exec c s = .next t ∧ t.ctx = side load ∧ t.me.wait = .remote (r load) ∧ Becomes s t g none none ∧ q t
            (¬ port → waits fun t => t.feWait = s.feWait ++ [(g, s.cur)] ∧ t.ports = s.ports) ∧
            (port → waits fun t => t.feWait = s.feWait ∧ t.ports = s.ports ++ [(g, s.cur)]))))) ∧
    (∀ (i : Nat) (who : AgentId) (q : RemoteReq), (remoteSenders s k.1 k.2)[i]? = some who → (s.agent who).wait = .remote q →
      q.fe = false → q.off + q.size ≤ (s.spur (q.die, q.spur)).size .scr →
      ((s.spur (q.die, q.spur)).claimed .scr q.off q.size) = false →
      ((s.spur (q.die, q.spur)).poisonAt .scr q.off q.size) = none →
      ∃ t, exec (.remoteAccessPerform k.1 k.2 i) s = .next t ∧ (t.agent who).wait = .none ∧ t.mem = s.mem ∧
        (t.agent who).ctx = ((s.turn who).doneS q.d
          (if q.load then BitVec.ofNat 64 (leNat ((s.spur (q.die, q.spur)).rd .scr q.off q.size)) else 0) false).ctx ∧
        (q.load = false → (t.spur (q.die, q.spur)).pool = ((s.spur (q.die, q.spur)).wr .scr q.off (leBytes q.size q.data.toNat)).pool))

/-- R321 to R323, R325, R327, R329, R330, R335: POOLSET decides by its operands, the notice pending and the banks: it refuses
with a code and no effect (POOLSET.T traps), takes the lowest FREE banks zero-filled, gives the highest ones up, or posts a
scratch shrink; POOLACK acknowledges it once, and the last acknowledgment ends it; POOLQ reports. The model's choices in it:
log 39. -/
def Obligations.PoolInstructions : Prop :=
  ∀ (d a : Nat) (s : State),
    let k := s.mySpurKey
    let p := s.spur k
    let w (code v : Nat) : Word := BitVec.ofNat 64 (min v (2 ^ 32 - 1) * 2 ^ 32 + code)
    (∀ b : Nat, Ready .t [.w d, .r a, .r b] s → (∀ z e x, (s.agent z).wait ≠ .ack e x) →
      let r := (s.ctx.rs a).toNat
      let t := (s.ctx.rs b).toNat
      let h := p.heldBanks r
      let taken := p.freeBanks.take (t - h)
      let place (x : Nat) : Nat := tabGet p.places x 0
      let mine (x : Nat) : Prop := p.role x = roleOf r
      let refused (code : Nat) : Prop :=
        exec (.poolset d a b) s = .next (s.doneS d (w code h) false) ∧
        exec (.poolsetT d a b) s = .next (takeTrap s ⟨cPOOLREF, BitVec.ofNat 64 (min r 15 * 2 ^ 60 + 2 ^ 56 + code)⟩)
      let done (code v : Nat) (q : Spur → Prop) : Prop := ∀ c ∈ [Instr.poolset d a b, .poolsetT d a b],
        ∃ u, exec c s = .next u ∧ u.mem = s.mem ∧ u.ctx = (s.doneS d (w code v) false).ctx ∧ q (u.spur k)
      let blocked : Prop := (r = 1 ∧ ∃ z ∈ p.windows, t * 32768 < (z.base + z.len) * 64) ∨
        (r = 2 ∧ p.touchedFrom .scr (t * 32768) = true) ∨
        ((r = 4 ∨ r = 5) ∧ (gangBlocks s k = true ∨ p.touchedFrom (roleOf r) (t * 32768) = true))
      (r = 0 ∨ 7 < r ∨ 32 < t → refused 7) ∧
      (6 ≤ r → r ≤ 7 → t ≤ 32 → refused 6) ∧
      (r = 5 → t ≤ 32 → t % 2 = 1 → refused 5) ∧
      (1 ≤ r → r ≤ 5 → t ≤ 32 → ¬(r = 5 ∧ t % 2 = 1) →
        (p.notice.pending = true → ¬(r = 2 ∧ t = h) → refused 2) ∧
        (p.notice.pending = true → r = 2 → t = h → done 0 h fun q => q.notice.pending = false ∧ q.pool = p.pool ∧ q.roles = p.roles) ∧
        (p.notice.pending = false →
          (t = h → done 0 h fun q => q = p) ∧
          (h < t → p.freeBanks.length < t - h → refused 4) ∧
          (h < t → t - h ≤ p.freeBanks.length → done 0 t fun q =>
            (∀ x < 32, q.role x = if x ∈ taken then roleOf r else p.role x) ∧
            (∀ i < t - h, tabGet q.places (taken.getD i 0) 0 = h + i) ∧
            ∀ x ∈ taken, ∀ o < 32768, memGet q.pool (x * 32768 + o) = 0) ∧
          (t < h → blocked → refused (if r = 1 then 3 else 2)) ∧
          (t < h → ¬ blocked → r ≠ 2 → ((p.banksOf (roleOf r)).map place).Perm (List.range h) → done 0 t fun q =>
            ∀ x < 32, (mine x → t ≤ place x → q.role x = .free) ∧ (¬(mine x ∧ t ≤ place x) → q.role x = p.role x)) ∧
          (t < h → ¬ blocked → r = 2 → wakeable s s.cur s.me = false → done 1 ((p.notice.seq + 1) % 2 ^ 16) fun q =>
            q.notice.pending = true ∧ q.notice.seq = (p.notice.seq + 1) % 2 ^ 16 ∧ q.notice.target = t ∧ q.roles = p.roles ∧
            q.pool = p.pool)))) ∧
    (Ready .t [.w d, .r a] s →
      let n := p.notice
      let me := s.me.outer
      let x := (s.ctx.rs a).toNat
      let ack := n.update me fun m => { m with acked := true }
      let waitsOn : Prop := ackWaits s = true
      (waitsOn → exec (.poolack d a) s = .next (s.setMe { s.me with wait := .ack d (x % 2 ^ 16), wmode := s.mode })) ∧
      (¬ waitsOn → (n.pending = false ∨ x % 2 ^ 16 ≠ n.seq) → exec (.poolack d a) s = .next (s.doneS d (w 7 n.unack) false)) ∧
      (¬ waitsOn → n.pending = true → x % 2 ^ 16 = n.seq →
        ((∀ m, n.member me = some m → m.acked = true) → exec (.poolack d a) s = .next (s.doneS d (w 0 n.unack) false)) ∧
        ((∃ m, n.member me = some m ∧ m.acked = false) →
          ∃ u, exec (.poolack d a) s = .next u ∧ u.mem = s.mem ∧ u.ctx = (s.doneS d (w 0 ack.unack) false).ctx ∧
            let ended : Prop := ack.unack = 0 ∧ p.touchedFrom .scr (n.target * 32768) = false
            (ended → (u.spur k).notice = { ack with pending := false } ∧
              ∀ y < 32, (u.spur k).role y = if p.role y = .scr ∧ n.target ≤ tabGet p.places y 0 then .free else p.role y) ∧
            (¬ ended → (u.spur k).notice = ack ∧ (u.spur k).roles = p.roles))) ∧
      (x ≤ 7 → ∃ m, exec (.poolq d a) s = .next (s.doneS d (w 0 m) false) ∧ m < 2 ^ 32 ∧
        ∀ y < 32, m.testBit y = true ↔ if y ∈ p.fencedBanks then x = 6 else if y ∈ p.heldOut then x = 7 else x = (p.role y).code) ∧
      (x = 8 → exec (.poolq d a) s = .next (s.doneS d (w 0 p.freeUnits.length) false)) ∧
      (x = 9 → ∃ m, exec (.poolq d a) s = .next (s.doneS d (w 0 m) false) ∧ (m = 0 ∨ ∃ y, ∀ i < m, y + i ∈ p.freeUnits) ∧
        ¬ ∃ y, ∀ i < m + 1, y + i ∈ p.freeUnits) ∧
      (32 ≤ x → x ≤ 63 → exec (.poolq d a) s = .next (s.doneS d
        (w 0 (if x - 32 ∈ p.outBanks ∨ p.role (x - 32) = .free then 2 ^ 32 - 1 else tabGet p.places (x - 32) 0)) false)) ∧
      ((9 < x ∧ x < 32) ∨ 63 < x → exec (.poolq d a) s = .next (s.doneS d (w 7 0) false)))

/-! ### Traps, registers and the context (13_translation.md, 14_recovery.md) -/

/-- R352, R357, R360, R361: TRAP and BKPT take SWTRAP; taking a trap writes TPC, TCAUSE with INH, TVAL and the PC of the handler and nothing
else of the context, and ends the program where INH is set or there is no handler; TRET goes back to TPC with INH clear, and into the
frame there where FRM is active. -/
def Obligations.TrapsAndReturns : Prop :=
  (∀ (i : Nat) (s : State), exec (.trap i) s = .next (takeTrapAt s ⟨0x0A, BitVec.ofNat 64 i⟩ (s.ctx.pc + 4))) ∧
  (∀ s : State, exec .bkpt s = .next (takeTrap s ⟨0x0A, 0x400⟩)) ∧
  (∀ (s : State) (tr : Trap) (tpc : Word), tr.cause < 256 →
    let c := s.ctx
    let h := c.tvec.toNat / 4 * 4
    let t := takeTrapAt s tr tpc
    (c.tcause.getLsbD 8 = false → h ≠ 0 →
      t.ctx = { c with pc := BitVec.ofNat 64 h, tpc := tpc, tcause := BitVec.ofNat 64 (256 + tr.cause), tval := tr.tval
                       inFrame := false } ∧
      t.me.wait = .none ∧ t.mem = s.mem ∧ t.myProg = s.myProg) ∧
    ((c.tcause.getLsbD 8 = true ∨ h = 0) → t.me = s.me ∧ t.mem = s.mem ∧
      (s.myProg.ending = none → (t.prog s.myKey).ending =
        some ⟨if c.tcause.getLsbD 8 then 2 else 1, tr.cause, tr.tval, tpc, if isSlot s.cur then c.tid.toNat else 2 ^ 32 - 1,
          if isSlot s.cur then spurOf s.cur else 0, none, false⟩))) ∧
  (∀ s : State, Ready .tm [] s →
    let c := s.ctx
    let back (u : State) (frame : Bool) : Prop := ∃ t, exec .tret s = .next t ∧ t.me.wait = .none ∧ t.mem = u.mem ∧
      t.ctx = { c with pc := c.tpc, tcause := c.tcause &&& ~~~256#64, inFrame := frame, instret := c.instret + 1 }
    (c.tpc.toNat % 4 ≠ 0 → exec .tret s = .next (takeTrap s ⟨cALIGN, c.tpc⟩)) ∧
    (c.tpc.toNat % 4 = 0 → c.frm.getLsbD 12 = false → back s false) ∧
    (∀ w u, c.tpc.toNat % 4 = 0 → c.frm.getLsbD 12 = true → (fetchWord c.tpc).run s = .ok (w, u) →
      (bits w 31 24 ≠ 0xFC → exec .tret s = .next (takeTrap s ⟨cILLOP, BitVec.ofNat 64 w⟩)) ∧
      (bits w 31 24 = 0xFC → u.ctx = c → back u true)))

/-- R55, R362: the control and status registers. A number that the table does not list traps ILLOP, and so do a write of a
register without a writable field and a thread's register on the master; a register of the master alone traps PRIV in a
thread. CSRR reads; CSRW, CSRS and CSRC write, set and clear the writable fields and leave everything else. The model's
choices in it: the TVAL of ILLFMT with the reserved bits cleared (log 24), and log 33. -/
def Obligations.ControlRegisters : Prop :=
  (∀ (n c : Nat) (s : State) (t : Nat),
    (csrTrap s.cur c false = some t → exec (.csrr n c) s = .next (takeTrap s ⟨t, BitVec.ofNat 64 s.iw⟩)) ∧
    (csrTrap s.cur c true = some t → ∀ f ∈ [Instr.csrw n c, .csrs n c, .csrc n c],
      exec f s = .next (takeTrap s ⟨t, BitVec.ofNat 64 s.iw⟩)) ∧
    (csrTrap s.cur c false = none → Ready .tm [.w n] s → exec (.csrr n c) s = .next (s.doneS n (csrRead s c) false))) ∧
  (∀ (a : AgentId) (w : Bool),
    (∀ c ∈ [0x00D, 0x0FF, 0x107, 0x112, 0x117, 0x11F, 0x1FF, 0x208, 0x20F, 0x213, 0x2FF, 0x400, 0xFFF], csrTrap a c w = some cILLOP) ∧
    (∀ c ≤ 0xC, csrTrap a c true = some cILLOP ∧ csrTrap a c false = none) ∧
    (isMaster a = true →
      (∀ c ∈ [0x108, 0x10F, 0x110, 0x111, 0x118, 0x11C, 0x11D], csrTrap a c w = some cILLOP) ∧
      (∀ c ∈ [0x100, 0x101, 0x102, 0x103, 0x104, 0x105, 0x106, 0x11E, 0x200, 0x207, 0x210, 0x212], csrTrap a c w = none) ∧
      csrTrap a 0x211 true = some cILLOP ∧ csrTrap a 0x211 false = none ∧ csrTrap a 0x300 w = some cPRIV) ∧
    (isSlot a = true →
      (∀ c ∈ [0x100, 0x106, 0x108, 0x10F, 0x110, 0x111, 0x118, 0x11C, 0x11D, 0x11E], csrTrap a c w = none) ∧
      ∀ c ∈ [0x200, 0x207, 0x210, 0x212, 0x300], csrTrap a c w = some cPRIV)) ∧
  (∀ (s : State) (d p k n : Nat), s.cur = .slot d p k n →
    [0, 1, 2, 3, 4, 5, 6, 7, 8].map (csrRead s) =
      [s.ctx.tid, s.ctx.tcount, s.ctx.spwid, s.ctx.parent, s.ctx.nlevel, BitVec.ofNat 64 n, BitVec.ofNat 64 k, BitVec.ofNat 64 p,
        BitVec.ofNat 64 d]) ∧
  (∀ (s : State) (d k : Nat), s.cur = .master d k →
    [0, 1, 2, 3, 4, 5, 6, 7, 8].map (csrRead s) = [0, 0, 0, 0, 0, 0, 0, 0, BitVec.ofNat 64 d]) ∧
  (∀ s : State, [0x00B, 0x100, 0x101, 0x102, 0x103, 0x104, 0x105, 0x106, 0x110, 0x111, 0x11E].map (csrRead s) =
    [s.ctx.instret, s.ctx.fcsr, s.ctx.srseed, s.ctx.wlim, s.ctx.tvec, s.ctx.tcause, s.ctx.tval, s.ctx.tpc, s.ctx.ring, s.ctx.gangid,
      s.ctx.frm]) ∧
  (∀ (a : Nat) (s : State), Ready .tm [.r a] s →
    let x := s.ctx.rs a
    let p := s.myProg
    let writes (c : Nat) (m old : Word) (q : Instr → Word → Prop) : Prop := csrTrap s.cur c true = none →
      q (.csrw a c) (old &&& ~~~m ||| x &&& m) ∧ q (.csrs a c) (old ||| x &&& m) ∧ q (.csrc a c) (old &&& ~~~(x &&& m))
    let own (c : Nat) (m old : Word) (f : Word → Ctx) : Prop := writes c m old fun i v => exec i s = .next (retire (s.setCtx (f v)))
    own 0x101 (BitVec.allOnes 64) s.ctx.srseed (fun v => { s.ctx with srseed := v }) ∧
    own 0x102 (BitVec.ofNat 64 (2 ^ 48 - 1)) s.ctx.wlim (fun v => { s.ctx with wlim := v }) ∧
    own 0x103 (BitVec.ofNat 64 (2 ^ 64 - 4)) s.ctx.tvec (fun v => { s.ctx with tvec := v }) ∧
    own 0x104 0x1FF s.ctx.tcause (fun v => { s.ctx with tcause := v }) ∧
    own 0x105 (BitVec.allOnes 64) s.ctx.tval (fun v => { s.ctx with tval := v }) ∧
    own 0x106 (BitVec.allOnes 64) s.ctx.tpc (fun v => { s.ctx with tpc := v }) ∧
    own 0x110 0x1FFFF s.ctx.ring (fun v => { s.ctx with ring := v }) ∧
    own 0x111 0xFF s.ctx.gangid (fun v => { s.ctx with gangid := v }) ∧
    own 0x11E 0x1FFF s.ctx.frm (fun v => { s.ctx with frm := v }) ∧
    writes 0x100 0x7F0FF s.ctx.fcsr (fun i v => exec i s = .next (if v.toNat / 32 % 8 < 6 then retire (s.setCtx { s.ctx with fcsr := v })
      else takeTrap s ⟨cILLOP, BitVec.ofNat 64 s.iw⟩)) ∧
    writes 0x11D 0x20000 (csrRead s 0x11D) (fun i v => exec i s = .next (retire (s.setCtx { s.ctx with wake := v.getLsbD 17 }))) ∧
    (∀ n < 8, writes (0x108 + n) (BitVec.allOnes 64) (tabGet s.ctx.ksh n 0) fun i v => exec i s = .next (
      if shapeValid (kshMask v) then retire (s.setCtx { s.ctx with ksh := tabSet s.ctx.ksh n (kshMask v) })
      else takeTrap s ⟨cILLFMT, kshMask v⟩)) ∧
    (∀ n < 8, writes (0x200 + n) (BitVec.allOnes 64) (tabGet p.jres n 0) fun i v =>
      exec i s = .next (retire (s.setMyProg { p with jres := tabSet p.jres n v }))) ∧
    writes 0x210 0xFFF00000 (csrRead s 0x210) (fun i v =>
      exec i s = .next (retire (s.setMyProg { p with lostix := v.toNat / 2 ^ 20 % 2 ^ 12 }))) ∧
    writes 0x212 31 (BitVec.ofNat 64 p.spflags.toNat) (fun i v =>
      exec i s = .next (retire (s.setMyProg { p with spflags := BitVec.ofNat 5 v.toNat }))) ∧
    writes 0x300 0xFFFFFFFFFF (csrRead s 0x300) (fun i v => exec i s = .next (retire (s.setDie (dieOf s.cur)
      { s.die (dieOf s.cur) with errLimit := v.toNat / 2 ^ 32 % 2 ^ 8, errWindow := v.toNat % 2 ^ 32 }))) ∧
    ∀ r, 1 ≤ r → r ≤ 5 → writes (0x117 + r) (BitVec.ofNat 64 (0x7FFF * 2 ^ 37)) (csrRead s (0x117 + r)) fun i v =>
      ∃ t, exec i s = .next t ∧ t.ctx = (retire s).ctx ∧
        ∀ j, tabGet (t.spur s.mySpurKey).hwm j 0 = if j = r then v.toNat / 2 ^ 37 % 2 ^ 15 else tabGet (s.spur s.mySpurKey).hwm j 0)

/-- R345 to R347, R363, R364: FENCEI performs the stores of the issuer and discards the words fetched ahead; HALT waits for an
outstanding spawn and then asks for the program's end; TLBINV, once what used them is performed, drops exactly the entries its control
word covers; PROBE gives what an entry holds and makes no access. The model's choices in it: log 10, 21. -/
def Obligations.SystemInstructions : Prop :=
  (∀ s : State, Ready .tm [] s → (∀ p ∈ s.me.pend, pendFree s p = true) →
    ∃ t, exec .fencei s = .next t ∧ t.ctx = (retire s).ctx ∧ t.me.ahead = [] ∧
      (isSlot s.cur = true → (t.spur s.mySpurKey).ibuf = []) ∧
      ∀ p ∈ t.me.pend, p ∈ s.me.pend ∧ ∃ f w y, p.kind = .red f w y) ∧
  (∀ s : State, Ready .m [] s →
    (s.myProg.spawning = true → joinReady s.myProg = false →
      exec .halt s = .next (s.setMe { s.me with wait := .halt, wmode := s.mode })) ∧
    (s.myProg.spawning = false ∨ joinReady s.myProg = true → s.myProg.ending = none →
      exec .halt s = .next (s.setMyProg { s.myProg with ending := some ⟨0, 0, 0, 0, 2 ^ 32 - 1, 0, none, false⟩ }))) ∧
  (∀ (a b : Nat) (s : State), Ready .p [.r a, .r b] s →
    let w := (s.ctx.rs b).toNat
    let covered (t : TlbEntry) : Bool := (w.testBit 17 || t.asid == w % 2 ^ 16) &&
      (w.testBit 16 || decide ((s.ctx.rs a).toNat % 2 ^ 48 / 2 ^ t.size = t.page % 2 ^ 48 / 2 ^ t.size))
    let gone := s.tlb.filter covered
    (∀ x ∈ s.agents, x.2.pend = []) → stillUsed s (invCtl w) (s.ctx.rs a).toNat = false →
    ∃ t, exec (.tlbinv a b) s = .next t ∧ t.ctx = (retire s).ctx ∧ (t.tlb = s.tlb.filter fun e => !covered e) ∧ t.mem = s.mem ∧
      (w.testBit 18 = true → ∀ l ∈ t.l1, inPages gone (l.line * 64) = false)) ∧
  (∀ (d a : Nat) (s : State), Ready .tm [.w d, .r a] s →
    let va := (s.ctx.rs a).toNat % 2 ^ 56
    let b (x : Bool) (k : Nat) : Nat := if x then 2 ^ k else 0
    let word (e size : Nat) : Nat := pteSpace e * 2 ^ 12 + (if pteSpace e = 0 then pteHome e * 2 ^ 10 else 0) +
      (match size with | 12 => 0 | 16 => 1 | 21 => 2 | _ => 3) * 2 ^ 7 + b (pteMigrating e) 6 + b (pteStream e) 5 +
      b (pteRoSpawn e) 4 + b (pteX e) 3 + b (pteW e) 2 + b (pteR e) 1 + 1
    let found := tlbFind s (dieOf s.cur) (tlbSpur s.cur) s.myProg.asid va
    (2 ^ 48 ≤ va → exec (.probe d a) s = .next (s.doneS d 0 false)) ∧
    (va < 2 ^ 48 →
      (∀ t, found = some t → exec (.probe d a) s = .next (s.doneS d (BitVec.ofNat 64 (word t.entry t.size)) false)) ∧
      (∀ e size, found = none → walk s s.myProg.asid va = .leaf e size → ∃ u, exec (.probe d a) s = .next u ∧ u.mem = s.mem ∧
        u.ctx = (s.doneS d (BitVec.ofNat 64 (word e size)) false).ctx) ∧
      (found = none → walk s s.myProg.asid va ∈ [.invalid, .malformed, .noRoot] →
        exec (.probe d a) s = .next (s.doneS d 0 false))))

/-- R365, R367, R371, R372: CTXSV asks for the save of a program and stalls until it completes, or refuses it with SAVESTAT; the save
writes the context, keeps the program's counts and registers and frees its core; CTXRS of a saved area puts it back on a free master
core, its spawn, its Ridge registers and its threads as they were, or refuses with SAVESTAT and changes no program. The model's
choices in it: log 27, 28, 35, 52. -/
def Obligations.ContextSaveAndRestore : Prop :=
  (∀ (a n : Nat) (s : State), 8 ≤ n → ∀ c ∈ [Instr.ctxsv a n, .ctxrs a n],
    exec c s = .next (takeTrap s ⟨cILLOP, BitVec.ofNat 64 s.iw⟩)) ∧
  (∀ (a n : Nat) (s : State), n < 8 → Ready .p [.r a] s →
    let k := (dieOf s.cur, n)
    let p := s.prog k
    let area := (s.ctx.rs a).toNat % 2 ^ 56
    let key := physKey (s.ctx.rs a).toNat
    let stat (code : Nat) : List Host.Cell := if keyExists (key + 3) = true then memSets s.mem [key + 3] (leBytes 1 code) else s.mem
    (p.running = false → s.ownedLine key = false → ∃ t, exec (.ctxsv a n) s = .next t ∧ t.ctx = (retire s).ctx ∧ t.prog k = p ∧
      t.mem = stat 2) ∧
    (∀ keys, p.running = true → PartKeys s k .read area 8 keys → PartKeys s k .write area 8 keys →
      let w0 := leNat (memGets s.mem keys)
      let refused (code : Nat) : Prop := ∃ t, exec (.ctxsv a n) s = .next t ∧ t.ctx = (retire s).ctx ∧ t.prog k = p ∧
        t.mem = memSets s.mem keys (leBytes 8 (setField (setField w0 31 24 code) 63 56 0))
      (p.ending ≠ none ∨ p.saving ≠ none → refused 2) ∧
      (p.ending = none → p.saving = none → bits w0 15 0 ≠ 1 ∨ 1 < bits w0 23 16 → refused 7) ∧
      (p.ending = none → p.saving = none → bits w0 15 0 = 1 → bits w0 23 16 ≤ 1 →
        ∃ t, exec (.ctxsv a n) s = .next t ∧ t.me.wait = .save n ∧ t.ctx = s.ctx ∧ t.mem = s.mem ∧
          t.prog k = { p with saving := some ⟨area, none⟩ })) ∧
    ((∀ y ∈ span key 8, s.ownedLine y = false) →
      let refused (code : Nat) : Prop := ∃ t, exec (.ctxrs a n) s = .next t ∧ t.ctx = (retire s).ctx ∧ t.prog k = p ∧
        t.saved = s.saved ∧ t.mem = stat code
      (p.running = true → refused 2) ∧
      (p.running = false → headerOk s key = false → refused 7) ∧
      (p.running = false → headerOk s key = true → findSaved s k key = none → refused 7) ∧
      (∀ x copy, p.running = false → headerOk s key = true → findSaved s k key = some (x, copy) →
        let rooted := tabGet s.roots x.asid 0 % 2 = 1
        (¬ rooted → refused 7) ∧
        (rooted → canRestore s k.1 x = false → refused 4) ∧
        (∀ b u, rooted → canRestore s k.1 x = true → (inAsid k x.asid (readBack k x copy)).run (freshRoot x.asid s) = .ok (b, u) →
          let m : Place := ⟨k.1, n, (x.spurs.map (·.1)).zip (restoreSpurs s k.1 x)⟩
          let whole : Prop := ∀ y ∈ b.img ++ b.dyn, y.2.kept = true ∧ y.2.bad = []
          ∃ t, exec (.ctxrs a n) s = .next t ∧ t.ctx = (retire s).ctx ∧
            (let q := t.prog k
             q.asid = x.prog.asid ∧ q.running = x.prog.running ∧ q.saving = none ∧
             (whole → q.u = x.prog.u ∧ q.d = x.prog.d ∧ q.l = x.prog.l ∧ q.e = x.prog.e ∧ q.seq = x.prog.seq ∧
               q.contribs = x.prog.contribs ∧ q.spawn.next = x.prog.spawn.next ∧ q.bars = x.prog.bars ∧ q.ridge = x.prog.ridge ∧
               q.jres = x.prog.jres)) ∧
            (whole → (∀ y ∈ x.threads, isSlot y.1 = true) → (x.threads.map fun y => m.agent y.1).Nodup →
              (t.agent (.master k.1 n)).ctx = x.master.ctx ∧
              ∀ y ∈ x.threads, (t.agent (m.agent y.1)).ctx = y.2.ctx ∧ (t.agent (m.agent y.1)).live = y.2.live ∧
                (t.agent (m.agent y.1)).core = n))))) ∧
  (∀ (die core : Nat) (s u : State) (r : SaveReq) (m : Image),
    let k := (die, core)
    let w := restProgram k s
    (s.prog k).saving = some r → r.page = none → (s.prog k).ending = none → saveReady s k = true →
    (dynRoom s k (saveRecords s k) = false → ∃ t, exec (.contextSaveComplete die core) s = .next t ∧ t.saved = s.saved ∧
      ∃ x ∈ (t.die die).extents, x.core = core) ∧
    (dynRoom s k (saveRecords s k) = true → (w.prog k).ending = none → atRest w k = true →
    (do let m ← imageOf k
        writeContext k r.area m (w.prog k).quota.length
        pure m : Act Image).run w = .ok (m, u) →
    ∃ t x, exec (.contextSaveComplete die core) s = .next t ∧ x ∈ t.saved ∧ x.area = r.area ∧ x.asid = (s.prog k).asid ∧
      x.image = m.img ∧ x.prog.u = (s.prog k).u ∧ x.prog.l = (s.prog k).l ∧ x.prog.ridge = (s.prog k).ridge ∧
      x.prog.seq = (s.prog k).seq ∧ t.prog k = Prog.blank ∧ ∀ a, inProgram k (a, s.agent a) = true → t.agent a = Agent.blank))

/-! ### What happens at the homes and in the units (07_ordering_rules.md, 08_memory_instr.md, 11_scheduling.md) -/

/-- R221, R235, R233, R239, R311, R358: a load's reply writes its register; an outstanding store or reduction that is
performed changes its bytes alone and leaves the list, with a trap deferred where its word is poisoned or its home cannot be
reached; a claim is granted to the head of its word's queue and its release performs the atomic; the SFU takes requests in
order and a result waits in the slot's token cell. The model's choices in it: log 2, 48, 50. -/
def Obligations.AccessEvents : Prop :=
  (∀ (who : AgentId) (s : State) (r : LoadReq) (bs : List Byte), (s.agent who).wait = .load r →
    ReadsAs (s.turn who) (r.ea.toNat % 2 ^ 56) r.size bs →
    let n := leNat bs
    let v : Word := if r.signed then (BitVec.ofNat (8 * r.size) n).signExtend 64 else BitVec.ofNat 64 n
    ∃ t, exec (.loadReply who) s = .next t ∧ (t.agent who).wait = .none ∧ t.mem = s.mem ∧ t.full = s.full ∧
      (t.agent who).ctx = (if r.vector then (s.turn who).doneV r.d (BitVec.ofNat 128 n) else (s.turn who).doneS r.d v r.taint).ctx) ∧
  (∀ (who : AgentId) (i : Nat) (s : State) (p : Pend), (s.agent who).pend[i]? = some p → p.queued = false →
    claimedWord s p.keys = false → (∀ k ∈ p.keys, s.ownedLine k = false) → (∀ q ∈ (s.agent who).pend.take i, overlaps q p.keys = false) →
    let a := s.agent who
    let left (t : State) : Prop := (t.agent who).pend = (a.pend.filter fun q => q.id ≠ p.id) ∧ (t.agent who).ctx = a.ctx ∧
      t.full = s.full
    let deferred (t : State) (tr : Trap) : Prop :=
      (a.frames.length ≤ p.depth → (t.agent who).dtraps = a.dtraps ++ [tr] ∧ (t.agent who).frames = a.frames) ∧
      (p.depth < a.frames.length → (t.agent who).dtraps = a.dtraps ∧
        ∀ f, a.frames[a.frames.length - 1 - p.depth]? = some f →
          (t.agent who).frames[a.frames.length - 1 - p.depth]? = some { f with dtraps := f.dtraps ++ [tr] })
    ((∀ h ∈ p.homes, s.reach h = true) →
      (∀ bs, p.kind = .store bs → ∃ t, exec (.storePerform who i) s = .next t ∧ left t ∧ t.mem = memSets s.mem p.keys bs ∧
        (t.agent who).dtraps = a.dtraps) ∧
      (∀ fn w y, p.kind = .red fn w y →
        ((∀ k ∈ p.keys, s.poisoned k = false ∧ s.spillKey k = false) → ∃ t, exec (.redApply who i) s = .next t ∧ left t ∧ (t.agent who).dtraps = a.dtraps ∧
          t.mem = memSets s.mem p.keys (leBytes p.keys.length (redApply fn w (leNat (memGets s.mem p.keys)) y))) ∧
        ((∃ k ∈ p.keys, s.poisoned k = true) → ∃ t, exec (.redApply who i) s = .next t ∧ left t ∧ t.mem = s.mem ∧
          deferred t ⟨cPOISON, BitVec.ofNat 64 (p.ea.toNat % 2 ^ 56)⟩))) ∧
    ((∃ h ∈ p.homes, s.reach h = false) →
      (∀ bs, p.kind = .store bs → ∃ t, exec (.storePerform who i) s = .next t ∧ left t ∧
        deferred t ⟨cLINKERR, p.ea⟩ ∧
        (t.mem = s.mem ∨ t.mem = memSets s.mem p.keys bs)))) ∧
  (∀ (word : Nat) (who : AgentId) (rest : List ClaimEntry) (s : State), tabGet s.claims word [] = .amo who :: rest →
    (word ∉ s.granted → s.poisoned (word * 8) = false →
      exec (.claimGrant word) s = .next { s with granted := word :: s.granted.filter (· ≠ word) }) ∧
    (∀ r, word ∉ s.granted → s.poisoned (word * 8) = true → rest = [] → (s.agent who).wait = .claim r →
      ∃ t, exec (.claimGrant word) s = .next t ∧ tabGet t.claims word [] = [] ∧ t.mem = s.mem ∧
        t.agent who = (takeTrap (s.turn who) ⟨cPOISON, r.ea⟩).me) ∧
    (∀ r : AmoReq, word ∈ s.granted → rest = [] → (s.agent who).wait = .claim r → (r.w = 32 ∨ r.w = 64) → r.keys.length = r.w / 8 →
      (∀ k ∈ r.keys, s.poisoned k = false ∧ s.spillKey k = false) →
      let old := leNat (memGets s.mem r.keys)
      let new := memSets s.mem r.keys (leBytes (r.w / 8) (amoNew r old))
      let served (t : State) : Prop := exec (.claimRelease word) s = .next t ∧ tabGet t.claims word [] = [] ∧ word ∉ t.granted
      ((∀ h ∈ r.homes, s.reach h = true) → ∃ t, served t ∧ (t.agent who).wait = .none ∧ t.mem = new ∧
        (t.agent who).ctx = ((s.turn who).doneS r.d ((BitVec.ofNat r.w old).signExtend 64) false).ctx) ∧
      ((∃ h ∈ r.homes, s.reach h = false) → ∃ t, served t ∧ t.agent who = (takeTrap (s.turn who) ⟨cLINKERR, r.ea⟩).me ∧
        (t.mem = s.mem ∨ t.mem = new)))) ∧
  (∀ (die spur : Nat) (r : SfuReq) (rest : List SfuReq) (s : State),
    let p := s.spur (die, spur)
    (p.sfu = r :: rest → ∃ t, exec (.sfuRequestAccept die spur) s = .next t ∧ t.mem = s.mem ∧ t.agents = s.agents ∧
      (t.spur (die, spur)).sfu = rest ∧ (t.spur (die, spur)).sfuRun = p.sfuRun ++ [r]) ∧
    (p.sfuRun = r :: rest → ∃ t, exec (.sfuResult die spur) s = .next t ∧ t.mem = s.mem ∧ (t.spur (die, spur)).sfuRun = rest ∧
      ((s.agent r.who).live = true → (s.agent r.who).wait = .sfu →
        tabFind (t.spur (die, spur)).tokens (tokenCell r.who) = some r ∧ t.agent r.who = { s.agent r.who with wait := .none }) ∧
      ((s.agent r.who).live = false ∨ (s.agent r.who).wait ≠ .sfu →
        (t.spur (die, spur)).tokens = p.tokens ∧ t.agents = s.agents)))

/-! ### The fault service, page moves, the governor and errors (07_ordering_rules.md, 11_scheduling.md, 14_recovery.md) -/

/-- R366, R387, R390: the fault service maps a page and lets its waiters go on, or sends the fault to the host; an access held
for a move goes on with its page settled; a ring entry is written at TAIL with the die's vector where the ring has room. R213,
R214, R378: a page move is accepted for an unpinned page of HBM towards a die that writes it more, or for a page of a retired frame, with
its entry marked MIGRATING;
its steps drop the TLB entries, drain the accesses and copy the page, and its commit changes FRAME and HOME alone and clears
MIGRATING; an abort clears MIGRATING alone. The model's choices in it: log 1, 36, 37. -/
def Obligations.FaultService : Prop :=
  ((∀ (die i frame : Nat) (s : State) (f : FaultRec), (s.die die).faults[i]? = some f → servesDie s die = true → f.sent = false →
     let gone (t : State) : Prop := (∀ g ∈ (t.die die).faults, g.id ≠ f.id) ∧
       ∀ a va, dieOf a = die → (s.prog (s.progKey a)).asid = f.asid → (s.agent a).wait = .page va → f.holds va = true →
         (t.agent a).wait = .none ∧ (t.agent a).refused = (s.agent a).refused ∧ (t.agent a).ctx = (s.agent a).ctx
     (∀ key, f.held = false → invalidSlot s 4 (rootTable (tabGet s.roots f.asid 0)) f.va = some key → fwRuns s = true → frame % 2 = 1 →
       retiredFrame s (pteFrame frame / 4096) = false →
       (∃ t, exec (.pageFaultService die i 0 frame) s = .next t ∧ gone t ∧
         t.mem = memSets s.mem (span key 8) (leBytes 8 frame)) ∧
       ∃ t, exec (.pageFaultService die i 2 frame) s = .next t ∧ gone t ∧
         t.mem = memSets (memSets s.mem (span (pteFrame frame) 4096) (List.replicate 4096 0)) (span key 8) (leBytes 8 frame) ∧
         ∀ x ∈ span (pteFrame frame) 4096, t.poisoned x = false) ∧
     (∀ c, f.held = false → c ≠ 0 → c ≠ 2 → ∃ t, exec (.pageFaultService die i c frame) s = .next t ∧ t.mem = s.mem ∧ t.agents = s.agents ∧
       (t.die die).faults[i]? = some { f with sent := true } ∧
       (t.die die).ring.out = (s.die die).ring.out ++
         [1 + cPAGE * 2 ^ 8 + die * 2 ^ 22 + f.acc * 2 ^ 24 + f.id * 2 ^ 32 + f.va * 2 ^ 64 + f.asid * 2 ^ 128 + f.core * 2 ^ 144]) ∧
     (∀ c e size, f.held = true → walk s f.asid f.va = .leaf e size → pteMigrating e = false →
       ∃ t, exec (.pageFaultService die i c frame) s = .next t ∧ gone t ∧ t.mem = s.mem ∧
         t.agenda = f.waiters.map Move.replay ++ s.agenda)) ∧
   (∀ (die : Nat) (s : State) (e : Nat) (rest : List Nat), (s.die die).ring.out = e :: rest →
     let r := (s.die die).ring
     let used := (r.tail + 2 ^ 32 - r.head) % 2 ^ 32
     (r.bound = true → fwRuns s = true → used < 2 ^ r.lsize → (∀ k ∈ ringKeys r, s.ownedLine k = false) →
       claimedWord s (ringKeys r) = false →
       ∃ t, exec (.faultRingWrite die) s = .next t ∧ t.msix = s.msix ++ [1 + die] ∧
         (t.die die).ring = { r with out := rest, tail := (r.tail + 1) % 2 ^ 32 } ∧
         t.mem = memSets s.mem (span (physKey (r.base + 32 * (r.tail % 2 ^ r.lsize))) 32) (leBytes 32 e)) ∧
     (r.bound = false ∨ fwRuns s = false ∨ 2 ^ r.lsize ≤ used ∨ (∃ k ∈ ringKeys r, s.ownedLine k = true) → exec (.faultRingWrite die) s = .next s)) ∧
   (∀ (die v : Nat) (s : State), die < 4 → ∃ t, exec (.frheadWrite die v) s = .next t ∧ t.mem = s.mem ∧
     (t.die die).ring = { (s.die die).ring with head := v % 2 ^ 32 })) ∧
  ((∀ (die asid page dest frame : Nat) (s : State) (e key e' n : Nat),
     let va := page * 4096
     let old := pteFrame e / 4096 * 4096
     walk s asid va = .leaf e 12 → leafSlot s 4 (rootTable (tabGet s.roots asid 0)) va = some (key, e', n) →
     servesDie s die = true → servesDie s dest = true → fwRuns s = true → pteSpace e = 0 → pteMigrating e = false → va < 2 ^ 48 →
     frame * 4096 + 4096 ≤ hbmBytes → retiredFrame s frame = false →
     let writes (d : Nat) : Nat := tabGet s.writes (old / 4096, d) 0
     let moves : Prop := if dest = pteHome e then retiredFrame s (old / 4096) = true ∨ ptePin e = false
       else ptePin e = false ∧ writes (pteHome e) < writes dest
     (¬ moves → exec (.pageMoveAccept die asid page dest frame) s = .next s) ∧
     (moves → ∃ t, exec (.pageMoveAccept die asid page dest frame) s = .next t ∧
       t.mem = memSets s.mem (span key 8) (leBytes 8 (s.rdN key 8 ||| 2 ^ 7)) ∧
       t.moves = s.moves ++ [⟨die, asid, va, 12, old, dest, frame * 4096, .fencing⟩])) ∧
   (∀ (i : Nat) (s : State) (m : PageMove), s.moves[i]? = some m →
     (m.state = .fencing → ∃ t, exec (.migrationInvalAck i) s = .next t ∧ t.mem = s.mem ∧
       t.moves[i]? = some { m with state := .draining } ∧
       ∀ e, e ∈ t.tlb ↔ e ∈ s.tlb ∧ ¬(e.asid = m.asid ∧ e.page / 2 ^ m.size = m.va / 2 ^ m.size)) ∧
     (m.state = .draining → (∀ x ∈ s.owned, m.has (x.line * 64) = false) → (∀ x ∈ s.claims, m.has (x.1 * 8) = true → x.2 = []) →
       (∀ a, ∀ p ∈ (s.agent a).pend, pendFree s p = true) →
       ∃ t, exec (.migrationDrainDone i) s = .next t ∧ t.moves[i]? = some { m with state := .copying } ∧
         (∀ l ∈ t.l1, m.has (l.line * 64) = false) ∧ ∀ a, ∀ p ∈ (t.agent a).pend, ∀ k ∈ p.keys, m.has k = false) ∧
     (∀ key e n, m.state = .copying → m.size = 12 → MemOk s → m.dframe / 4096 < 2 ^ 40 → m.dest < 4 → m.dframe % 4096 = 0 →
       m.frame + 4096 ≤ m.dframe ∨ m.dframe + 4096 ≤ m.frame →
       leafSlot (copyPage m s) 4 (rootTable (tabGet s.roots m.asid 0)) m.va = some (key, e, n) →
       ∃ t, exec (.migrationCommit i) s = .next t ∧ t.moves = listDel s.moves i ∧
         (∀ o < 4096, m.dframe + o ∉ span key 8 → memGet t.mem (m.dframe + o) = memGet s.mem (m.frame + o)) ∧
         (let x := t.rdN key 8
          let y := (copyPage m s).rdN key 8
          bits x 51 12 = m.dframe / 4096 ∧ bits x 53 52 = m.dest ∧ x.testBit 7 = false ∧ bits x 6 0 = bits y 6 0 ∧
          bits x 11 8 = bits y 11 8 ∧ bits x 63 54 = bits y 63 54) ∧
         ∀ d, ∀ f, m.frame ≤ f * 4096 → f * 4096 < m.frame + 4096 → tabGet t.writes (f, d) 0 = 0) ∧
     (∀ key e n, m.state = .copying → m.size = 12 → leafSlot s 4 (rootTable (tabGet s.roots m.asid 0)) m.va = some (key, e, n) →
       ∃ t, exec (.migrationAbort i) s = .next t ∧ t.moves = listDel s.moves i ∧
         t.mem = memSets s.mem (span key 8) (leBytes 8 (let x := s.rdN key 8; if x.testBit 7 then x - 2 ^ 7 else x)))))

/-- R304 to R306, R401: a sample of the governor moves LEVEL by one towards the budget, names the lowest of the hottest zones,
sets the zones in which each program's class is held, and firmware's limits of temperature override it. A program of weight w > 0 that was
held in ⌊100 (1 - w / W)⌋ intervals of its window is held no more, and every other one is. The model's choices in it: log 41. -/
def Obligations.GovernorSamples : Prop :=
  ∀ (die watts : Nat) (temps : List Nat) (s : State), servesDie s die = true →
    let r := s.die die
    let temp (z : Nat) : Nat := temps.getD z 0
    ∃ t, exec (.governorSample die watts temps) s = .next t ∧ t.mem = s.mem ∧ t.agents = s.agents ∧
      let q := t.die die
      let top := temp q.hottest
      (q.hottest < 8 ∧ (∀ z < 8, temp z ≤ top) ∧ ∀ z < q.hottest, temp z < top) ∧
      q.budget = r.newBudget ∧ q.power = watts ∧ q.sample = r.sample + 1 ∧
      q.level = (if fwRuns s = true ∧ 105 < top then 0
        else if r.newBudget < watts then r.level - 1
        else if watts + 25 < r.newBudget then min (r.level + 1) 15 else r.level) ∧
      t.power = (if fwRuns s = true ∧ 115 ≤ top then .stopped else s.power) ∧
      let fresh := r.sample % 100 = 0
      let asked (c : Nat) : Bool := requesting s (die, c) || (decide (¬ fresh) && (s.prog (die, c)).winAsked)
      q.goneWeight = (if fresh then 0 else r.goneWeight) ∧
      ∀ c ∈ runningCores s die,
       let p := s.prog (die, c)
       let p' := t.prog (die, c)
       let others := (((runningCores s die).filter fun x => x ≠ c ∧ asked x).map fun x => (s.prog (die, x)).weight).sum + q.goneWeight
       let lifted : Prop := 0 < p.weight ∧ 100 * others / (others + p.weight) ≤ p'.winHeld
       p'.winHeld = (if fresh then 0 else if p.heldNow = true then p.winHeld + 1 else p.winHeld) ∧ p'.winAsked = asked c ∧ p'.heldNow = false ∧
       (lifted → p'.heldZones = []) ∧ (¬ lifted → ∀ z, z ∈ p'.heldZones ↔ z < 8 ∧
        (s.prog (die, c)).eclass < (if q.level = 15 then 0
          else if q.level = 14 then (if z = q.hottest then 1 else 0)
          else if q.level = 13 then (if z = q.hottest then 2 else 0)
          else if q.level = 12 then (if z = q.hottest then 2 else 1)
          else if z = q.hottest then 3 else 2))

/-- R374, R376 to R379: a corrected error is counted and proves a lasting fault when LIMIT of them fall into WINDOW; an
uncorrectable one poisons the word, line or register it lies in, retires the frame, fences the spur, loses the die or stops
the device; a die comes back from its reset with no program, the device with its fences. The model's choices in it: log 42,
43, 44. -/
def Obligations.ErrorEvents : Prop :=
  (∀ (die unit index : Nat) (s : State), servesDie s die = true →
    let r := s.die die
    let e : ErrorEvent := ⟨unit, index, r.era + r.sample⟩
    let count := ((r.events ++ [e]).filter fun x =>
      decide (x.unit = unit ∧ x.index = index ∧ r.era + r.sample < x.time + 100 * max 1 r.errWindow)).length
    let hit : Prop := 0 < r.errLimit ∧ r.errLimit ≤ count
    unitExists unit index = true →
    ∃ t, exec (.correctedError die unit index) s = .next t ∧ (t.die die).events = r.events ++ [e] ∧
      (¬ hit → t.fences = s.fences ∧ t.spurs = s.spurs ∧ t.mem = s.mem) ∧
      (hit → ⟨unit, die, index⟩ ∉ s.fences →
        (unit = 2 ∨ unit = 3 → t.fences = s.fences ++ [⟨unit, die, index⟩]) ∧
        (unit = 1 → (s.spur (die, index / 32)).role (index % 32) = .free →
          t.fences = s.fences ++ [⟨1, die, index⟩] ∧ index % 32 ∈ (t.spur (die, index / 32)).fencedBanks) ∧
        (unit = 4 → spurSpawning s (die, index) = true → (t.spur (die, index)).worn = true ∧ t.fences = s.fences) ∧
        (unit = 4 → spurSpawning s (die, index) = false → (t.spur (die, index)).fenced = true ∧
          t.fences = s.fences ++ [⟨4, die, index⟩]))) ∧
  (∀ (die index addr : Nat) (s : State), servesDie s die = true →
    let p := s.spur (die, index)
    let b := addr / 32768
    (index < 224 → addr < 2 ^ 20 → p.role b ∈ [.scr, .til, .acc] →
      ∃ t, exec (.uncorrectableError die 1 index addr) s = .next t ∧ t.mem = s.mem ∧
        addr / 8 ∈ (t.spur (die, index)).poisonWords ∧ (t.spur (die, index)).pool = p.pool) ∧
    (∀ x, index < 224 → addr < 2 ^ 20 → p.role b = .rdc →
      p.rdc[(tabGet p.places b 0 * 32768 + addr % 32768) / 64]? = some x →
      ∃ t y, exec (.uncorrectableError die 1 index addr) s = .next t ∧ t.mem = s.mem ∧
        (t.spur (die, index)).rdc[(tabGet p.places b 0 * 32768 + addr % 32768) / 64]? = some y ∧ y.line = x.line ∧ y.bytes = x.bytes ∧
        addr % 64 / 8 ∈ y.bad) ∧
    (∀ r, index < 224 → 2 ^ 20 ≤ addr → addr < 2 ^ 20 + 2048 → tabFind p.tokens ((addr - 2 ^ 20) / 16) = some r →
      ∃ t y, exec (.uncorrectableError die 1 index addr) s = .next t ∧ t.mem = s.mem ∧
        tabFind (t.spur (die, index)).tokens ((addr - 2 ^ 20) / 16) = some y ∧ y.val = r.val ∧ addr % 16 / 8 ∈ y.bad) ∧
    (∃ t, exec (.uncorrectableError die 2 index addr) s = .next t ∧ t.mem = s.mem ∧ t.poisoned (addr % 2 ^ 52) = true ∧
      addr % 2 ^ 52 / 4096 ∈ t.retired) ∧
    (let who := regAgent die index
     let a := s.agent who
     a.live = true → 0 < addr → addr < 128 → (isSlot who = false ∨ addr < a.ctx.window ∨ 96 ≤ addr) →
      ∃ t, exec (.uncorrectableError die 3 index addr) s = .next t ∧ addr ∈ (t.agent who).ctx.poison ∧
        (t.agent who).ctx.regs = a.ctx.regs ∧ t.mem = s.mem) ∧
    (index < 224 → p.fenced = false →
      ∃ t, exec (.uncorrectableError die 4 index addr) s = .next t ∧ (t.spur (die, index)).fenced = true ∧
        ⟨4, die, index⟩ ∈ t.fences ∧ (t.spur (die, index)).pool = [] ∧ (∀ c, p.owner = some c → index ∉ (t.prog (die, c)).quota) ∧
        ∀ c k, (s.agent (.slot die index c k)).live = true → (t.agent (.slot die index c k)).live = false) ∧
    (∃ t, exec (.uncorrectableError die 5 index addr) s = .next t ∧ t.tlb = listDel s.tlb index ∧ t.mem = s.mem) ∧
    (∃ t, exec (.uncorrectableError die 6 index addr) s = .next t ∧ (t.die die).state = .lost ∧
      ∀ a, dieOf a = die → (t.agent a).live = false) ∧
    (∃ t, exec (.uncorrectableError die 7 index addr) s = .next t ∧ t.power = .stopped ∧ t.pcieErrors = s.pcieErrors + 1 ∧ t.mem = s.mem)) ∧
  (∀ (die : Nat) (pass : Bool) (s : State), die < 4 → (s.die die).state = .lost → fwRuns s = true →
    ∃ t, exec (.dieResetComplete die pass) s = .next t ∧ (t.die die).state = (if pass then .up else .out) ∧
      (pass = false → ⟨5, die, 0⟩ ∈ t.fences) ∧
      (∀ c < 8, (s.prog (die, c)).running = false → (t.prog (die, c)).running = false) ∧
      ((∀ x ∈ s.agents, dieOf x.1 = die → x.2.live = false) →
        (∀ c < 8, (s.prog (die, c)).running = true → (s.prog (die, c)).runList = [] ∧
          ∃ e, (s.prog (die, c)).ending = some e ∧ e.page = none ∧ e.skip = true) →
        ∀ c < 8, (t.prog (die, c)).running = false)) ∧
  (∀ s : State, s.power = .stopped → MemOk s → ∃ t, exec (.deviceReset BootFails.none) s = .next t ∧ t.power = .idle ∧ t.agents = [] ∧ t.retired = s.retired ∧
    t.progs = [] ∧ t.queues = [] ∧ t.tlb = [] ∧ t.roots = [] ∧ t.fences = s.fences ∧
    ∀ k, keySpace k ≠ 0 → memGet t.mem k = memGet s.mem k)

/-! ### Host queues (11_scheduling.md, 15_firmware_links.md) -/

/-- R295 to R301, R387, R391, R392: a doorbell writes TAIL, and past the ring puts the queue in ERROR; an invalid head packet
puts it in ERROR with its ESTAT and HEAD unchanged; BARRIER blocks it; a failed fetch puts it in FETCH_FAULT; a LAUNCH that is
chosen starts its program on the lowest free master core with the lowest free spurs and the registers of its packet. The
model's choices in it: log 2, 28, 34. -/
def Obligations.HostQueues : Prop :=
  (∀ (die q v : Nat) (s : State), die < 4 → q < 64 → (s.die die).state = .up → s.power ≠ .off → s.power ≠ .stopped →
    let k := (die, q)
    let r := s.queue k
    let past : Prop := 2 ^ r.lsize < (v % 2 ^ 32 + 2 ^ 32 - r.head) % 2 ^ 32
    let serves : Prop := r.state = .ready ∨ r.state = .blocked ∨ r.state = .fetchFault
    (past ∧ serves → ∃ t, exec (.qdoorWrite die q v) s = .next t ∧ t.mem = s.mem ∧ (t.queue k).state = .error ∧ (t.queue k).estat = 4 ∧
      (t.queue k).tail = v % 2 ^ 32 ∧ (t.queue k).head = r.head) ∧
    (¬(past ∧ serves) → exec (.qdoorWrite die q v) s = .next (s.setQueue k { r with tail := v % 2 ^ 32 }))) ∧
  (∀ (die q w : Nat) (s u : State),
    let k := (die, q)
    let r := s.queue k
    let e := pkEstat s k w
    let starts : List (Nat × Instr) := [(1, .launch die q), (2, .copy die q), (3, .signalSet die q), (4, .signalWait die q),
      (5, .fence die q), (6, .complete die q)]
    (pkKind w = 0 ∨ 6 < pkKind w → e = 1) ∧
    (1 ≤ pkKind w → pkKind w ≤ 6 → (bits w 63 12 ≠ 0 ∨ bits w 66 64 ≠ 0) → e = 2) ∧
    (canFetch s k = true → (fetchPacket k).run s = .ok (w, u) →
      (e ≠ 0 → ∀ x ∈ starts, ∃ t, exec x.2 s = .next t ∧ t.mem = s.mem ∧ (t.queue k).state = .error ∧ (t.queue k).estat = e ∧
        (t.queue k).head = r.head ∧ (t.queue k).started = r.started) ∧
      (e = 0 → w.testBit 10 = true → r.started ≠ [] → ∀ x ∈ starts, x.1 = pkKind w → ∃ t, exec x.2 s = .next t ∧ t.mem = s.mem ∧
        (t.queue k).state = .blocked ∧ (t.queue k).head = r.head ∧ (t.queue k).started = r.started))) ∧
  (∀ (die q : Nat) (s : State), canFetch s (die, q) = true → ∀ tr, (fetchAll (die, q)).run s = .error (.trap tr) →
    ∃ t, exec (.packetFetchFault die q) s = .next t ∧ t.mem = s.mem ∧ (t.queue (die, q)).state = .fetchFault ∧
      (t.queue (die, q)).head = (s.queue (die, q)).head) ∧
  (∀ (die q w c : Nat) (s u v : State) (g : List Word),
    let k := (die, q)
    let r := s.queue k
    canFetch s k = true → (fetchPacket k).run s = .ok (w, u) → pkKind w = 1 → pkEstat s k w = 0 → barred r w = false →
    nextLaunch s die = some q → (s.prog (die, c)).running = false → (∀ x < c, (s.prog (die, x)).running = true) → c < 8 →
    (readGinit k w).run u = .ok (g, v) →
    let ctx := bits w 511 448 % 2 ^ 56
    let z := (freshRoot r.asid v).setProg (die, c) { Prog.blank with asid := r.asid }
    ∃ t, exec (.launch die q) s = .next t ∧ t.power = .active ∧
      (∀ e, (partTrans (die, c) .read ctx 8).run z = .error e → t.mem = s.mem) ∧
      (∀ hk y wk y', (partTrans (die, c) .read ctx 8).run z = .ok (hk, y) → (partTrans (die, c) .write ctx 8).run y = .ok (wk, y') →
        (∀ x ∈ hk ++ wk, z.ownedLine x = false ∧ z.poisoned x = false ∧ z.spillKey x = false) → claimedWord z wk = false →
        let w0 := leNat (memGets s.mem hk)
        t.mem = memSets s.mem wk (leBytes 8 (setField (setField (setField w0 15 0 1) 23 16 1) 63 56 0))) ∧
      (let p := t.prog (die, c)
       p.running = true ∧ p.asid = r.asid ∧ p.prio = bits w 337 336 ∧ p.eclass = bits w 339 338 ∧ p.weight = bits w 347 340 ∧
       p.qmin = bits w 327 320 ∧ p.qmax = bits w 335 328 ∧ p.ctx = ctx ∧ p.sstate = 0 ∧ p.ending = none ∧
       p.quota = (freeSpurs s die (pkBanks w)).take (bits w 335 328) ∧ ∀ n ∈ p.quota, (t.spur (die, n)).owner = some c) ∧
      (let a := t.agent (.master die c)
       a.live = true ∧ a.wait = .none ∧ a.ctx.pc = BitVec.ofNat 64 (bits w 255 192) ∧ a.ctx.wlim = BitVec.ofNat 64 (bits w 431 384) ∧
       a.ctx.tvec = 0 ∧ ∀ i < 32, a.ctx.rs (96 + i) = g.getD i 0) ∧
      (t.queue k).head = (r.head + 1) % 2 ^ 32 ∧ (t.queue k).state = .ready ∧
      (t.queue k).started = r.started ++ [packetOf r.next r.asid w])

/-- R297, R298: the other packets. A COPY starts, moves its bytes in ascending order and completes; SIGNAL_SET, and a FENCE or
COMPLETE with no earlier packet, complete with their signal at once; with an earlier one they wait with their queue BLOCKED,
as a SIGNAL_WAIT does until its word satisfies the condition. The model's choices in it: log 2, 34. -/
def Obligations.Packets : Prop :=
  (∀ (die q w : Nat) (s u : State) (keys : List Nat),
    let k := (die, q)
    let r := s.queue k
    let p := packetOf r.next r.asid w
    let adr := bits w 255 192 % 2 ^ 56
    canFetch s k = true → (fetchPacket k).run s = .ok (w, u) → pkEstat s k w = 0 → barred r w = false → nextOther s die = some q →
    (∀ x ∈ r.started, x.num ≠ r.next) → u.owned = [] → u.claims = [] → tabGet s.roots r.asid 0 % 2 = 1 →
    (if p.scope = 0 then keys = []
     else if p.add then QueueKeys u die r.asid .atomic p.sigAddr 8 keys ∧ ∀ x ∈ keys, u.poisoned x = false ∧ keySpace x ≠ 1
     else QueueKeys u die r.asid .write p.sigAddr 8 keys) →
    let old := leNat (memGets s.mem keys)
    let signalled := if p.scope = 0 then s.mem
      else memSets s.mem keys (leBytes 8 (if p.add then (old + p.sigVal) % 2 ^ 64 else p.sigVal))
    let ended (t : State) : Prop := t.mem = signalled ∧ (t.queue k).started = r.started ∧ (t.queue k).state = .ready ∧
      (t.queue k).head = (r.head + 1) % 2 ^ 32
    let waits (t : State) : Prop := t.mem = s.mem ∧ (t.queue k).started = r.started ++ [p] ∧ (t.queue k).state = .blocked ∧
      (t.queue k).head = (r.head + 1) % 2 ^ 32
    (pkKind w = 2 → ∃ t, exec (.copy die q) s = .next t ∧ t.mem = s.mem ∧ (t.queue k).started = r.started ++ [p] ∧
      (t.queue k).state = .ready ∧ (t.queue k).head = (r.head + 1) % 2 ^ 32) ∧
    (pkKind w = 3 → ∃ t, exec (.signalSet die q) s = .next t ∧ ended t) ∧
    (pkKind w = 5 → r.started = [] → ∃ t, exec (.fence die q) s = .next t ∧ ended t) ∧
    (pkKind w = 5 → r.started ≠ [] → ∃ t, exec (.fence die q) s = .next t ∧ waits t) ∧
    (pkKind w = 6 → r.started = [] → ∃ t, exec (.complete die q) s = .next t ∧ ended t ∧ t.msix = s.msix ++ [bits w 207 192]) ∧
    (pkKind w = 6 → r.started ≠ [] → ∃ t, exec (.complete die q) s = .next t ∧ waits t ∧ t.msix = s.msix) ∧
    (∀ ks, pkKind w = 4 → QueueKeys u die r.asid .read adr 8 ks → (∀ x ∈ ks, u.poisoned x = false ∧ u.spillKey x = false) →
      let x := leNat (memGets s.mem ks)
      let holds : Prop := if bits w 321 320 = 0 then bits w 319 256 ≤ x else if bits w 321 320 = 1 then x = bits w 319 256
        else x ≠ bits w 319 256
      (holds → ∃ t, exec (.signalWait die q) s = .next t ∧ ended t) ∧
      (¬ holds → ∃ t, exec (.signalWait die q) s = .next t ∧ waits t))) ∧
  (∀ (die q i : Nat) (s : State) (p : Packet),
    let k := (die, q)
    let r := s.queue k
    r.started[i]? = some p → (∀ x ∈ r.started, x.num = p.num → x = p) → servesDie s die = true → p.page = none → p.refused = none →
    p.done = false → p.failed = false → tabGet s.roots p.asid 0 % 2 = 1 → p.scope = 0 → s.owned = [] → s.claims = [] → (∀ x ∈ r.started, x.kind < 4 ∨ x.num = p.num) →
    (∀ from_ into, p.kind = 2 → p.pos ≤ p.z → QueueKeys s die p.asid .read (p.y + p.pos) (p.z - p.pos) from_ →
      QueueKeys s die p.asid .write (p.x + p.pos) (p.z - p.pos) into → (∀ x ∈ from_, s.poisoned x = false ∧ s.spillKey x = false ∧ x ∉ into) →
      ∃ t, exec (.copyPacketDone die q i) s = .next t ∧ t.mem = memSets s.mem into (memGets s.mem from_) ∧
        (t.queue k).started = r.started.filter fun x => x.num ≠ p.num) ∧
    (∀ ks, p.kind = 4 → QueueKeys s die p.asid .read (p.x % 2 ^ 56) 8 ks → (∀ x ∈ ks, s.poisoned x = false ∧ s.spillKey x = false) →
      let x := leNat (memGets s.mem ks)
      let holds : Prop := if p.z = 0 then p.y ≤ x else if p.z = 1 then x = p.y else x ≠ p.y
      (∀ x ∈ r.started, x.done = false) →
      (holds → ∃ t, exec (.signalWaitSatisfied die q i) s = .next t ∧ t.mem = s.mem ∧
        (t.queue k).started = (r.started.filter fun x => x.num ≠ p.num) ∧
        (r.state = .blocked → (t.queue k).state = .ready)) ∧
      (¬ holds → ∃ t, exec (.signalWaitSatisfied die q i) s = .next t ∧ t.mem = s.mem ∧ (t.queue k).started = r.started)))

/-! ### The mailbox, firmware, links and power (15_firmware_links.md) -/

/-- R388, R389: the mailbox commands on queues, faults, programs and settings, each taken up while no answer is under way: a
request is answered with its CODE, the answer and its tag, with vector 0, and has its effect only where the answer is OK (a refused
save or restore writes SAVESTAT); a KILL and a CTXSAVE taken up are answered when they are over. The model's choices in it: log 2, 18, 27,
28, 38, 44, 45. -/
def Obligations.MailboxCommands : Prop :=
  ∀ s : State, mbOpen s = true →
    let d := argDie s
    let k := (d, argUnit s)
    let r := s.queue k
    let p := s.prog k
    let code := mbCode s
    let replies (i : Instr) (a : Nat) (q : State → Prop) : Prop := ∃ t, exec i s = .next t ∧ t.mailbox.rsp.take 3 = leBytes 2 code ++ leBytes 1 a ∧
      t.mailbox.done = s.mailbox.tag ∧ t.mailbox.busy = false ∧ (∃ m, t.msix = s.msix ++ m ∧ 0 ∈ m) ∧ q t
    let same (t : State) : Prop := t.queues = s.queues ∧ t.progs = s.progs ∧ t.dies = s.dies ∧ t.mem = s.mem ∧ t.roots = s.roots ∧
      t.node = s.node
    let measured (t : State) : Prop := t.fw.mr 5 = sha3 (s.fw.mr 5 ++ sha3 s.mailbox.sub)
    let up : Prop := d < 4 ∧ (s.die d).state = .up
    let onDies : List (Nat × Instr) := [(1, .qenable), (2, .qdisable), (3, .qreset), (4, .qack), (5, .fring), (6, .fanswer), (7, .extent),
      (8, .kill), (9, .ctxsave), (10, .ctxrestore), (11, .setbudget), (15, .errcfg), (16, .occup)]
    (¬ up → ∀ x ∈ onDies, code = x.1 → replies x.2 aRANGE same) ∧
    (up →
      (64 ≤ argUnit s → ∀ x ∈ onDies, x.1 ≤ 4 → code = x.1 → replies x.2 aRANGE same) ∧
      (8 ≤ argUnit s → ∀ x ∈ onDies, x.1 ∈ [8, 9, 10, 16] → code = x.1 → replies x.2 aRANGE same) ∧
      (argUnit s < 64 →
        (∀ n, code = 1 → queueOf (mbArg s 16 32) = some n → r.state = .disabled → (n.tail + 2 ^ 32 - r.head) % 2 ^ 32 ≤ 2 ^ n.lsize →
          replies .qenable aOK fun t => t.queue k =
            { n with state := .ready, head := r.head, next := r.next, started := enabledStarted r.started }) ∧
        (code = 1 → queueOf (mbArg s 16 32) = none → replies .qenable aRANGE same) ∧
        (∀ n, code = 1 → queueOf (mbArg s 16 32) = some n → r.state ≠ .disabled → replies .qenable aBUSY same) ∧
        (code = 2 → r.state ≠ .disabled → r.state ≠ .error → replies .qdisable aOK fun t => (t.queue k).state = .disabled ∧
          (t.queue k).head = r.head ∧ t.mem = s.mem) ∧
        (code = 2 → r.state = .error → replies .qdisable aBUSY same) ∧ (code = 2 → r.state = .disabled → replies .qdisable aOK same) ∧
        (code = 3 → (r.state = .disabled ∨ r.state = .error) → replies .qreset aOK fun t =>
          t.queue k = { r with state := .disabled, estat := 0, head := 0, tail := 0, held := none, page := none, refused := none
                               started := resetStarted r.started }) ∧
        (code = 3 → r.state ≠ .disabled → r.state ≠ .error → replies .qreset aBUSY same) ∧
        (code = 4 → r.state = .fetchFault → arg32 s = r.head → replies .qack aOK fun t => t.queue k = { r with state := .ready }) ∧
        (code = 4 → r.state = .fetchFault → arg32 s ≠ r.head → replies .qack aRANGE same) ∧
        (code = 4 → r.state ≠ .fetchFault → replies .qack aBUSY same)) ∧
      (let n := mbArg s 24 1
       let ok : Prop := argA s % 4096 = 0 ∧ 4 ≤ n ∧ n ≤ 16 ∧ runExists (argA s) (32 * 2 ^ n) = true
       (code = 5 → ok → replies .fring aOK fun t => (t.die d).ring = { (s.die d).ring with bound := true, base := argA s, lsize := n, head := 0, tail := 0 }) ∧
       (code = 5 → ¬ ok → replies .fring aRANGE same)) ∧
      (∀ f, code = 6 → (s.die d).faults.find? (fun f => f.id == arg32 s && f.sent) = some f → mbArg s 16 1 ≤ 1 →
        replies .fanswer aOK fun t => (∀ g ∈ (t.die d).faults, g.id ≠ f.id) ∧
          ∀ a va, dieOf a = d → (s.prog (s.progKey a)).asid = f.asid → (s.agent a).wait = .page va → f.holds va = true →
            (t.agent a).wait = .none ∧ (mbArg s 16 1 = 1 → (t.agent a).refused = some va)) ∧
      (code = 6 → (s.die d).faults.find? (fun f => f.id == arg32 s && f.sent) = none ∨ 1 < mbArg s 16 1 → replies .fanswer aRANGE same) ∧
      let reached := argA s % 2 ^ 21 = 0 ∧ runExists (argA s + (2 ^ 21 - 8)) 8 = true
      (code = 7 → (s.die d).extents.find? (fun x => x.id == arg32 s) = none → replies .extent aRANGE same) ∧
      (∀ x, code = 7 → (s.die d).extents.find? (fun x => x.id == arg32 s) = some x → argA s = 0 → (s.prog (d, x.core)).ending = none →
        replies .extent aOK fun t => ∃ e, (t.prog (d, x.core)).ending = some e ∧ e.reason = 5) ∧
      (∀ x, code = 7 → (s.die d).extents.find? (fun x => x.id == arg32 s) = some x → argA s ≠ 0 → ¬ reached →
        replies .extent aRANGE same) ∧
      (∀ x keys, code = 7 → (s.die d).extents.find? (fun x => x.id == arg32 s) = some x → argA s ≠ 0 → reached →
        PartKeys s (d, x.core) .read ((s.prog (d, x.core)).ctx + 32) 8 keys →
        PartKeys s (d, x.core) .write ((s.prog (d, x.core)).ctx + 32) 8 keys → (∀ k ∈ keys, memGet s.mem k = 0) →
        (∀ y ∈ s.agents, parks y.1 y.2 = false) →
        replies .extent aOK fun t => t.mem = memSets s.mem keys (leBytes 8 (argA s)) ∧
          (t.die d).extents = (s.die d).extents.filter fun y => y.id ≠ x.id) ∧
      (argUnit s < 8 →
        (code = 8 → p.running = true → p.ending = none → ∃ t, exec .kill s = .next t ∧
          t.prog k = { p with ending := some ⟨4, 0, 0, 0, 0, 0, none, false⟩ } ∧ t.mailbox.busy = true ∧ t.mailbox.taken = true) ∧
        (code = 8 → p.running = false → replies .kill aBUSY same) ∧
        (∀ keys, code = 9 → p.running = true → PartKeys s k .read p.ctx 8 keys → PartKeys s k .write p.ctx 8 keys →
          let w0 := leNat (memGets s.mem keys)
          let told (c : Nat) (t : State) : Prop := t.prog k = p ∧ 
            t.mem = memSets s.mem keys (leBytes 8 (setField (setField w0 31 24 c) 63 56 0))
          (p.ending ≠ none ∨ p.saving ≠ none → replies .ctxsave aBUSY (told 2)) ∧
          (p.ending = none → p.saving = none → bits w0 15 0 ≠ 1 ∨ 1 < bits w0 23 16 → replies .ctxsave aRANGE (told 7)) ∧
          (p.ending = none → p.saving = none → bits w0 15 0 = 1 → bits w0 23 16 ≤ 1 → ∃ t, exec .ctxsave s = .next t ∧
            t.prog k = { p with saving := some ⟨p.ctx, none⟩ } ∧ t.mailbox.busy = true ∧ t.mailbox.taken = true ∧ t.mem = s.mem)) ∧
        (code = 9 → p.running = false → replies .ctxsave aBUSY same) ∧
        (let key := physKey (argA s)
         (code = 10 → s.power = .sleep → replies .ctxrestore aBUSY same) ∧
         (code = 10 → s.power ≠ .sleep → (∀ y ∈ span key 8, s.ownedLine y = false) →
         let told (c : Nat) (t : State) : Prop := t.prog k = p ∧ t.saved = s.saved ∧
           t.mem = if keyExists (key + 3) = true then memSets s.mem [key + 3] (leBytes 1 c) else s.mem
         (p.running = true → replies .ctxrestore aBUSY (told 2)) ∧
         (p.running = false → headerOk s key = false → replies .ctxrestore aRANGE (told 7)) ∧
         (p.running = false → headerOk s key = true → findSaved s k key = none → replies .ctxrestore aRANGE (told 7)) ∧
         (∀ x copy, p.running = false → headerOk s key = true → findSaved s k key = some (x, copy) →
           let rooted := tabGet s.roots x.asid 0 % 2 = 1
           (¬ rooted → replies .ctxrestore aRANGE (told 7)) ∧
           (rooted → canRestore s d x = false → replies .ctxrestore aBUSY (told 4)) ∧
           (∀ b u, rooted → canRestore s d x = true → (inAsid k x.asid (readBack k x copy)).run (freshRoot x.asid s) = .ok (b, u) →
             replies .ctxrestore aOK fun t => (t.prog k).asid = x.prog.asid ∧ (t.prog k).running = x.prog.running ∧
               (t.prog k).saving = none ∧
               ((∀ y ∈ b.img ++ b.dyn, y.2.kept = true ∧ y.2.bad = []) → (t.prog k).seq = x.prog.seq))))) ∧
        (code = 16 → p.running = false → replies .occup aBUSY same) ∧
        (code = 16 → p.running = true → replies .occup aOK fun t => same t ∧ ∀ i < 5,
          (t.mailbox.rsp.drop (8 + 8 * i)).take 8 = leBytes 8 ((p.quota.map fun n =>
            ((s.spur (d, n)).banksOf ([Role.reg, .scr, .rdc, .til, .acc].getD i .free)).length).sum))) ∧
      (code = 11 → 300 ≤ arg32 s → arg32 s ≤ 1050 → replies .setbudget aOK fun t =>
        t.die d = { s.die d with newBudget := arg32 s } ∧ measured t) ∧
      (code = 11 → (arg32 s < 300 ∨ 1050 < arg32 s) → replies .setbudget aRANGE same) ∧
      (code = 15 → replies .errcfg aOK fun t => t.die d =
        { s.die d with errLimit := argA s / 2 ^ 32 % 2 ^ 8, errWindow := argA s % 2 ^ 32 } ∧ measured t)) ∧
    (code = 12 → arg32 s ≤ 0x3FFFE → (∀ l < 32, (s.link l).trained = false) → replies .setnode aOK fun t =>
      t.node = arg32 s ∧ measured t) ∧
    (code = 12 → 0x3FFFE < arg32 s → replies .setnode aRANGE same) ∧
    (code = 12 → arg32 s ≤ 0x3FFFE → (∃ l < 32, (s.link l).trained = true) → replies .setnode aBUSY same) ∧
    (let asid := mbArg s 8 2
     (code = 13 → asid = 0 → replies .rootset aRANGE same) ∧
     (code = 13 → asid ≠ 0 → (∃ x ∈ s.progs, x.2.running = true ∧ x.2.asid = asid) → replies .rootset aBUSY same) ∧
     (code = 13 → asid ≠ 0 → (∀ x ∈ s.progs, x.2.running = true → x.2.asid ≠ asid) → replies .rootset aOK fun t =>
       (∀ n, tabGet t.roots n 0 = if n = asid then argA s else tabGet s.roots n 0) ∧ t.mem = s.mem)) ∧
    (let covered (e : TlbEntry) : Bool := ((argB s).testBit 17 || e.asid == argB s % 2 ^ 16) &&
       ((argB s).testBit 16 || decide (argA s % 2 ^ 48 / 2 ^ e.size = e.page % 2 ^ 48 / 2 ^ e.size))
     let gone := s.tlb.filter covered
     code = 14 → (∀ x ∈ s.agents, x.2.pend = []) → stillUsed s (invCtl (argB s)) (argA s) = false →
       replies .inval aOK fun t => (t.tlb = s.tlb.filter fun e => !covered e) ∧
         ((argB s).testBit 18 = true → ∀ l ∈ t.l1, inPages gone (l.line * 64) = false))

/-- R350, R351, R385, R389, R395, R400: the mailbox commands of firmware. UPDATE stages the image at its address and answers later; ATTEST
writes the report, whose registers are the measurements so far, and its signature; EXTEND extends registers 6 and 7 alone;
SLEEP and WAKE change the power state; LINKUP trains a link; any other code is answered UNKNOWN. The model's choices in it:
log 13, 45; that UPDATE is REFUSED where the standby is off and reboots one that had failed, log 38; RANGE for memory that does not
exist, log 18. -/
def Obligations.FirmwareCommands : Prop :=
  ∀ s : State, mbOpen s = true →
    let code := mbCode s
    let f := s.fw
    let replies (i : Instr) (a : Nat) (q : State → Prop) : Prop := ∃ t, exec i s = .next t ∧ t.mailbox.rsp.take 3 = leBytes 2 code ++ leBytes 1 a ∧
      t.mailbox.done = s.mailbox.tag ∧ t.mailbox.busy = false ∧ t.msix = s.msix ++ [0] ∧ q t
    let same (t : State) : Prop := t.fw = s.fw ∧ t.mem = s.mem ∧ t.links = s.links ∧ t.power = s.power
    let n := mbArg s 8 1
    (code = 0x11 → f.upd ≠ .idle → replies .update aBUSY same) ∧
    (code = 0x11 → f.upd = .idle → imageExists (argA s) s = false → replies .update aRANGE same) ∧
    (code = 0x11 → f.upd = .idle → imageExists (argA s) s = true → f.standby.off = true → replies .update aREFUSED same) ∧
    (code = 0x11 → f.upd = .idle → imageExists (argA s) s = true → f.standby.off = false → ∃ t, exec .update s = .next t ∧ t.fw.upd = .staged ∧
      t.mailbox.busy = true ∧ t.mailbox.taken = true ∧
      t.fw.standby = { f.standby with alive := true, prev := f.standby.image, image := t.fw.image } ∧
      (let key := physKey (argA s)
       t.fw.digest = BitVec.ofNat 512 (leNat (sha3 (memGets s.mem (span key (Config.imageLength (memGets s.mem (span key 64)))))))) ∧
      t.fw.active = f.active ∧ t.mem = s.mem) ∧
    let there : Prop := runExists (argA s) n = true ∧ runExists (argB s) 5651 = true
    (code = 0x12 → (n < 32 ∨ 64 < n ∨ ¬ there) → replies .attest aRANGE same) ∧
    (code = 0x12 → 32 ≤ n → n ≤ 64 → there → ∃ report sig, replies .attest aOK fun t => t.fw = s.fw ∧ report.length = 1024 ∧ sig.length = 4627 ∧
      t.mem = memSets s.mem (span (physKey (argB s)) 5651) (report ++ sig) ∧
      (report.drop 16).take n = memGets s.mem (span (physKey (argA s)) n) ∧
      ∀ i < 8, (report.drop (80 + 64 * i)).take 64 = f.mr i) ∧
    let room : Prop := Config.certificate.length ≤ argB s ∧ runExists (argA s) Config.certificate.length = true
    (code = 0x13 → ¬ room → replies .cert aRANGE same) ∧
    (code = 0x13 → room → replies .cert aOK fun t =>
      t.mem = memSets s.mem (span (physKey (argA s)) Config.certificate.length) Config.certificate) ∧
    (code = 0x14 → n ≠ 6 → n ≠ 7 → replies .extend aRANGE same) ∧
    (code = 0x14 → n = 6 ∨ n = 7 → replies .extend aOK fun t =>
      (∀ i, t.fw.mr i = if i = n then sha3 (f.mr i ++ leBytes 64 (mbArg s 16 64)) else f.mr i) ∧ t.mem = s.mem) ∧
    (code = 0x15 → s.power = .idle → busy s = false → replies .sleep aOK fun t => t.power = .sleep ∧ t.mem = s.mem) ∧
    (code = 0x15 → s.power ≠ .idle ∨ busy s = true → replies .sleep aBUSY same) ∧
    (code = 0x16 → s.power ≠ .sleep → replies .wake aOK same) ∧
    (code = 0x16 → s.power = .sleep → replies .wake aOK fun t => t.power = .active ∧ t.mem = s.mem ∧
      ∀ l, (t.link l).state = if l < 32 ∧ (s.link l).state ≠ .down then .training else (s.link l).state) ∧
    (let m := mbArg s 9 1
     (code = 0x17 → (32 ≤ n ∨ 1 < m) → replies .linkup aRANGE same) ∧
     (code = 0x17 → n < 32 → m ≤ 1 → s.node = 0x3FFFF → replies .linkup aBUSY same) ∧
     (code = 0x17 → n < 32 → m = 0 → s.node ≠ 0x3FFFF → (s.link n).state = .down → replies .linkup aOK fun t =>
       t.link n = { s.link n with state := .training }) ∧
     (code = 0x17 → n < 32 → m = 0 → s.node ≠ 0x3FFFF → (s.link n).state ≠ .down → replies .linkup aBUSY same) ∧
     (code = 0x17 → n < 32 → m = 1 → s.node ≠ 0x3FFFF → replies .linkup aOK fun t => (t.link n).state = .down)) ∧
    (code = 0 ∨ 0x17 < code → replies .unknownCommand aUNKNOWN same)

/-- R383 to R386: the firmware events. A working active complex keeps the missed heartbeats at 0; after three the standby
takes over with the error counters of the last journal entry it applied; the journal is applied in order; an update goes
through its states, swaps the roles in one step with the whole journal applied, and ends where a step refuses it. The model's
choices in it: log 2, 38. -/
def Obligations.FirmwareEvents : Prop :=
  ∀ s : State, s.power ≠ .off → s.power ≠ .stopped →
    let f := s.fw
    let on : Prop := f.active.alive = true
    let calm (t : State) : Prop := t.mem = s.mem ∧ t.agents = s.agents ∧ t.queues = s.queues
    (∃ t, exec .heartbeat s = .next t ∧ calm t ∧ t.fw.missed = if f.active.alive then 0 else f.missed + 1) ∧
    (3 ≤ f.missed → f.active.alive = false → f.standby.alive = true → ∃ t, exec .failover s = .next t ∧ calm t ∧
      t.fw.aActive = !f.aActive ∧ t.fw.missed = 0 ∧ t.fw.upd = .idle ∧
      (f.upd = .idle → t.fw.active = f.standby ∧ t.fw.jseq = f.standby.applied ∧
        ∀ x ∈ s.dies, (t.die x.1).events = tabGet f.shadow.counters x.1 [])) ∧
    (f.missed < 3 ∨ f.active.alive = true ∨ f.standby.alive = false → exec .failover s = .next s) ∧
    (∀ b, ∃ t, exec (.firmwareComplexFailure b) s = .next t ∧ t.mem = s.mem ∧
      (if b then t.fw.standby.alive = false ∧ t.fw.active = f.active else t.fw.active.alive = false ∧ t.fw.standby = f.standby) ∧
      (t.power = .stopped ↔ (if b then f.active.alive = false else f.standby.alive = false))) ∧
    (∀ e, f.journal[f.standby.applied]? = some e → f.standby.alive = true → f.upd ≠ .staged → f.upd ≠ .imports →
      ∃ t, exec .journalApply s = .next t ∧ calm t ∧ t.fw.standby.applied = f.standby.applied + 1 ∧
        t.fw.shadow = f.shadow.apply e ∧
        (∀ d es, e = .counters d es → (∀ x, tabGet t.fw.shadow.counters x [] = if x = d then es else tabGet f.shadow.counters x []) ∧
          t.fw.shadow.queues = f.shadow.queues ∧ t.fw.shadow.fences = f.shadow.fences) ∧
        (∀ l, e = .fences l → t.fw.shadow.fences = l ∧ t.fw.shadow.counters = f.shadow.counters)) ∧
    (on → f.standby.alive = true →
      (f.upd = .staged → (∃ t, exec (.updateVerified true) s = .next t ∧ calm t ∧ t.fw.upd = .imports ∧
          t.fw.mr 0 = sha3 (f.mr 0 ++ leBytes 64 f.digest.toNat)) ∧
        ∃ t, exec (.updateVerified false) s = .next t ∧ calm t ∧ t.fw.upd = .idle ∧ t.fw.standby.image = f.standby.prev) ∧
      (f.upd = .imports → ∀ v m,
        let h := tableHeader s
        let body := Config.tableBody (tableOf s).numbers
        bits h 127 64 = f.jseq % 2 ^ 64 ∧ h / 2 ^ 128 = leNat (sha3s body) ∧
        (¬(v = bits h 15 0 ∧ m = bits h 31 16) → exec (.stateTableImport v m) s = .next s) ∧
        (v = bits h 15 0 → m = bits h 31 16 → ∃ t, exec (.stateTableImport v m) s = .next t ∧ calm t ∧ t.fw.header = h ∧
          if Config.importable f.standby.image v = true ∧ m ≤ Config.fwVersion f.standby.image then
            t.fw.upd = .sync ∧ t.fw.standby.applied = f.jseq ∧ t.fw.shadow = tableOf s
          else t.fw.upd = .idle ∧ t.fw.standby.image = f.standby.prev)) ∧
      (f.upd = .sync → f.standby.applied = f.jseq → ∃ t, exec .journalSynced s = .next t ∧ calm t ∧ t.fw.upd = .quiesce) ∧
      (f.upd = .quiesce → f.standby.applied = f.jseq → quiescent s = true → ∃ t, exec .quiescenceTakeover s = .next t ∧ calm t ∧
        t.fw.upd = .idle ∧ t.fw.aActive = !f.aActive ∧ t.fw.active = f.standby) ∧
      (f.upd = .quiesce → ∃ t, exec .quiesceTimeout s = .next t ∧ calm t ∧ t.fw.upd = .idle ∧ t.fw.aActive = f.aActive ∧
        t.fw.standby.image = f.standby.prev))

/-- R393 to R397, R238: the link events. A flit is sent while fewer than 512 are unacknowledged; the expected one that passes
its check is delivered and every other discarded, with one NAK
for the number expected; a NAK or an ACKSEQ frees what it acknowledges and a NAK or a
timeout resends; eight resends retrain; training ends at a good width, or the link goes DOWN. On a Saddle direction what waits
on a detour goes first and is sent on where it arrives, and a port that goes DOWN sends what is unacknowledged on a detour. A
request of another device is applied once: one among the last 64 of its source, or beyond the 384 GiB of HBM (R10, R13), changes
nothing. The model's choices in it: log
2, 13, 46, 51. -/
def Obligations.LinkEvents : Prop :=
  (∀ (l : Nat) (s : State), linksRun s = true → l < 44 →
    let r := s.link l
    let left := r.buf.length
    let una := (r.next + 4096 - left % 4096) % 4096
    let only (e : Instr) (x : Link) : Prop := exec e s = .next (s.setLink l x)
    let nakOne : List Nat := if r.naked = true then r.naks else r.naks ++ [r.expected]
    let drops : Link := { r with naks := nakOne, naked := true }
    (∀ f, left ≥ 512 → exec (.dataFlit l true f) s = .next s) ∧
    (∀ p : List Byte, p.length = 116 → r.state = .active → left < 512 →
      let f := flitOf 0 r.next (s.link (reverseLink l)).expected p
      let x : Link := { r with next := (r.next + 1) % 4096, buf := r.buf ++ [p] }
      (r.detour = [] → only (.dataFlit l true f) x) ∧
      (∀ d q rest, r.detour = (d, q) :: rest →
        (q ≠ p → exec (.dataFlit l true f) s = .next s) ∧
        (q = p → only (.dataFlit l true f)
          { x with detour := rest, via := if d = (saddleEnds l).2 then r.via else tabSet r.via r.next d }))) ∧
    (∀ f : List Byte, r.state = .active →
      f.length ≠ 128 ∨ 3 < flitKind f ∨ leNat (f.drop 120) ≠ crc64 (f.take 120) →
      only (.dataFlit l false f) drops) ∧
    (∀ (p : List Byte) (q a : Nat), p.length = 116 → q < 4096 → a < 4096 → 32 ≤ l → r.state = .active →
      r.keeps (flitOf 0 q a p) = true →
      let m := reverseLink l
      let back := s.link m
      let n := (a + 4096 - back.una) % 4096
      ∃ t, exec (.dataFlit l false (flitOf 0 q a p)) s = .next t ∧ (t.link l).buf = r.buf ∧ t.mem = s.mem ∧ t.agents = s.agents ∧
        (if q = r.expected then (t.link l).expected = (r.expected + 1) % 4096 ∧ (t.link l).naks = r.naks ∧ (t.link l).naked = false
         else (t.link l).expected = r.expected ∧ (t.link l).naks = nakOne ∧ (t.link l).naked = true) ∧
        (t.link m).buf = (if 0 < n ∧ n ≤ back.buf.length then back.buf.drop n else back.buf) ∧
        (∀ d k, q = r.expected → tabFind r.via q = some d → saddleRoute s (saddleEnds l).2 d = some k →
          (t.link k).detour = (s.link k).detour ++ [(d, p)])) ∧
    (∀ (p : List Byte) (q a : Nat), p.length = 116 → q < 4096 → a < 4096 →
      let n := (a + 4096 - una) % 4096
      let freed : Prop := 0 < n ∧ n ≤ left
      (l < 32 → r.state = .active → a = una →
        (q = r.expected → tabFind r.via q = none → only (.dataFlit l false (flitOf 0 q a p))
          { r with expected := (r.expected + 1) % 4096, naked := false, via := r.via.filter fun x => x.1 != q }) ∧
        (q ≠ r.expected → only (.dataFlit l false (flitOf 0 q a p)) drops)) ∧
      (r.state = .active ∨ r.state = .replay →
        (freed → only (.idleFlit l (flitOf 1 q a p)) { r with buf := r.buf.drop n, state := .active, resends := 0 }) ∧
        (¬ freed → only (.idleFlit l (flitOf 1 q a p)) r) ∧
        (freed → n < left →
          (l < 32 → only (.nakFlit l (flitOf 2 q a p)) { r with buf := r.buf.drop n, state := .replay, resends := 1 }) ∧
          (32 ≤ l → ∀ rest, r.naks = a :: rest →
            only (.nakFlit l (flitOf 2 q a p)) { r with buf := r.buf.drop n, naks := rest, state := .replay, resends := 1 }))) ∧
      (l < 32 → a = una → 0 < left → r.state = .active →
        only (.nakFlit l (flitOf 2 q a p)) { r with state := .replay, resends := 1 })) ∧
    (0 < left → r.state = .active → only (.replayTimeout l) { r with state := .replay, resends := 1 }) ∧
    (0 < left → r.state = .replay → only (.replayTimeout l) { r with resends := min 8 (r.resends + 1) }) ∧
    (left = 0 → only (.replayTimeout l) r) ∧
    (r.state = .replay → 8 ≤ r.resends → ∃ t, exec (.replayLimit l) s = .next t ∧ (t.link l).state = .retrain) ∧
    (r.state = .replay → r.resends < 8 → exec (.replayLimit l) s = .next s) ∧
    (∀ w, let good : Prop := w ∈ linkWidths l ∧ w ≤ goodLanes l r
      (good → r.state = .training → ∃ t, exec (.linkTrainingDone l w) s = .next t ∧ (t.link l).state = .active ∧
        (t.link l).width = w ∧ (t.link l).next = 0 ∧ (t.link l).buf = [] ∧ (t.link l).expected = 0 ∧ (t.link l).lanes < 2 * w) ∧
      (good → r.state = .retrain → r.retrains.length ≤ 3 →
        only (.linkTrainingDone l w) { r with state := .active, width := w, resends := 0, lanes := min r.lanes (2 * w - 1) }) ∧
      (¬ good → r.state = .retrain → 32 ≤ l → ∃ t, exec (.linkTrainingDone l w) s = .next t ∧
        (t.link l).state = .down ∧ (t.link (reverseLink l)).state = .down ∧ (t.link l).buf = [] ∧
        ∀ c < 4, c ≠ (saddleEnds l).1 → c ≠ (saddleEnds l).2 →
          portWorks s (saddleEnds l).1 c = true → portWorks s c (saddleEnds l).2 = true →
          (∀ e < c, e ≠ (saddleEnds l).1 → e ≠ (saddleEnds l).2 →
            ¬ (portWorks s (saddleEnds l).1 e = true ∧ portWorks s e (saddleEnds l).2 = true)) →
          r.via = [] → r.detour = [] → (∀ x ∈ (s.link (reverseLink l)).left (reverseLink l), x.1 < 4) →
          (t.link (saddleLink (saddleEnds l).1 c)).detour =
            (s.link (saddleLink (saddleEnds l).1 c)).detour ++ r.buf.map fun p => ((saddleEnds l).2, p)) ∧
      (¬ good → r.state = .training ∨ r.state = .retrain → ∃ t, exec (.linkTrainingDone l w) s = .next t ∧
        (t.link l).state = .down ∧ (t.link l).width = 0)) ∧
    (32 ≤ l → r.state = .down → fwRuns s = true → only (.saddleFirmwareRecovery l) { r with state := .training }) ∧
    (l < 32 → exec (.saddleFirmwareRecovery l) s = .next s)) ∧
  (∀ (src seq w adr y z : Nat) (s : State),
    let home := s.homeDie adr
    let slot := (home * 64 + Config.homeSlice (adr / 64) % 64, src)
    let saved := tabGet s.applied slot []
    let keys := span adr w
    servesDie s home = true → adr < hbmBytes → w ∈ [1, 2, 4, 8] → adr % w = 0 → seq < 2 ^ 16 → src < 2 ^ 24 →
    (∀ x ∈ keys, s.ownedLine x = false) → claimedWord s keys = false →
    let applies (kind fn : Nat) (m : List Host.Cell) (reply : Nat) : Prop :=
      ∃ t, exec (.linkRequest src seq kind fn w adr y z) s = .next t ∧ t.mem = m ∧ t.agents = s.agents ∧
        tabGet t.applied slot [] = ((seq, reply) :: saved).take 64
    let old := leNat (memGets s.mem keys)
    (saved.any (fun x => x.1 == seq) = true → ∀ kind fn, exec (.linkRequest src seq kind fn w adr y z) s = .next s) ∧
    (saved.any (fun x => x.1 == seq) = false →
      applies 0 0 (memSets s.mem keys (leBytes w (y % 2 ^ 64 % 2 ^ (8 * w)))) 0 ∧
      ((w = 4 ∨ w = 8) → (∀ x ∈ keys, s.poisoned x = false ∧ s.spillKey x = false) → ∀ fn < 10,
        applies 2 fn (memSets s.mem keys
          (leBytes w (amoNew ⟨fn, 8 * w, 0, BitVec.ofNat 64 y, BitVec.ofNat 64 z, 0, keys, [], none⟩ old))) old))) ∧
  ∀ (src seq kind fn w adr y z : Nat) (s : State), hbmBytes ≤ adr → exec (.linkRequest src seq kind fn w adr y z) s = .next s

/-- R216, R375, R387, R388, R399, R400: power and the host. Bring-up leaves the package in IDLE with its fences, or stopped
where both complexes, both images or the service cores' firmware fail; a host's write changes its bytes alone and its read
none; a whole line written is no longer poisoned; a register of BAR0 is written and read by its offset, and MBDOOR submits the
request that stands in MBREQ while none is outstanding. The model's choices in it: log 2, 44, 45, 47. -/
def Obligations.PowerAndHost : Prop :=
  (∀ s : State,
    let fresh (t : State) : Prop := t.agents = [] ∧ t.progs = [] ∧ t.queues = [] ∧ t.tlb = [] ∧ t.roots = [] ∧ t.fences = s.fences ∧
      t.retired = s.retired ∧ t.mailbox = Mailbox.blank
    (s.power = .off → ∃ t, exec (.powerOn BootFails.none) s = .next t ∧ t.power = .idle ∧ fresh t) ∧
    (∀ f, s.power = .off → ∃ t, exec (.powerOn f) s = .next t ∧
      if (0 ∈ f.rom ∧ 1 ∈ f.rom) ∨ 2 ≤ f.slots ∨ f.micro = true then t.power = .stopped ∧ t.fences = s.fences
      else t.power = .idle ∧ t.fw.aActive = !f.rom.contains 0 ∧ t.fw.active.alive = true ∧
        (∀ d < 4, d ∈ f.deadStacks → (t.die d).state = .out) ∧ (∀ x ∈ f.channels, (⟨2, x.1, x.2⟩ : Fence) ∈ t.fences) ∧
        (∀ x ∈ s.fences, x ∈ t.fences) ∧
        ∀ x ∈ f.units, (x.1 = 1 ∨ x.1 = 3 ∨ x.1 = 4) → x.2.1 < 4 → unitExists x.1 x.2.2 = true → (⟨x.1, x.2.1, x.2.2⟩ : Fence) ∈ t.fences) ∧
    (∀ f, s.power ≠ .off → exec (.powerOn f) s = .next s) ∧
    (∃ t, exec .powerOff s = .next t ∧ t.power = .off ∧ fresh t) ∧
    (s.power = .active → busy s = false → exec .idleTimeout s = .next { s with power := .idle }) ∧
    (s.power ≠ .active ∨ busy s = true → exec .idleTimeout s = .next s) ∧
    (s.power = .idle → busy s = false → exec .d3hotEntry s = .next { s with power := .sleep }) ∧
    (s.power ≠ .idle ∨ busy s = true → exec .d3hotEntry s = .next s) ∧
    (s.power = .sleep → ∃ t, exec .d0Return s = .next t ∧ t.power = .active ∧ t.mem = s.mem ∧ t.agents = s.agents) ∧
    (s.power ≠ .sleep → exec .d0Return s = .next s)) ∧
  (∀ (adr len : Nat) (data : List Byte) (s : State),
    let at_ := if adr.testBit 63 then 2 ^ 52 + adr % 2 ^ 52 else adr % 2 ^ 52
    (data.length = len → hostReady s (span at_ len) = true → ∃ t, exec (.hostWrite adr data) s = .next t ∧
      t.mem = memSets s.mem (span at_ len) data ∧ t.agents = s.agents ∧ t.full = s.full ∧
      ∀ l, l ∈ t.bad ↔ l ∈ s.bad ∧ ¬ ∀ x ∈ span (l * 64) 64, x ∈ span at_ len) ∧
    (hostReady s (span at_ len) = true → (∀ x ∈ span at_ len, s.poisoned x = false ∧ s.spillKey x = false) →
      ∃ t, exec (.hostRead false adr len) s = .next t ∧ t.hostData = memGets s.mem (span at_ len) ∧ t.mem = s.mem)) ∧
  (∀ (o n v : Nat) (s : State), s.power ≠ .off → s.power ≠ .stopped →
    let m := s.mailbox
    let bad : Prop := (n ≠ 4 ∧ n ≠ 8) ∨ o % n ≠ 0
    let x := v % 2 ^ (8 * n)
    (bad → exec (.bar0RegisterWrite o n v) s = .next s ∧
      ∃ t, exec (.hostRead true o n) s = .next t ∧ t.hostData = List.replicate n 0xFF#8) ∧
    (¬ bad →
      (o < 0x100 → exec (.bar0RegisterWrite o n v) s = .next { s with mailbox :=
        { m with req := m.req.take o ++ leBytes n x ++ m.req.drop (o + n) } }) ∧
      (o = 0x200 → x ≠ 0 → m.done = m.tag → exec (.bar0RegisterWrite o n v) s =
        .next { s with mailbox := { m with tag := x, sub := m.req, busy := true, taken := false } }) ∧
      (o = 0x200 → x = 0 ∨ m.done ≠ m.tag → exec (.bar0RegisterWrite o n v) s = .next s) ∧
      (0x100 ≤ o → o < 0x10000 → o ≠ 0x200 → exec (.bar0RegisterWrite o n v) s = .next s) ∧
      (∀ die q, die < 4 → q < 64 → o = 0x10000 + 0x400 * die + 16 * q → (s.die die).state = .up →
        exec (.bar0RegisterWrite o n v) s = exec (.qdoorWrite die q x) s) ∧
      (∀ die, die < 4 → o = 0x20000 + 0x40 * die → exec (.bar0RegisterWrite o n v) s = exec (.frheadWrite die x) s) ∧
      (o = 0x208 → n = 8 → ∃ t, exec (.hostRead true o n) s = .next t ∧ t.hostData = leBytes 8 m.done ∧ t.mem = s.mem) ∧
      ((o = 0x200 ∨ (0x10000 ≤ o ∧ o < 0x11000)) → n = 8 → ∃ t, exec (.hostRead true o n) s = .next t ∧ t.hostData = leBytes 8 0 ∧
        t.mem = s.mem) ∧
      (o = 0x210 → n = 8 → ∃ t, exec (.hostRead true o n) s = .next t ∧ t.hostData = leBytes 8 ((if s.fw.aActive then 1 else 2) +
        (if s.fw.upd = .idle then 0 else 4) + s.fw.boot % 256 * 256)) ∧
      (0x100 ≤ o → o < 0x200 → n = 8 → ∃ t, exec (.hostRead true o n) s = .next t ∧
        t.hostData = leBytes 8 (leNat ((m.rsp.drop (o - 0x100)).take 8)))))

/-! ### The whole machine -/

/-- R338 to R343: an address from 2^48 on, an address space without a root and a malformed entry trap PROT, a poisoned entry
POISON; an invalid entry, and one marked MIGRATING, go to the fault service; a leaf is entered in the TLBs and, where it
permits the access, gives its frame with the offset; a page that is to be an engine's destination waits for its fault (R208). The walk
reads four levels of eight-byte entries; a leaf maps 1 GiB, 2 MiB, 64 KiB or 4 KiB, and an entry, or a root, that names memory beyond the
package's is malformed. The model's choices in it: log 18, 26. -/
def Obligations.Translation : Prop :=
  (∀ (nd : Need) (va : Nat) (s : State), isService s.cur = false →
    let p := s.myProg
    let tv := BitVec.ofNat 64 va
    let found (u : State) := tlbFind u (dieOf s.cur) (tlbSpur s.cur) p.asid va
    let granted_ (e : Nat) : Bool := match nd with
      | .fetch => e.testBit 4
      | .read => e.testBit 2
      | .wait => e.testBit 2
      | .none => true
      | _ => e.testBit 2 && e.testBit 3
    let late : Prop := nd ∈ [Need.write, .red, .none, .atomic, .granule]
    let changes : Prop := nd = .write ∨ nd = .atomic ∨ nd = .red
    let key (e size : Nat) : Nat := e / 2 ^ 54 % 4 * 2 ^ 52 + (e / 2 ^ 12 % 2 ^ 40 * 2 ^ 12 / 2 ^ size * 2 ^ size + va % 2 ^ size)
    let uses (e size : Nat) (u : State) : Prop :=
      (granted_ e = false ∨ (changes ∧ e.testBit 5 = true ∧ p.sstate ≠ 0) → (transE nd va).run s = .error (.trap ⟨cPROT, tv⟩)) ∧
      (granted_ e = true → ¬(changes ∧ e.testBit 5 = true ∧ p.sstate ≠ 0) →
        (¬ late → u.reach (homeOf e (key e size)) = false → (transE nd va).run s = .error (.trap ⟨cLINKERR, tv⟩)) ∧
        (late ∨ u.reach (homeOf e (key e size)) = true → (transE nd va).run s = .ok ((e, key e size), u)))
    (2 ^ 48 ≤ va → (transE nd va).run s = .error (.trap ⟨cPROT, tv⟩)) ∧
    (va < 2 ^ 48 →
      (∀ t, found s = some t → uses t.entry t.size s) ∧
      (found s = none →
        (walk s p.asid va = .noRoot ∨ walk s p.asid va = .malformed → (transE nd va).run s = .error (.trap ⟨cPROT, tv⟩)) ∧
        (walk s p.asid va = .poison → (transE nd va).run s = .error (.trap ⟨cPOISON, tv⟩)) ∧
        (walk s p.asid va = .invalid → (transE nd va).run s = .error (.page va nd.acc false)) ∧
        (∀ e size, walk s p.asid va = .leaf e size →
          (e.testBit 7 = true → (transE nd va).run s = .error (.page va nd.acc true)) ∧
          (e.testBit 7 = false → destPending s (dieOf s.cur) p.asid va = true →
            (transE nd va).run s = .error (.page va nd.acc false)) ∧
          (e.testBit 7 = false → destPending s (dieOf s.cur) p.asid va = false →
            ∃ u, uses e size u ∧ u = { s with tlb := u.tlb, homes := u.homes, lookups := u.lookups } ∧
            (∃ t, found u = some t ∧ t.entry = e ∧ t.size = size) ∧
            ∀ t ∈ u.tlb, t ∈ s.tlb ∨ (t.die = dieOf s.cur ∧ t.asid = p.asid ∧ t.entry = e ∧ t.size = size ∧
              t.page = va / 2 ^ size * 2 ^ size)))))) ∧
  (∀ (asid va : Nat) (s : State), (∀ k, s.poisoned k = false) →
    let root := tabGet s.roots asid 0
    let frame (e : Nat) : Nat := e / 2 ^ 12 % 2 ^ 40 * 2 ^ 12
    let idx (n : Nat) : Nat := va / 2 ^ (12 + 9 * n) % 512
    let entry (table n : Nat) : Nat := s.rdN (table + idx n * 8) 8
    let e4 := entry (frame root) 3
    let e3 := entry (frame e4) 2
    let e2 := entry (frame e3) 1
    let e1 := entry (frame e2) 0
    let link (e : Nat) : Prop := e % 4 = 1 ∧ e / 2 ^ 52 % 2 ^ 12 = 0 ∧ e / 4 % 2 ^ 10 = 0 ∧ frame e + 4096 ≤ hbmBytes
    let page (e size : Nat) : Prop := e % 4 = 3 ∧ e / 2 ^ 56 % 2 ^ 8 = 0 ∧ e / 2 ^ 10 % 4 = 0 ∧ e / 2 ^ 54 % 4 ≠ 3 ∧
      (e.testBit 3 = true → e.testBit 2 = true) ∧ e.testBit 8 = false ∧ frame e % 2 ^ size = 0 ∧
      (e / 2 ^ 54 % 4 = 0 → frame e + 2 ^ size ≤ hbmBytes)
    (root % 2 = 0 → walk s asid va = .noRoot) ∧
    (root % 2 = 1 → hbmBytes < frame root + 4096 → walk s asid va = .malformed) ∧
    (root % 2 = 1 → frame root + 4096 ≤ hbmBytes →
      (e4 % 2 = 0 → walk s asid va = .invalid) ∧
      (e4 % 4 = 3 → walk s asid va = .malformed) ∧
      (link e4 → e3 % 2 = 0 → walk s asid va = .invalid) ∧
      (link e4 → page e3 30 → walk s asid va = .leaf e3 30) ∧
      (link e4 → link e3 → e2 % 2 = 0 → walk s asid va = .invalid) ∧
      (link e4 → link e3 → page e2 21 → walk s asid va = .leaf e2 21) ∧
      (link e4 → link e3 → link e2 → e1 % 2 = 0 → walk s asid va = .invalid) ∧
      (link e4 → link e3 → link e2 → page e1 12 → walk s asid va = .leaf e1 12) ∧
      (∀ e0, link e4 → link e3 → link e2 → page e0 16 →
        (∀ j < 16, s.rdN (frame e2 + (idx 0 / 16 * 16 + j) * 8) 8 = e0 + 2 ^ 8 + j * 2 ^ 12) →
        walk s asid va = .leaf (e0 + 2 ^ 8 + idx 0 % 16 * 2 ^ 12) 16) ∧
      (∀ e, (e4 = e ∨ (link e4 ∧ e3 = e) ∨ (link e4 ∧ link e3 ∧ e2 = e)) → e % 4 = 1 →
        (e / 2 ^ 52 % 2 ^ 12 ≠ 0 ∨ e / 4 % 2 ^ 10 ≠ 0 ∨ hbmBytes < frame e + 4096) → walk s asid va = .malformed) ∧
      (∀ e size, ((link e4 ∧ e3 = e ∧ size = 30) ∨ (link e4 ∧ link e3 ∧ e2 = e ∧ size = 21)) → e % 4 = 3 → e / 2 ^ 54 % 4 = 0 →
        hbmBytes < frame e / 2 ^ size * 2 ^ size + 2 ^ size → walk s asid va = .malformed)))

/-- R44, R54, R27, R36, R375, R287: before its effect an instruction traps ILLOP in a place that has no such instruction or
with a group in no class, else PRIV in a mode that may not run it or for a thread that writes a g register, else REGWIN with
the first register beyond the window; then it waits for a Ridge result on its way to a register it names, and then traps POISON with
the first poisoned source: every instruction whose place and registers `checksOf` gives. R35 and R123: under a false mask a vector instruction completes with no other effect, whatever its
registers hold and wherever they lie, unless a thread's destination is a g or vg register, which traps PRIV. The model's
choices in it: ILLOP of a service core on the rows of threads and of the master alone (log 6), and log 22, 25. -/
def Obligations.ChecksComeFirst : Prop :=
  (∀ (s : State) (j : Instr) (w : Where) (os : List Opd), checksOf s j = some (w, os) →
    let iw := BitVec.ofNat 64 s.iw
    let thread := isSlot s.cur
    let illegal : Prop := (w = .t ∧ thread = false) ∨ (w = .m ∧ thread = false ∧ isMaster s.cur = false) ∨ (∃ x ∈ os, x.badGroup = true)
    let denied : Prop := (w = .m ∧ thread = true) ∨ (w = .p ∧ isService s.cur = false) ∨ (thread = true ∧ ∃ x ∈ os, x.writesG = true)
    let beyond (m : Nat) : Prop := thread = true ∧ m < 96 ∧ s.ctx.window ≤ m
    (illegal → exec j s = .next (takeTrap s ⟨0x01, iw⟩)) ∧
    (¬ illegal → denied → exec j s = .next (takeTrap s ⟨0x02, iw⟩)) ∧
    (¬ illegal → ¬ denied →
      (∀ pre m post, os.flatMap Opd.regs = pre ++ m :: post → (∀ x ∈ pre, ¬ beyond x) → beyond m →
        exec j s = .next (takeTrap s ⟨0x03, BitVec.ofNat 64 m⟩)) ∧
      ((∀ x ∈ os.flatMap Opd.regs, ¬ beyond x) →
        ((∃ p ∈ s.me.ridge, p.1 ∈ os.flatMap Opd.regs) → exec j s = .next (deliverRidge s)) ∧
        ((∀ p ∈ s.me.ridge, p.1 ∉ os.flatMap Opd.regs) →
          ∀ pre m post, os.flatMap Opd.reads = pre ++ m :: post → (∀ x ∈ pre, x ∉ s.ctx.poison) → m ∈ s.ctx.poison →
          exec j s = .next (takeTrap s ⟨0x07, BitVec.ofNat 64 (2 ^ 60 + m)⟩))))) ∧
  (∀ (d a b k f r m l t : Nat) (s : State), s.ctx.q m = false →
     (∀ i, (i ∈ [Instr.vadd d a b m l, .vsub d a b m l, .vadds d a b m l, .vsubs d a b m l, .vmul d a b m l, .vmulh d a b m l,
         .vmad d a b m l, .vmin d a b m l, .vmax d a b m l, .vand d a b m l, .vor d a b m l, .vxor d a b m l,
         .vshl d a b m l, .vshr d a b m l, .vsra d a b m l, .vcmpEq d a b m l, .vcmpLt d a b m l, .vcmpLtu d a b m l,
         .vcmpTst d a b m l, .vsel d a b m l, .vshuf d a b m l, .vsplat d a m l, .vins d a k m l, .vnz d a m l,
         .vredAdd d a m l, .vredMin d a m l, .vredMax d a m l, .vredMinn d a m l, .vredMaxn d a m l, .vredMinu d a m l,
         .vredMaxu d a m l, .vdot d a b m l, .vcvt d a f r m t, .vfadd d a b m l, .vfsub d a b m l, .vfmul d a b m l,
         .vfma d a b m l, .vfmin d a b m l, .vfmax d a b m l, .vfminn d a b m l, .vfmaxn d a b m l, .vfcmpEq d a b m l,
         .vfcmpLt d a b m l, .vfcmpLe d a b m l, .vfcmpUn d a b m l, .vsfnExp2 d a m l, .vsfnLog2 d a m l, .vsfnRcp d a m l,
         .vsfnRsq d a m l, .vsfnSin d a m l, .vsfnCos d a m l, .vsfnTanh d a m l, .vsfnErf d a m l]) →
       exec i s = .next (if isSlot s.cur = true ∧ 48 ≤ d then takeTrap s ⟨cPRIV, BitVec.ofNat 64 s.iw⟩ else retire s)) ∧
     exec (.vext d a k m l) s =
       .next (if isSlot s.cur = true ∧ 96 ≤ d then takeTrap s ⟨cPRIV, BitVec.ofNat 64 s.iw⟩ else retire s))

/-- The frame of the instructions that name registers alone: beside its destination, with FCSR and SRSEED for a floating-point
one, and the PC, such an instruction leaves every register, predicate and control register, the other agents, memory and the
rest as they were, or it takes a trap. -/
def Obligations.RegisterFrames : Prop :=
  ∀ (d a b q m k l t f r n : Nat) (i o : Int),
    (∀ j ∈ [Instr.add d a b, .sub d a b, .and d a b, .or d a b, .xor d a b, .andn d a b, .min d a b, .max d a b, .minu d a b,
        .maxu d a b, .shl d a b, .shr d a b, .sra d a b, .rotr d a b, .mul d a b, .mulh d a b, .mulhu d a b, .div d a b,
        .divu d a b, .rem d a b, .remu d a b, .clz d a, .ctz d a, .popc d a, .addi d a i, .andi d a i, .ori d a i, .xori d a i,
        .shli d a n, .shri d a n, .srai d a n, .lih d a i, .sel d a b q, .bfx d a b, .bfi d a b, .padd d a b, .ptag d a n,
        .fclass t d a, .jal d o, .jalr d a i, .nrd d n, .vext d a k m l], Confined j [d] [] false) ∧
    Confined (.br q n o) [] [] false ∧
    (∀ s : State, ∃ x, exec .yield s = .next (retire { s with turns := x })) ∧
    Confined (.rep a i) [a] [] false ∧
    (∀ j ∈ [Instr.cmpEq q a b, .cmpNe q a b, .cmpLt q a b, .cmpGe q a b, .cmpLtu q a b, .cmpGeu q a b, .cmpTst q a b, .cmpiEq q a i,
        .cmpiNe q a i, .cmpiLt q a i, .cmpiGe q a i, .cmpiLtu q a i, .cmpiGeu q a i, .cmpiTst q a i, .qopAnd q a b, .qopOr q a b,
        .qopXor q a b, .qopNot q a, .qopAndn q a b, .qopOrn q a b, .qopXnor q a b], Confined j [] [q] false) ∧
    (∀ j ∈ [Instr.fadd t d a b, .fsub t d a b, .fmul t d a b, .fdiv t d a b, .fma t d a b, .fnma t d a b, .fmin t d a b, .fmax t d a b,
        .fminn t d a b, .fmaxn t d a b, .fsqrt t d a, .fcvt d a t f r], Confined j [d] [] true) ∧
    (∀ j ∈ [Instr.fcmpEq t q a b, .fcmpNe t q a b, .fcmpLt t q a b, .fcmpLe t q a b, .fcmpGt t q a b, .fcmpGe t q a b,
        .fcmpUn t q a b, .fcmpOr t q a b], Confined j [] [q] true) ∧
    (∀ j ∈ [Instr.vadd d a b m l, .vsub d a b m l, .vadds d a b m l, .vsubs d a b m l, .vmul d a b m l, .vmulh d a b m l,
        .vmad d a b m l, .vmin d a b m l, .vmax d a b m l, .vand d a b m l, .vor d a b m l, .vxor d a b m l, .vshl d a b m l,
        .vshr d a b m l, .vsra d a b m l, .vcmpEq d a b m l, .vcmpLt d a b m l, .vcmpLtu d a b m l, .vcmpTst d a b m l,
        .vsel d a b m l, .vshuf d a b m l, .vsplat d a m l, .vins d a k m l, .vnz d a m l],
      Confined j [2 * d, 2 * d + 1] [] false) ∧
    (∀ j ∈ [Instr.vredAdd d a m l, .vredMin d a m l, .vredMax d a m l, .vredMinn d a m l, .vredMaxn d a m l, .vredMinu d a m l,
        .vredMaxu d a m l, .vdot d a b m l, .vcvt d a f r m t, .vfadd d a b m l, .vfsub d a b m l, .vfmul d a b m l,
        .vfma d a b m l, .vfmin d a b m l, .vfmax d a b m l, .vfminn d a b m l, .vfmaxn d a b m l, .vfcmpEq d a b m l,
        .vfcmpLt d a b m l, .vfcmpLe d a b m l, .vfcmpUn d a b m l], Confined j [2 * d, 2 * d + 1] [] true)

/-- The frame of the accesses to memory: a load, a prefetch, a fence and an access to the spur's scratch store to no byte of
memory, a store, an atomic and a reduction to none but those that its address reaches; beside them only bytes of the agent's
own earlier stores and reductions change. STT stores to the bytes of its four elements alone, here with their pages in the TLB. Where no
agent waits at a granule, LDF, LDFE and FEST store to no byte, STF and STO to their granule alone, and each changes no other granule's state, the thread having no child of its own to run inline first (R280);
RLD and RST, whose bytes lie in a pool, store to no byte of memory and change no granule of it. -/
def Obligations.MemoryFrames : Prop :=
  ∀ (d a b y : Nat) (i : Int) (s : State),
    let ea (size : Nat) : Nat := (s.ctx.rs a + BitVec.ofInt 64 (i * size)).toNat % 2 ^ 56
    let none_ (_ : Nat) : Prop := False
    (∀ j ∈ [Instr.ldB d a i, .ldBu d a i, .ldH d a i, .ldHu d a i, .ldW d a i, .ldWu d a i, .ldD d a i, .lda d a i, .ldc d a i,
        .lds d a i], Spares j s none_ [d]) ∧
    (∀ j ∈ [Instr.ldv d a i, .ldt d a b y], Spares j s none_ [2 * d, 2 * d + 1]) ∧
    (∀ j ∈ [Instr.pref a i, .sts d a i, .fenceT, .fenceS, .fenceD, .fenceP, .fenceX, .redwait, .fencei], Spares j s none_ []) ∧
    (∀ x ∈ [(Instr.stB d a i, 1), (.stH d a i, 2), (.stW d a i, 4), (.stD d a i, 8), (.stl d a i, 8)],
      Spares x.1 s (Reached .write (ea x.2) x.2 s) []) ∧
    Spares (.stv d a i) s (Reached .write (ea 16) 16 s) [] ∧
    (∀ j ∈ [Instr.amoSwapW d a b, .amoAddW d a b, .amoAndW d a b, .amoOrW d a b, .amoXorW d a b, .amoMinW d a b, .amoMaxW d a b,
        .amoMinuW d a b, .amoMaxuW d a b, .amocasW d a b],
      Spares j s (Reached .atomic ((s.ctx.rs a).toNat % 2 ^ 56) 4 s) [d]) ∧
    (∀ j ∈ [Instr.amoSwapD d a b, .amoAddD d a b, .amoAndD d a b, .amoOrD d a b, .amoXorD d a b, .amoMinD d a b, .amoMaxD d a b,
        .amoMinuD d a b, .amoMaxuD d a b, .amocasD d a b],
      Spares j s (Reached .atomic ((s.ctx.rs a).toNat % 2 ^ 56) 8 s) [d]) ∧
    (∀ j ∈ [Instr.redAdd a b y, .redAnd a b y, .redOr a b y, .redXor a b y, .redMin a b y, .redMax a b y, .redMinu a b y,
        .redMaxu a b y, .redFadd a b y, .redFmin a b y, .redFmax a b y],
      Spares j s (Reached .red ((s.ctx.rs a).toNat % 2 ^ 56) (if y = 0 ∨ y = 2 then 4 else 8) s) []) ∧
    (let p := s.ctx.rs a
     let n := elemBytes (ptrFmt p)
     (∀ j < 4, ∀ m < n, ∃ e key, Hits .write ((typedAddr p j % 2 ^ 56 + m) % 2 ^ 56) s e key) →
     (blocked (ptrFmt p) = true → ∀ j < 4, ∃ e key, Hits .read (typedScale p (s.ctx.rs b) j) s e key) →
     Spares (.stt d a b y) s (fun k => ∃ j < 4, Reached .write (typedAddr p j % 2 ^ 56) n s k) []) ∧
    (s.feWait = [] → ownDescs s = [] →
      let word (k : Nat) : Prop := ∃ e key u, (transE .granule (ea 8)).run s = .ok ((e, key), u) ∧ key ≤ k ∧ k < key + 8
      let here (w : Nat) : Prop := word (8 * w)
      Spares (.ldf d a i) s none_ [d] ∧ SparesBut (.ldfe d a i) s none_ here [d] ∧ SparesBut (.fest d a i) s none_ here [d] ∧
      SparesBut (.stf d a i) s word here [] ∧ SparesBut (.sto d a i) s word here [] ∧
      Spares (.rld d a b) s none_ [d] ∧ Spares (.rst d a b) s none_ [d])

/-- Every instruction and every event answers a next state from every state; so does a step whose next move names agents of
the package. The model's choices in it: log 1, 2. -/
def Obligations.EveryStepAnswers : Prop :=
  (∀ (i : Instr) (s : State), ∃ t, exec i s = .next t) ∧
  (∀ s : State, (∀ x ∈ s.agents, onPackage x.1 = true) →
    (∀ m rest, s.agenda = m :: rest → ∀ who d, m = .issue who d → onPackage who = true) → ∃ t, step s = .next t) ∧
  (∀ s who d rest, s.agenda = .issue who d :: rest → onPackage who = false → step s = .fault .noSuchAgent)

/-- R25, R53, R352: a step of an agent whose turn it is and whose instruction can issue (R308) fetches the four bytes at its PC, little-endian, and has the meaning of
the instruction they decode to, or traps ILLOP with the word where they decode to none; the word is kept for the traps that
name it. A word the agent has fetched ahead, or that its spur's instruction buffer holds, stands for the bytes (R363). A page
the fault service refused traps PAGE first (R366). The issue takes one cycle of the die and the slot's turn (R308), and a token that
stands in the slot's cell is written instead (R311); after it requests at full tables, the governor, the log of walks, the power state and the
journal follow (R246, R306, R341, R400, R383). The model's choices in it: which agent issues, said by the agenda or by the model's own order
(log 1, 8), the clocks' steps (log 8), words fetched ahead and the instruction buffer (log 21), a service core's untranslated fetch
(log 6), memory's end at 384 GiB (log 18) and withFetchWord (log 14). -/
def Obligations.StepRunsDecoded : Prop :=
  (∀ (s : State) (who : AgentId) (d : Bool) (rest : List Move),
    s.agenda = .issue who d :: rest ∨ (s.agenda = [] ∧ nextEvent s = none ∧ nextAgent s = some who ∧ d = false ∧ rest = []) →
    onPackage who = true →
    let a := s.agent who
    let p := s.prog (s.progKey who)
    let r := s.die (dieOf who)
    a.live = true → a.wait = .none ∨ a.wait = .again → p.ending = none → p.saving = none → r.state = .up → s.power = .active →
    let v0 : State := { s with agenda := rest, cur := who, mode := .plain, defer := d }
    stalled v0 who = false → hasTurn v0 who = true →
    let v := startIssue v0 who
    (v = { s with agenda := rest, cur := who, mode := .plain, defer := d, agents := v.agents, turns := v.turns
                  dies := tabSet s.dies (dieOf who) { r with cycle := r.cycle + 1, mcycle := r.mcycle + 2 } } ∧
      v.me = { a with since := v.me.since } ∧ ∀ x, x ≠ who → v.agent x = s.agent x) ∧
    (∀ x, tokenOf s who = some x → step s = .next (tidy s (tokenStep x v))) ∧
    (∀ va, tokenOf s who = none → a.refused = some va →
      step s = .next (tidy s (takeTrap (v.setMe { v.me with refused := none }) ⟨cPAGE, BitVec.ofNat 64 va⟩))) ∧
    (∀ (es : List (Nat × Nat)), tokenOf s who = none → a.refused = none → es.length = 4 →
      (∀ i e, es[i]? = some e → let x := (a.ctx.pc.toNat % 2 ^ 56 + i) % 2 ^ 56
        Hits .fetch x v e.1 e.2 ∨ (isService who = true ∧ x % 2 ^ 52 < hbmBytes ∧ e = (0, x % 2 ^ 52))) →
      (∀ e ∈ es, s.poisoned e.2 = false) →
      let runs (w : Nat) (u : State) : Prop :=
        (∀ i, decodeWord w = .ok i → ∃ t, exec i { u with iw := w } = .next t ∧ step s = .next (tidy s t)) ∧
        (∀ e, decodeWord w = .error e → step s = .next (tidy s (takeTrap { u with iw := w } ⟨cILLOP, BitVec.ofNat 64 w⟩)))
      let w := leNat (memGets s.mem (es.map (·.2)))
      let k := (es.map (·.2)).headD 0
      let sk := (dieOf who, spurOf who)
      let buf := (s.spur sk).ibuf
      (a.ahead = [] →
        (isSlot who = false → runs w v) ∧
        (isSlot who = true → buf.find? (fun x => x.1 == k) = none → runs w (v.setSpur sk { v.spur sk with ibuf := buf ++ [(k, w)] })) ∧
        (∀ x, isSlot who = true → buf.find? (fun x => x.1 == k) = some x → runs x.2 v)) ∧
      (∀ x xs, a.ahead = x :: xs → x.1 = k → runs x.2 (v.setMe { v.me with ahead := xs })) ∧
      (∀ x xs, a.ahead = x :: xs → x.1 ≠ k → isSlot who = false → runs w (v.setMe { v.me with ahead := [] })))) ∧
  (∀ s t : State, t.ports = [] → let u := tidy s t
    u = { t with progs := u.progs, dies := u.dies, fw := u.fw, power := u.power } ∧
    u.power = (if t.power = .idle ∧ busy t = true then .active else t.power) ∧
    (∀ k, (u.prog k).running = (t.prog k).running ∧ (u.prog k).asid = (t.prog k).asid ∧ (u.prog k).ending = (t.prog k).ending) ∧
    ∀ d, u.die d = { t.die d with walkLog := (u.die d).walkLog }) ∧
  (∀ (s : State) (who : AgentId) (d : Bool) (rest : List Move), s.agenda = .issue who d :: rest → onPackage who = true →
    let v : State := { s with agenda := rest, cur := who, mode := .plain, defer := d }
    let a := s.agent who
    a.live = false ∨ (a.wait ≠ .none ∧ a.wait ≠ .again ∧ ∀ n l, a.wait ≠ .gangRoom n l) ∨
      ((a.wait = .none ∨ a.wait = .again) ∧ stalled v who = true) ∨
      (∃ n l, a.wait = .gangRoom n l ∧ gangStalls v (dieOf who) n l = true) ∨ hasTurn v who = false ∨ s.power ≠ .active →
    step s = .next (tidy s v)) ∧
  (∀ w i, w < 2 ^ 32 → decodeWord w = .ok i → ∃ u t, exec i u = .next t ∧
    step (State.reset.withFetchWord 32 w) = .next (tidy (State.reset.withFetchWord 32 w) t) ∧ u.cur = .master 0 0 ∧
    u.iw = w ∧ u.mode = .plain ∧ u.ctx.pc = 0x100000 ∧ u.ctx.regs = [])

/-- R44 to R53: words of the encodings of the families, written from the tables of the spec, and the instructions they decode
to; a word of no row, and one with a reserved value, decode to none. The model's choices in it: log 15, 19. -/
def Obligations.DecodeWords : Prop :=
  (∀ x ∈ [(0x01061028, Instr.add 3 4 5), (0x10060064, .addi 3 0 100), (0x14040403, .shli 2 1 3), (0x0506102A, .sel 3 4 5 2),
      (0x084102A0, .cmpLt 2 4 5), (0x0920FF80, .cmpiEq 1 3 (-1)), (0x205FFFFD, .br 2 1 (-3)), (0x21020008, .jal 1 8),
      (0x4C0A1A08, .fcvt 5 6 4 1 0), (0x5006100E, .sfnTanh 3 4 1), (0x83187205, .vfma 6 7 8 0 5), (0x761430C2, .vext 5 3 3 0 2),
      (0xB8298006, .kmma 1 2 3 0 0 0 6), (0xBD400286, .acvt 2 0 0 5 6), (0xC0062881, .gath 3 10 16), (0xC10A1842, .mgput 5 6 8),
      (0x96061002, .ldD 3 4 2), (0x9B020800, .stD 1 2 0), (0xA1061029, .ldt 3 4 5 1), (0xAD0C103D, .amocasD 6 4 7),
      (0xAE10102A, .redFadd 4 5 2), (0xC8061043, .cbackBackup 3 4 8), (0xD0060004, .spawn 3 4), (0xD40A1801, .sspawn 5 6 1),
      (0xDD061028, .waitGeu 3 4 5), (0xE0061028, .poolset 3 4 5), (0xE9062861, .rst 3 10 12), (0xF0000005, .trap 5),
      (0xF20A0104, .csrr 5 0x104), (0xFB001028, .tlbinv 4 5), (0xFC103111, .frame 1 3 1 1 1)],
    decodeTableWord 32 x.1 = some x.2) ∧
  (∀ w ∈ [0x00000000, 0x02000006, 0x07000070, 0x4C0A1A20, 0xFF000000], decodeTableWord 32 w = none)

/-- R44 to R53: the word of every well-formed instruction has 32 bits and decodes to it; of the two rows that share an
encoding, to the first of them. An event of the package has no word. -/
def Obligations.RoundTrip : Prop :=
  ∀ i : Instr, Sys2Proof.Laws.RoundTrip.Statement i

/-- After reset (R399, R400, R295, R304, R350, R377) the package is idle: no agent runs, every queue is disabled, no page is
mapped, the Saddle links are up and the Traverse links down, the governor's level is 15. The model's choices in it: the memory's form
and contents (log 3), zero in every register of every agent (log 5), and the step that changes nothing while nothing is loaded
(log 1, 14). -/
def Obligations.ResetState : Prop :=
  let s := State.reset
  MemOk s ∧ s.power = .idle ∧ (∀ a, (s.agent a).live = false ∧ ∀ n, (s.agent a).ctx.rs n = 0) ∧ (∀ k, (s.prog k).running = false) ∧
    (∀ k, (s.queue k).state = .disabled ∧ (s.queue k).estat = 0) ∧ (∀ n, tabGet s.roots n 0 = 0) ∧ s.tlb = [] ∧ s.fences = [] ∧
    (∀ d, (s.die d).state = .up ∧ (s.die d).level = 15) ∧ (∀ l < 32, (s.link l).state = .down) ∧
    (∀ l, 32 ≤ l → l < 44 → (s.link l).state = .active ∧ (s.link l).width = 64) ∧ (∀ k, memGet s.mem k = 0) ∧
    (∀ k n x, (s.spur k).fenced = false ∧ (x < 32 → (s.spur k).role x = .free) ∧ memGet (s.spur k).pool n = 0) ∧
    step s = .next s

/-- Every step keeps the canonical form of memory (log 3): keys rising, no listed byte that reads as an unlisted one. -/
def Obligations.MemoryStaysCanonical : Prop :=
  ∀ s t : State, MemOk s → step s = .next t → MemOk t
end

