-- ==== Sys2Proof/Laws/Tab.lean ====
section
/-! SUPPORT. Tables: what a key reads after a table is changed. -/

namespace Sys2Proof.Machine

variable {κ α : Type} [DecidableEq κ]

theorem tabGet_tabSet (t : Tab κ α) (k : κ) (v : α) (b : κ) (d : α) :
    tabGet (tabSet t k v) b d = if k = b then v else tabGet t b d := by
  induction t with
  | nil => rfl
  | cons p r ih =>
    obtain ⟨k', v'⟩ := p
    by_cases h : k' = k
    · subst h; by_cases h2 : k' = b <;> simp [tabSet, tabGet, h2]
    · by_cases h2 : k' = b
      · subst h2; simp [tabSet, tabGet, h, Ne.symm h]
      · simp [tabSet, tabGet, h, h2, ih]

@[simp] theorem tabGet_tabSet_self (t : Tab κ α) (k : κ) (v d : α) : tabGet (tabSet t k v) k d = v := by
  simp [tabGet_tabSet]

theorem tabGet_tabSet_of_ne (t : Tab κ α) (k : κ) (v : α) (b : κ) (d : α) (h : b ≠ k) :
    tabGet (tabSet t k v) b d = tabGet t b d := by
  simp [tabGet_tabSet, Ne.symm h]

@[simp] theorem tabSet_tabSet (t : Tab κ α) (k : κ) (v w : α) : tabSet (tabSet t k v) k w = tabSet t k w := by
  induction t with
  | nil => simp [tabSet]
  | cons p r ih =>
    obtain ⟨k', v'⟩ := p
    by_cases h : k' = k <;> simp [tabSet, h, ih]

end Sys2Proof.Machine
end

