-- ==== Sys2Proof/Laws/State.lean ====
section
/-! SUPPORT. One lemma for each field of the state under each named update of it, and what the named readers give after a
named update. -/

namespace Sys2Proof.Machine

/-! ### Fields after `setAgent` -/

@[simp] theorem State.setAgent_agents (s : State) (a : AgentId) (r : Agent) : (s.setAgent a r).agents = tabSet s.agents a r := rfl
@[simp] theorem State.setAgent_progs (s : State) (a : AgentId) (r : Agent) : (s.setAgent a r).progs = s.progs := rfl
@[simp] theorem State.setAgent_spurs (s : State) (a : AgentId) (r : Agent) : (s.setAgent a r).spurs = s.spurs := rfl
@[simp] theorem State.setAgent_turns (s : State) (a : AgentId) (r : Agent) : (s.setAgent a r).turns = s.turns := rfl
@[simp] theorem State.setAgent_dies (s : State) (a : AgentId) (r : Agent) : (s.setAgent a r).dies = s.dies := rfl
@[simp] theorem State.setAgent_mem (s : State) (a : AgentId) (r : Agent) : (s.setAgent a r).mem = s.mem := rfl
@[simp] theorem State.setAgent_full (s : State) (a : AgentId) (r : Agent) : (s.setAgent a r).full = s.full := rfl
@[simp] theorem State.setAgent_bad (s : State) (a : AgentId) (r : Agent) : (s.setAgent a r).bad = s.bad := rfl
@[simp] theorem State.setAgent_roots (s : State) (a : AgentId) (r : Agent) : (s.setAgent a r).roots = s.roots := rfl
@[simp] theorem State.setAgent_tlb (s : State) (a : AgentId) (r : Agent) : (s.setAgent a r).tlb = s.tlb := rfl
@[simp] theorem State.setAgent_homes (s : State) (a : AgentId) (r : Agent) : (s.setAgent a r).homes = s.homes := rfl
@[simp] theorem State.setAgent_lookups (s : State) (a : AgentId) (r : Agent) : (s.setAgent a r).lookups = s.lookups := rfl
@[simp] theorem State.setAgent_forwards (s : State) (a : AgentId) (r : Agent) : (s.setAgent a r).forwards = s.forwards := rfl
@[simp] theorem State.setAgent_l1 (s : State) (a : AgentId) (r : Agent) : (s.setAgent a r).l1 = s.l1 := rfl
@[simp] theorem State.setAgent_owned (s : State) (a : AgentId) (r : Agent) : (s.setAgent a r).owned = s.owned := rfl
@[simp] theorem State.setAgent_claims (s : State) (a : AgentId) (r : Agent) : (s.setAgent a r).claims = s.claims := rfl
@[simp] theorem State.setAgent_granted (s : State) (a : AgentId) (r : Agent) : (s.setAgent a r).granted = s.granted := rfl
@[simp] theorem State.setAgent_feWait (s : State) (a : AgentId) (r : Agent) : (s.setAgent a r).feWait = s.feWait := rfl
@[simp] theorem State.setAgent_ports (s : State) (a : AgentId) (r : Agent) : (s.setAgent a r).ports = s.ports := rfl
@[simp] theorem State.setAgent_node (s : State) (a : AgentId) (r : Agent) : (s.setAgent a r).node = s.node := rfl
@[simp] theorem State.setAgent_writes (s : State) (a : AgentId) (r : Agent) : (s.setAgent a r).writes = s.writes := rfl
@[simp] theorem State.setAgent_moves (s : State) (a : AgentId) (r : Agent) : (s.setAgent a r).moves = s.moves := rfl
@[simp] theorem State.setAgent_saved (s : State) (a : AgentId) (r : Agent) : (s.setAgent a r).saved = s.saved := rfl
@[simp] theorem State.setAgent_queues (s : State) (a : AgentId) (r : Agent) : (s.setAgent a r).queues = s.queues := rfl
@[simp] theorem State.setAgent_mailbox (s : State) (a : AgentId) (r : Agent) : (s.setAgent a r).mailbox = s.mailbox := rfl
@[simp] theorem State.setAgent_msix (s : State) (a : AgentId) (r : Agent) : (s.setAgent a r).msix = s.msix := rfl
@[simp] theorem State.setAgent_hostData (s : State) (a : AgentId) (r : Agent) : (s.setAgent a r).hostData = s.hostData := rfl
@[simp] theorem State.setAgent_fw (s : State) (a : AgentId) (r : Agent) : (s.setAgent a r).fw = s.fw := rfl
@[simp] theorem State.setAgent_links (s : State) (a : AgentId) (r : Agent) : (s.setAgent a r).links = s.links := rfl
@[simp] theorem State.setAgent_applied (s : State) (a : AgentId) (r : Agent) : (s.setAgent a r).applied = s.applied := rfl
@[simp] theorem State.setAgent_linkSeqs (s : State) (a : AgentId) (r : Agent) : (s.setAgent a r).linkSeqs = s.linkSeqs := rfl
@[simp] theorem State.setAgent_power (s : State) (a : AgentId) (r : Agent) : (s.setAgent a r).power = s.power := rfl
@[simp] theorem State.setAgent_fences (s : State) (a : AgentId) (r : Agent) : (s.setAgent a r).fences = s.fences := rfl
@[simp] theorem State.setAgent_retired (s : State) (a : AgentId) (r : Agent) : (s.setAgent a r).retired = s.retired := rfl
@[simp] theorem State.setAgent_pcieErrors (s : State) (a : AgentId) (r : Agent) : (s.setAgent a r).pcieErrors = s.pcieErrors := rfl
@[simp] theorem State.setAgent_nextEng (s : State) (a : AgentId) (r : Agent) : (s.setAgent a r).nextEng = s.nextEng := rfl
@[simp] theorem State.setAgent_cur (s : State) (a : AgentId) (r : Agent) : (s.setAgent a r).cur = s.cur := rfl
@[simp] theorem State.setAgent_mode (s : State) (a : AgentId) (r : Agent) : (s.setAgent a r).mode = s.mode := rfl
@[simp] theorem State.setAgent_defer (s : State) (a : AgentId) (r : Agent) : (s.setAgent a r).defer = s.defer := rfl
@[simp] theorem State.setAgent_iw (s : State) (a : AgentId) (r : Agent) : (s.setAgent a r).iw = s.iw := rfl
@[simp] theorem State.setAgent_agenda (s : State) (a : AgentId) (r : Agent) : (s.setAgent a r).agenda = s.agenda := rfl
@[simp] theorem State.setAgent_free (s : State) (a : AgentId) (r : Agent) : (s.setAgent a r).free = s.free := rfl

/-! ### Fields after `setMe` -/

@[simp] theorem State.setMe_agents (s : State) (r : Agent) : (s.setMe r).agents = tabSet s.agents s.cur r := rfl
@[simp] theorem State.setMe_progs (s : State) (r : Agent) : (s.setMe r).progs = s.progs := rfl
@[simp] theorem State.setMe_spurs (s : State) (r : Agent) : (s.setMe r).spurs = s.spurs := rfl
@[simp] theorem State.setMe_turns (s : State) (r : Agent) : (s.setMe r).turns = s.turns := rfl
@[simp] theorem State.setMe_dies (s : State) (r : Agent) : (s.setMe r).dies = s.dies := rfl
@[simp] theorem State.setMe_mem (s : State) (r : Agent) : (s.setMe r).mem = s.mem := rfl
@[simp] theorem State.setMe_full (s : State) (r : Agent) : (s.setMe r).full = s.full := rfl
@[simp] theorem State.setMe_bad (s : State) (r : Agent) : (s.setMe r).bad = s.bad := rfl
@[simp] theorem State.setMe_roots (s : State) (r : Agent) : (s.setMe r).roots = s.roots := rfl
@[simp] theorem State.setMe_tlb (s : State) (r : Agent) : (s.setMe r).tlb = s.tlb := rfl
@[simp] theorem State.setMe_homes (s : State) (r : Agent) : (s.setMe r).homes = s.homes := rfl
@[simp] theorem State.setMe_lookups (s : State) (r : Agent) : (s.setMe r).lookups = s.lookups := rfl
@[simp] theorem State.setMe_forwards (s : State) (r : Agent) : (s.setMe r).forwards = s.forwards := rfl
@[simp] theorem State.setMe_l1 (s : State) (r : Agent) : (s.setMe r).l1 = s.l1 := rfl
@[simp] theorem State.setMe_owned (s : State) (r : Agent) : (s.setMe r).owned = s.owned := rfl
@[simp] theorem State.setMe_claims (s : State) (r : Agent) : (s.setMe r).claims = s.claims := rfl
@[simp] theorem State.setMe_granted (s : State) (r : Agent) : (s.setMe r).granted = s.granted := rfl
@[simp] theorem State.setMe_feWait (s : State) (r : Agent) : (s.setMe r).feWait = s.feWait := rfl
@[simp] theorem State.setMe_ports (s : State) (r : Agent) : (s.setMe r).ports = s.ports := rfl
@[simp] theorem State.setMe_node (s : State) (r : Agent) : (s.setMe r).node = s.node := rfl
@[simp] theorem State.setMe_writes (s : State) (r : Agent) : (s.setMe r).writes = s.writes := rfl
@[simp] theorem State.setMe_moves (s : State) (r : Agent) : (s.setMe r).moves = s.moves := rfl
@[simp] theorem State.setMe_saved (s : State) (r : Agent) : (s.setMe r).saved = s.saved := rfl
@[simp] theorem State.setMe_queues (s : State) (r : Agent) : (s.setMe r).queues = s.queues := rfl
@[simp] theorem State.setMe_mailbox (s : State) (r : Agent) : (s.setMe r).mailbox = s.mailbox := rfl
@[simp] theorem State.setMe_msix (s : State) (r : Agent) : (s.setMe r).msix = s.msix := rfl
@[simp] theorem State.setMe_hostData (s : State) (r : Agent) : (s.setMe r).hostData = s.hostData := rfl
@[simp] theorem State.setMe_fw (s : State) (r : Agent) : (s.setMe r).fw = s.fw := rfl
@[simp] theorem State.setMe_links (s : State) (r : Agent) : (s.setMe r).links = s.links := rfl
@[simp] theorem State.setMe_applied (s : State) (r : Agent) : (s.setMe r).applied = s.applied := rfl
@[simp] theorem State.setMe_linkSeqs (s : State) (r : Agent) : (s.setMe r).linkSeqs = s.linkSeqs := rfl
@[simp] theorem State.setMe_power (s : State) (r : Agent) : (s.setMe r).power = s.power := rfl
@[simp] theorem State.setMe_fences (s : State) (r : Agent) : (s.setMe r).fences = s.fences := rfl
@[simp] theorem State.setMe_retired (s : State) (r : Agent) : (s.setMe r).retired = s.retired := rfl
@[simp] theorem State.setMe_pcieErrors (s : State) (r : Agent) : (s.setMe r).pcieErrors = s.pcieErrors := rfl
@[simp] theorem State.setMe_nextEng (s : State) (r : Agent) : (s.setMe r).nextEng = s.nextEng := rfl
@[simp] theorem State.setMe_cur (s : State) (r : Agent) : (s.setMe r).cur = s.cur := rfl
@[simp] theorem State.setMe_mode (s : State) (r : Agent) : (s.setMe r).mode = s.mode := rfl
@[simp] theorem State.setMe_defer (s : State) (r : Agent) : (s.setMe r).defer = s.defer := rfl
@[simp] theorem State.setMe_iw (s : State) (r : Agent) : (s.setMe r).iw = s.iw := rfl
@[simp] theorem State.setMe_agenda (s : State) (r : Agent) : (s.setMe r).agenda = s.agenda := rfl
@[simp] theorem State.setMe_free (s : State) (r : Agent) : (s.setMe r).free = s.free := rfl

/-! ### Fields after `setCtx` -/

@[simp] theorem State.setCtx_agents (s : State) (c : Ctx) : (s.setCtx c).agents = tabSet s.agents s.cur { s.me with ctx := c } := rfl
@[simp] theorem State.setCtx_progs (s : State) (c : Ctx) : (s.setCtx c).progs = s.progs := rfl
@[simp] theorem State.setCtx_spurs (s : State) (c : Ctx) : (s.setCtx c).spurs = s.spurs := rfl
@[simp] theorem State.setCtx_turns (s : State) (c : Ctx) : (s.setCtx c).turns = s.turns := rfl
@[simp] theorem State.setCtx_dies (s : State) (c : Ctx) : (s.setCtx c).dies = s.dies := rfl
@[simp] theorem State.setCtx_mem (s : State) (c : Ctx) : (s.setCtx c).mem = s.mem := rfl
@[simp] theorem State.setCtx_full (s : State) (c : Ctx) : (s.setCtx c).full = s.full := rfl
@[simp] theorem State.setCtx_bad (s : State) (c : Ctx) : (s.setCtx c).bad = s.bad := rfl
@[simp] theorem State.setCtx_roots (s : State) (c : Ctx) : (s.setCtx c).roots = s.roots := rfl
@[simp] theorem State.setCtx_tlb (s : State) (c : Ctx) : (s.setCtx c).tlb = s.tlb := rfl
@[simp] theorem State.setCtx_homes (s : State) (c : Ctx) : (s.setCtx c).homes = s.homes := rfl
@[simp] theorem State.setCtx_lookups (s : State) (c : Ctx) : (s.setCtx c).lookups = s.lookups := rfl
@[simp] theorem State.setCtx_forwards (s : State) (c : Ctx) : (s.setCtx c).forwards = s.forwards := rfl
@[simp] theorem State.setCtx_l1 (s : State) (c : Ctx) : (s.setCtx c).l1 = s.l1 := rfl
@[simp] theorem State.setCtx_owned (s : State) (c : Ctx) : (s.setCtx c).owned = s.owned := rfl
@[simp] theorem State.setCtx_claims (s : State) (c : Ctx) : (s.setCtx c).claims = s.claims := rfl
@[simp] theorem State.setCtx_granted (s : State) (c : Ctx) : (s.setCtx c).granted = s.granted := rfl
@[simp] theorem State.setCtx_feWait (s : State) (c : Ctx) : (s.setCtx c).feWait = s.feWait := rfl
@[simp] theorem State.setCtx_ports (s : State) (c : Ctx) : (s.setCtx c).ports = s.ports := rfl
@[simp] theorem State.setCtx_node (s : State) (c : Ctx) : (s.setCtx c).node = s.node := rfl
@[simp] theorem State.setCtx_writes (s : State) (c : Ctx) : (s.setCtx c).writes = s.writes := rfl
@[simp] theorem State.setCtx_moves (s : State) (c : Ctx) : (s.setCtx c).moves = s.moves := rfl
@[simp] theorem State.setCtx_saved (s : State) (c : Ctx) : (s.setCtx c).saved = s.saved := rfl
@[simp] theorem State.setCtx_queues (s : State) (c : Ctx) : (s.setCtx c).queues = s.queues := rfl
@[simp] theorem State.setCtx_mailbox (s : State) (c : Ctx) : (s.setCtx c).mailbox = s.mailbox := rfl
@[simp] theorem State.setCtx_msix (s : State) (c : Ctx) : (s.setCtx c).msix = s.msix := rfl
@[simp] theorem State.setCtx_hostData (s : State) (c : Ctx) : (s.setCtx c).hostData = s.hostData := rfl
@[simp] theorem State.setCtx_fw (s : State) (c : Ctx) : (s.setCtx c).fw = s.fw := rfl
@[simp] theorem State.setCtx_links (s : State) (c : Ctx) : (s.setCtx c).links = s.links := rfl
@[simp] theorem State.setCtx_applied (s : State) (c : Ctx) : (s.setCtx c).applied = s.applied := rfl
@[simp] theorem State.setCtx_linkSeqs (s : State) (c : Ctx) : (s.setCtx c).linkSeqs = s.linkSeqs := rfl
@[simp] theorem State.setCtx_power (s : State) (c : Ctx) : (s.setCtx c).power = s.power := rfl
@[simp] theorem State.setCtx_fences (s : State) (c : Ctx) : (s.setCtx c).fences = s.fences := rfl
@[simp] theorem State.setCtx_retired (s : State) (c : Ctx) : (s.setCtx c).retired = s.retired := rfl
@[simp] theorem State.setCtx_pcieErrors (s : State) (c : Ctx) : (s.setCtx c).pcieErrors = s.pcieErrors := rfl
@[simp] theorem State.setCtx_nextEng (s : State) (c : Ctx) : (s.setCtx c).nextEng = s.nextEng := rfl
@[simp] theorem State.setCtx_cur (s : State) (c : Ctx) : (s.setCtx c).cur = s.cur := rfl
@[simp] theorem State.setCtx_mode (s : State) (c : Ctx) : (s.setCtx c).mode = s.mode := rfl
@[simp] theorem State.setCtx_defer (s : State) (c : Ctx) : (s.setCtx c).defer = s.defer := rfl
@[simp] theorem State.setCtx_iw (s : State) (c : Ctx) : (s.setCtx c).iw = s.iw := rfl
@[simp] theorem State.setCtx_agenda (s : State) (c : Ctx) : (s.setCtx c).agenda = s.agenda := rfl
@[simp] theorem State.setCtx_free (s : State) (c : Ctx) : (s.setCtx c).free = s.free := rfl

/-! ### Fields after `setProg` -/

@[simp] theorem State.setProg_agents (s : State) (k : Nat × Nat) (p : Prog) : (s.setProg k p).agents = s.agents := rfl
@[simp] theorem State.setProg_progs (s : State) (k : Nat × Nat) (p : Prog) : (s.setProg k p).progs = tabSet s.progs k p := rfl
@[simp] theorem State.setProg_spurs (s : State) (k : Nat × Nat) (p : Prog) : (s.setProg k p).spurs = s.spurs := rfl
@[simp] theorem State.setProg_turns (s : State) (k : Nat × Nat) (p : Prog) : (s.setProg k p).turns = s.turns := rfl
@[simp] theorem State.setProg_dies (s : State) (k : Nat × Nat) (p : Prog) : (s.setProg k p).dies = s.dies := rfl
@[simp] theorem State.setProg_mem (s : State) (k : Nat × Nat) (p : Prog) : (s.setProg k p).mem = s.mem := rfl
@[simp] theorem State.setProg_full (s : State) (k : Nat × Nat) (p : Prog) : (s.setProg k p).full = s.full := rfl
@[simp] theorem State.setProg_bad (s : State) (k : Nat × Nat) (p : Prog) : (s.setProg k p).bad = s.bad := rfl
@[simp] theorem State.setProg_roots (s : State) (k : Nat × Nat) (p : Prog) : (s.setProg k p).roots = s.roots := rfl
@[simp] theorem State.setProg_tlb (s : State) (k : Nat × Nat) (p : Prog) : (s.setProg k p).tlb = s.tlb := rfl
@[simp] theorem State.setProg_homes (s : State) (k : Nat × Nat) (p : Prog) : (s.setProg k p).homes = s.homes := rfl
@[simp] theorem State.setProg_lookups (s : State) (k : Nat × Nat) (p : Prog) : (s.setProg k p).lookups = s.lookups := rfl
@[simp] theorem State.setProg_forwards (s : State) (k : Nat × Nat) (p : Prog) : (s.setProg k p).forwards = s.forwards := rfl
@[simp] theorem State.setProg_l1 (s : State) (k : Nat × Nat) (p : Prog) : (s.setProg k p).l1 = s.l1 := rfl
@[simp] theorem State.setProg_owned (s : State) (k : Nat × Nat) (p : Prog) : (s.setProg k p).owned = s.owned := rfl
@[simp] theorem State.setProg_claims (s : State) (k : Nat × Nat) (p : Prog) : (s.setProg k p).claims = s.claims := rfl
@[simp] theorem State.setProg_granted (s : State) (k : Nat × Nat) (p : Prog) : (s.setProg k p).granted = s.granted := rfl
@[simp] theorem State.setProg_feWait (s : State) (k : Nat × Nat) (p : Prog) : (s.setProg k p).feWait = s.feWait := rfl
@[simp] theorem State.setProg_ports (s : State) (k : Nat × Nat) (p : Prog) : (s.setProg k p).ports = s.ports := rfl
@[simp] theorem State.setProg_node (s : State) (k : Nat × Nat) (p : Prog) : (s.setProg k p).node = s.node := rfl
@[simp] theorem State.setProg_writes (s : State) (k : Nat × Nat) (p : Prog) : (s.setProg k p).writes = s.writes := rfl
@[simp] theorem State.setProg_moves (s : State) (k : Nat × Nat) (p : Prog) : (s.setProg k p).moves = s.moves := rfl
@[simp] theorem State.setProg_saved (s : State) (k : Nat × Nat) (p : Prog) : (s.setProg k p).saved = s.saved := rfl
@[simp] theorem State.setProg_queues (s : State) (k : Nat × Nat) (p : Prog) : (s.setProg k p).queues = s.queues := rfl
@[simp] theorem State.setProg_mailbox (s : State) (k : Nat × Nat) (p : Prog) : (s.setProg k p).mailbox = s.mailbox := rfl
@[simp] theorem State.setProg_msix (s : State) (k : Nat × Nat) (p : Prog) : (s.setProg k p).msix = s.msix := rfl
@[simp] theorem State.setProg_hostData (s : State) (k : Nat × Nat) (p : Prog) : (s.setProg k p).hostData = s.hostData := rfl
@[simp] theorem State.setProg_fw (s : State) (k : Nat × Nat) (p : Prog) : (s.setProg k p).fw = s.fw := rfl
@[simp] theorem State.setProg_links (s : State) (k : Nat × Nat) (p : Prog) : (s.setProg k p).links = s.links := rfl
@[simp] theorem State.setProg_applied (s : State) (k : Nat × Nat) (p : Prog) : (s.setProg k p).applied = s.applied := rfl
@[simp] theorem State.setProg_linkSeqs (s : State) (k : Nat × Nat) (p : Prog) : (s.setProg k p).linkSeqs = s.linkSeqs := rfl
@[simp] theorem State.setProg_power (s : State) (k : Nat × Nat) (p : Prog) : (s.setProg k p).power = s.power := rfl
@[simp] theorem State.setProg_fences (s : State) (k : Nat × Nat) (p : Prog) : (s.setProg k p).fences = s.fences := rfl
@[simp] theorem State.setProg_retired (s : State) (k : Nat × Nat) (p : Prog) : (s.setProg k p).retired = s.retired := rfl
@[simp] theorem State.setProg_pcieErrors (s : State) (k : Nat × Nat) (p : Prog) : (s.setProg k p).pcieErrors = s.pcieErrors := rfl
@[simp] theorem State.setProg_nextEng (s : State) (k : Nat × Nat) (p : Prog) : (s.setProg k p).nextEng = s.nextEng := rfl
@[simp] theorem State.setProg_cur (s : State) (k : Nat × Nat) (p : Prog) : (s.setProg k p).cur = s.cur := rfl
@[simp] theorem State.setProg_mode (s : State) (k : Nat × Nat) (p : Prog) : (s.setProg k p).mode = s.mode := rfl
@[simp] theorem State.setProg_defer (s : State) (k : Nat × Nat) (p : Prog) : (s.setProg k p).defer = s.defer := rfl
@[simp] theorem State.setProg_iw (s : State) (k : Nat × Nat) (p : Prog) : (s.setProg k p).iw = s.iw := rfl
@[simp] theorem State.setProg_agenda (s : State) (k : Nat × Nat) (p : Prog) : (s.setProg k p).agenda = s.agenda := rfl
@[simp] theorem State.setProg_free (s : State) (k : Nat × Nat) (p : Prog) : (s.setProg k p).free = s.free := rfl

/-! ### Fields after `setMyProg` -/

@[simp] theorem State.setMyProg_agents (s : State) (p : Prog) : (s.setMyProg p).agents = s.agents := rfl
@[simp] theorem State.setMyProg_progs (s : State) (p : Prog) : (s.setMyProg p).progs = tabSet s.progs s.myKey p := rfl
@[simp] theorem State.setMyProg_spurs (s : State) (p : Prog) : (s.setMyProg p).spurs = s.spurs := rfl
@[simp] theorem State.setMyProg_turns (s : State) (p : Prog) : (s.setMyProg p).turns = s.turns := rfl
@[simp] theorem State.setMyProg_dies (s : State) (p : Prog) : (s.setMyProg p).dies = s.dies := rfl
@[simp] theorem State.setMyProg_mem (s : State) (p : Prog) : (s.setMyProg p).mem = s.mem := rfl
@[simp] theorem State.setMyProg_full (s : State) (p : Prog) : (s.setMyProg p).full = s.full := rfl
@[simp] theorem State.setMyProg_bad (s : State) (p : Prog) : (s.setMyProg p).bad = s.bad := rfl
@[simp] theorem State.setMyProg_roots (s : State) (p : Prog) : (s.setMyProg p).roots = s.roots := rfl
@[simp] theorem State.setMyProg_tlb (s : State) (p : Prog) : (s.setMyProg p).tlb = s.tlb := rfl
@[simp] theorem State.setMyProg_homes (s : State) (p : Prog) : (s.setMyProg p).homes = s.homes := rfl
@[simp] theorem State.setMyProg_lookups (s : State) (p : Prog) : (s.setMyProg p).lookups = s.lookups := rfl
@[simp] theorem State.setMyProg_forwards (s : State) (p : Prog) : (s.setMyProg p).forwards = s.forwards := rfl
@[simp] theorem State.setMyProg_l1 (s : State) (p : Prog) : (s.setMyProg p).l1 = s.l1 := rfl
@[simp] theorem State.setMyProg_owned (s : State) (p : Prog) : (s.setMyProg p).owned = s.owned := rfl
@[simp] theorem State.setMyProg_claims (s : State) (p : Prog) : (s.setMyProg p).claims = s.claims := rfl
@[simp] theorem State.setMyProg_granted (s : State) (p : Prog) : (s.setMyProg p).granted = s.granted := rfl
@[simp] theorem State.setMyProg_feWait (s : State) (p : Prog) : (s.setMyProg p).feWait = s.feWait := rfl
@[simp] theorem State.setMyProg_ports (s : State) (p : Prog) : (s.setMyProg p).ports = s.ports := rfl
@[simp] theorem State.setMyProg_node (s : State) (p : Prog) : (s.setMyProg p).node = s.node := rfl
@[simp] theorem State.setMyProg_writes (s : State) (p : Prog) : (s.setMyProg p).writes = s.writes := rfl
@[simp] theorem State.setMyProg_moves (s : State) (p : Prog) : (s.setMyProg p).moves = s.moves := rfl
@[simp] theorem State.setMyProg_saved (s : State) (p : Prog) : (s.setMyProg p).saved = s.saved := rfl
@[simp] theorem State.setMyProg_queues (s : State) (p : Prog) : (s.setMyProg p).queues = s.queues := rfl
@[simp] theorem State.setMyProg_mailbox (s : State) (p : Prog) : (s.setMyProg p).mailbox = s.mailbox := rfl
@[simp] theorem State.setMyProg_msix (s : State) (p : Prog) : (s.setMyProg p).msix = s.msix := rfl
@[simp] theorem State.setMyProg_hostData (s : State) (p : Prog) : (s.setMyProg p).hostData = s.hostData := rfl
@[simp] theorem State.setMyProg_fw (s : State) (p : Prog) : (s.setMyProg p).fw = s.fw := rfl
@[simp] theorem State.setMyProg_links (s : State) (p : Prog) : (s.setMyProg p).links = s.links := rfl
@[simp] theorem State.setMyProg_applied (s : State) (p : Prog) : (s.setMyProg p).applied = s.applied := rfl
@[simp] theorem State.setMyProg_linkSeqs (s : State) (p : Prog) : (s.setMyProg p).linkSeqs = s.linkSeqs := rfl
@[simp] theorem State.setMyProg_power (s : State) (p : Prog) : (s.setMyProg p).power = s.power := rfl
@[simp] theorem State.setMyProg_fences (s : State) (p : Prog) : (s.setMyProg p).fences = s.fences := rfl
@[simp] theorem State.setMyProg_retired (s : State) (p : Prog) : (s.setMyProg p).retired = s.retired := rfl
@[simp] theorem State.setMyProg_pcieErrors (s : State) (p : Prog) : (s.setMyProg p).pcieErrors = s.pcieErrors := rfl
@[simp] theorem State.setMyProg_nextEng (s : State) (p : Prog) : (s.setMyProg p).nextEng = s.nextEng := rfl
@[simp] theorem State.setMyProg_cur (s : State) (p : Prog) : (s.setMyProg p).cur = s.cur := rfl
@[simp] theorem State.setMyProg_mode (s : State) (p : Prog) : (s.setMyProg p).mode = s.mode := rfl
@[simp] theorem State.setMyProg_defer (s : State) (p : Prog) : (s.setMyProg p).defer = s.defer := rfl
@[simp] theorem State.setMyProg_iw (s : State) (p : Prog) : (s.setMyProg p).iw = s.iw := rfl
@[simp] theorem State.setMyProg_agenda (s : State) (p : Prog) : (s.setMyProg p).agenda = s.agenda := rfl
@[simp] theorem State.setMyProg_free (s : State) (p : Prog) : (s.setMyProg p).free = s.free := rfl

/-! ### Fields after `setSpur` -/

@[simp] theorem State.setSpur_agents (s : State) (k : Nat × Nat) (p : Spur) : (s.setSpur k p).agents = s.agents := rfl
@[simp] theorem State.setSpur_progs (s : State) (k : Nat × Nat) (p : Spur) : (s.setSpur k p).progs = s.progs := rfl
@[simp] theorem State.setSpur_spurs (s : State) (k : Nat × Nat) (p : Spur) : (s.setSpur k p).spurs = tabSet s.spurs k ((s.spur k).noteHwm p) := rfl
@[simp] theorem State.setSpur_turns (s : State) (k : Nat × Nat) (p : Spur) : (s.setSpur k p).turns = s.turns := rfl
@[simp] theorem State.setSpur_dies (s : State) (k : Nat × Nat) (p : Spur) : (s.setSpur k p).dies = s.dies := rfl
@[simp] theorem State.setSpur_mem (s : State) (k : Nat × Nat) (p : Spur) : (s.setSpur k p).mem = s.mem := rfl
@[simp] theorem State.setSpur_full (s : State) (k : Nat × Nat) (p : Spur) : (s.setSpur k p).full = s.full := rfl
@[simp] theorem State.setSpur_bad (s : State) (k : Nat × Nat) (p : Spur) : (s.setSpur k p).bad = s.bad := rfl
@[simp] theorem State.setSpur_roots (s : State) (k : Nat × Nat) (p : Spur) : (s.setSpur k p).roots = s.roots := rfl
@[simp] theorem State.setSpur_tlb (s : State) (k : Nat × Nat) (p : Spur) : (s.setSpur k p).tlb = s.tlb := rfl
@[simp] theorem State.setSpur_homes (s : State) (k : Nat × Nat) (p : Spur) : (s.setSpur k p).homes = s.homes := rfl
@[simp] theorem State.setSpur_lookups (s : State) (k : Nat × Nat) (p : Spur) : (s.setSpur k p).lookups = s.lookups := rfl
@[simp] theorem State.setSpur_forwards (s : State) (k : Nat × Nat) (p : Spur) : (s.setSpur k p).forwards = s.forwards := rfl
@[simp] theorem State.setSpur_l1 (s : State) (k : Nat × Nat) (p : Spur) : (s.setSpur k p).l1 = s.l1 := rfl
@[simp] theorem State.setSpur_owned (s : State) (k : Nat × Nat) (p : Spur) : (s.setSpur k p).owned = s.owned := rfl
@[simp] theorem State.setSpur_claims (s : State) (k : Nat × Nat) (p : Spur) : (s.setSpur k p).claims = s.claims := rfl
@[simp] theorem State.setSpur_granted (s : State) (k : Nat × Nat) (p : Spur) : (s.setSpur k p).granted = s.granted := rfl
@[simp] theorem State.setSpur_feWait (s : State) (k : Nat × Nat) (p : Spur) : (s.setSpur k p).feWait = s.feWait := rfl
@[simp] theorem State.setSpur_ports (s : State) (k : Nat × Nat) (p : Spur) : (s.setSpur k p).ports = s.ports := rfl
@[simp] theorem State.setSpur_node (s : State) (k : Nat × Nat) (p : Spur) : (s.setSpur k p).node = s.node := rfl
@[simp] theorem State.setSpur_writes (s : State) (k : Nat × Nat) (p : Spur) : (s.setSpur k p).writes = s.writes := rfl
@[simp] theorem State.setSpur_moves (s : State) (k : Nat × Nat) (p : Spur) : (s.setSpur k p).moves = s.moves := rfl
@[simp] theorem State.setSpur_saved (s : State) (k : Nat × Nat) (p : Spur) : (s.setSpur k p).saved = s.saved := rfl
@[simp] theorem State.setSpur_queues (s : State) (k : Nat × Nat) (p : Spur) : (s.setSpur k p).queues = s.queues := rfl
@[simp] theorem State.setSpur_mailbox (s : State) (k : Nat × Nat) (p : Spur) : (s.setSpur k p).mailbox = s.mailbox := rfl
@[simp] theorem State.setSpur_msix (s : State) (k : Nat × Nat) (p : Spur) : (s.setSpur k p).msix = s.msix := rfl
@[simp] theorem State.setSpur_hostData (s : State) (k : Nat × Nat) (p : Spur) : (s.setSpur k p).hostData = s.hostData := rfl
@[simp] theorem State.setSpur_fw (s : State) (k : Nat × Nat) (p : Spur) : (s.setSpur k p).fw = s.fw := rfl
@[simp] theorem State.setSpur_links (s : State) (k : Nat × Nat) (p : Spur) : (s.setSpur k p).links = s.links := rfl
@[simp] theorem State.setSpur_applied (s : State) (k : Nat × Nat) (p : Spur) : (s.setSpur k p).applied = s.applied := rfl
@[simp] theorem State.setSpur_linkSeqs (s : State) (k : Nat × Nat) (p : Spur) : (s.setSpur k p).linkSeqs = s.linkSeqs := rfl
@[simp] theorem State.setSpur_power (s : State) (k : Nat × Nat) (p : Spur) : (s.setSpur k p).power = s.power := rfl
@[simp] theorem State.setSpur_fences (s : State) (k : Nat × Nat) (p : Spur) : (s.setSpur k p).fences = s.fences := rfl
@[simp] theorem State.setSpur_retired (s : State) (k : Nat × Nat) (p : Spur) : (s.setSpur k p).retired = s.retired := rfl
@[simp] theorem State.setSpur_pcieErrors (s : State) (k : Nat × Nat) (p : Spur) : (s.setSpur k p).pcieErrors = s.pcieErrors := rfl
@[simp] theorem State.setSpur_nextEng (s : State) (k : Nat × Nat) (p : Spur) : (s.setSpur k p).nextEng = s.nextEng := rfl
@[simp] theorem State.setSpur_cur (s : State) (k : Nat × Nat) (p : Spur) : (s.setSpur k p).cur = s.cur := rfl
@[simp] theorem State.setSpur_mode (s : State) (k : Nat × Nat) (p : Spur) : (s.setSpur k p).mode = s.mode := rfl
@[simp] theorem State.setSpur_defer (s : State) (k : Nat × Nat) (p : Spur) : (s.setSpur k p).defer = s.defer := rfl
@[simp] theorem State.setSpur_iw (s : State) (k : Nat × Nat) (p : Spur) : (s.setSpur k p).iw = s.iw := rfl
@[simp] theorem State.setSpur_agenda (s : State) (k : Nat × Nat) (p : Spur) : (s.setSpur k p).agenda = s.agenda := rfl
@[simp] theorem State.setSpur_free (s : State) (k : Nat × Nat) (p : Spur) : (s.setSpur k p).free = s.free := rfl

/-! ### Fields after `setDie` -/

@[simp] theorem State.setDie_agents (s : State) (d : Nat) (r : Die) : (s.setDie d r).agents = s.agents := rfl
@[simp] theorem State.setDie_progs (s : State) (d : Nat) (r : Die) : (s.setDie d r).progs = s.progs := rfl
@[simp] theorem State.setDie_spurs (s : State) (d : Nat) (r : Die) : (s.setDie d r).spurs = s.spurs := rfl
@[simp] theorem State.setDie_turns (s : State) (d : Nat) (r : Die) : (s.setDie d r).turns = s.turns := rfl
@[simp] theorem State.setDie_dies (s : State) (d : Nat) (r : Die) : (s.setDie d r).dies = tabSet s.dies d r := rfl
@[simp] theorem State.setDie_mem (s : State) (d : Nat) (r : Die) : (s.setDie d r).mem = s.mem := rfl
@[simp] theorem State.setDie_full (s : State) (d : Nat) (r : Die) : (s.setDie d r).full = s.full := rfl
@[simp] theorem State.setDie_bad (s : State) (d : Nat) (r : Die) : (s.setDie d r).bad = s.bad := rfl
@[simp] theorem State.setDie_roots (s : State) (d : Nat) (r : Die) : (s.setDie d r).roots = s.roots := rfl
@[simp] theorem State.setDie_tlb (s : State) (d : Nat) (r : Die) : (s.setDie d r).tlb = s.tlb := rfl
@[simp] theorem State.setDie_homes (s : State) (d : Nat) (r : Die) : (s.setDie d r).homes = s.homes := rfl
@[simp] theorem State.setDie_lookups (s : State) (d : Nat) (r : Die) : (s.setDie d r).lookups = s.lookups := rfl
@[simp] theorem State.setDie_forwards (s : State) (d : Nat) (r : Die) : (s.setDie d r).forwards = s.forwards := rfl
@[simp] theorem State.setDie_l1 (s : State) (d : Nat) (r : Die) : (s.setDie d r).l1 = s.l1 := rfl
@[simp] theorem State.setDie_owned (s : State) (d : Nat) (r : Die) : (s.setDie d r).owned = s.owned := rfl
@[simp] theorem State.setDie_claims (s : State) (d : Nat) (r : Die) : (s.setDie d r).claims = s.claims := rfl
@[simp] theorem State.setDie_granted (s : State) (d : Nat) (r : Die) : (s.setDie d r).granted = s.granted := rfl
@[simp] theorem State.setDie_feWait (s : State) (d : Nat) (r : Die) : (s.setDie d r).feWait = s.feWait := rfl
@[simp] theorem State.setDie_ports (s : State) (d : Nat) (r : Die) : (s.setDie d r).ports = s.ports := rfl
@[simp] theorem State.setDie_node (s : State) (d : Nat) (r : Die) : (s.setDie d r).node = s.node := rfl
@[simp] theorem State.setDie_writes (s : State) (d : Nat) (r : Die) : (s.setDie d r).writes = s.writes := rfl
@[simp] theorem State.setDie_moves (s : State) (d : Nat) (r : Die) : (s.setDie d r).moves = s.moves := rfl
@[simp] theorem State.setDie_saved (s : State) (d : Nat) (r : Die) : (s.setDie d r).saved = s.saved := rfl
@[simp] theorem State.setDie_queues (s : State) (d : Nat) (r : Die) : (s.setDie d r).queues = s.queues := rfl
@[simp] theorem State.setDie_mailbox (s : State) (d : Nat) (r : Die) : (s.setDie d r).mailbox = s.mailbox := rfl
@[simp] theorem State.setDie_msix (s : State) (d : Nat) (r : Die) : (s.setDie d r).msix = s.msix := rfl
@[simp] theorem State.setDie_hostData (s : State) (d : Nat) (r : Die) : (s.setDie d r).hostData = s.hostData := rfl
@[simp] theorem State.setDie_fw (s : State) (d : Nat) (r : Die) : (s.setDie d r).fw = s.fw := rfl
@[simp] theorem State.setDie_links (s : State) (d : Nat) (r : Die) : (s.setDie d r).links = s.links := rfl
@[simp] theorem State.setDie_applied (s : State) (d : Nat) (r : Die) : (s.setDie d r).applied = s.applied := rfl
@[simp] theorem State.setDie_linkSeqs (s : State) (d : Nat) (r : Die) : (s.setDie d r).linkSeqs = s.linkSeqs := rfl
@[simp] theorem State.setDie_power (s : State) (d : Nat) (r : Die) : (s.setDie d r).power = s.power := rfl
@[simp] theorem State.setDie_fences (s : State) (d : Nat) (r : Die) : (s.setDie d r).fences = s.fences := rfl
@[simp] theorem State.setDie_retired (s : State) (d : Nat) (r : Die) : (s.setDie d r).retired = s.retired := rfl
@[simp] theorem State.setDie_pcieErrors (s : State) (d : Nat) (r : Die) : (s.setDie d r).pcieErrors = s.pcieErrors := rfl
@[simp] theorem State.setDie_nextEng (s : State) (d : Nat) (r : Die) : (s.setDie d r).nextEng = s.nextEng := rfl
@[simp] theorem State.setDie_cur (s : State) (d : Nat) (r : Die) : (s.setDie d r).cur = s.cur := rfl
@[simp] theorem State.setDie_mode (s : State) (d : Nat) (r : Die) : (s.setDie d r).mode = s.mode := rfl
@[simp] theorem State.setDie_defer (s : State) (d : Nat) (r : Die) : (s.setDie d r).defer = s.defer := rfl
@[simp] theorem State.setDie_iw (s : State) (d : Nat) (r : Die) : (s.setDie d r).iw = s.iw := rfl
@[simp] theorem State.setDie_agenda (s : State) (d : Nat) (r : Die) : (s.setDie d r).agenda = s.agenda := rfl
@[simp] theorem State.setDie_free (s : State) (d : Nat) (r : Die) : (s.setDie d r).free = s.free := rfl

/-! ### Fields after `setQueue` -/

@[simp] theorem State.setQueue_agents (s : State) (k : Nat × Nat) (q : Queue) : (s.setQueue k q).agents = s.agents := rfl
@[simp] theorem State.setQueue_progs (s : State) (k : Nat × Nat) (q : Queue) : (s.setQueue k q).progs = s.progs := rfl
@[simp] theorem State.setQueue_spurs (s : State) (k : Nat × Nat) (q : Queue) : (s.setQueue k q).spurs = s.spurs := rfl
@[simp] theorem State.setQueue_turns (s : State) (k : Nat × Nat) (q : Queue) : (s.setQueue k q).turns = s.turns := rfl
@[simp] theorem State.setQueue_dies (s : State) (k : Nat × Nat) (q : Queue) : (s.setQueue k q).dies = s.dies := rfl
@[simp] theorem State.setQueue_mem (s : State) (k : Nat × Nat) (q : Queue) : (s.setQueue k q).mem = s.mem := rfl
@[simp] theorem State.setQueue_full (s : State) (k : Nat × Nat) (q : Queue) : (s.setQueue k q).full = s.full := rfl
@[simp] theorem State.setQueue_bad (s : State) (k : Nat × Nat) (q : Queue) : (s.setQueue k q).bad = s.bad := rfl
@[simp] theorem State.setQueue_roots (s : State) (k : Nat × Nat) (q : Queue) : (s.setQueue k q).roots = s.roots := rfl
@[simp] theorem State.setQueue_tlb (s : State) (k : Nat × Nat) (q : Queue) : (s.setQueue k q).tlb = s.tlb := rfl
@[simp] theorem State.setQueue_homes (s : State) (k : Nat × Nat) (q : Queue) : (s.setQueue k q).homes = s.homes := rfl
@[simp] theorem State.setQueue_lookups (s : State) (k : Nat × Nat) (q : Queue) : (s.setQueue k q).lookups = s.lookups := rfl
@[simp] theorem State.setQueue_forwards (s : State) (k : Nat × Nat) (q : Queue) : (s.setQueue k q).forwards = s.forwards := rfl
@[simp] theorem State.setQueue_l1 (s : State) (k : Nat × Nat) (q : Queue) : (s.setQueue k q).l1 = s.l1 := rfl
@[simp] theorem State.setQueue_owned (s : State) (k : Nat × Nat) (q : Queue) : (s.setQueue k q).owned = s.owned := rfl
@[simp] theorem State.setQueue_claims (s : State) (k : Nat × Nat) (q : Queue) : (s.setQueue k q).claims = s.claims := rfl
@[simp] theorem State.setQueue_granted (s : State) (k : Nat × Nat) (q : Queue) : (s.setQueue k q).granted = s.granted := rfl
@[simp] theorem State.setQueue_feWait (s : State) (k : Nat × Nat) (q : Queue) : (s.setQueue k q).feWait = s.feWait := rfl
@[simp] theorem State.setQueue_ports (s : State) (k : Nat × Nat) (q : Queue) : (s.setQueue k q).ports = s.ports := rfl
@[simp] theorem State.setQueue_node (s : State) (k : Nat × Nat) (q : Queue) : (s.setQueue k q).node = s.node := rfl
@[simp] theorem State.setQueue_writes (s : State) (k : Nat × Nat) (q : Queue) : (s.setQueue k q).writes = s.writes := rfl
@[simp] theorem State.setQueue_moves (s : State) (k : Nat × Nat) (q : Queue) : (s.setQueue k q).moves = s.moves := rfl
@[simp] theorem State.setQueue_saved (s : State) (k : Nat × Nat) (q : Queue) : (s.setQueue k q).saved = s.saved := rfl
@[simp] theorem State.setQueue_queues (s : State) (k : Nat × Nat) (q : Queue) : (s.setQueue k q).queues = tabSet s.queues k q := rfl
@[simp] theorem State.setQueue_mailbox (s : State) (k : Nat × Nat) (q : Queue) : (s.setQueue k q).mailbox = s.mailbox := rfl
@[simp] theorem State.setQueue_msix (s : State) (k : Nat × Nat) (q : Queue) : (s.setQueue k q).msix = s.msix := rfl
@[simp] theorem State.setQueue_hostData (s : State) (k : Nat × Nat) (q : Queue) : (s.setQueue k q).hostData = s.hostData := rfl
@[simp] theorem State.setQueue_fw (s : State) (k : Nat × Nat) (q : Queue) : (s.setQueue k q).fw = s.fw := rfl
@[simp] theorem State.setQueue_links (s : State) (k : Nat × Nat) (q : Queue) : (s.setQueue k q).links = s.links := rfl
@[simp] theorem State.setQueue_applied (s : State) (k : Nat × Nat) (q : Queue) : (s.setQueue k q).applied = s.applied := rfl
@[simp] theorem State.setQueue_linkSeqs (s : State) (k : Nat × Nat) (q : Queue) : (s.setQueue k q).linkSeqs = s.linkSeqs := rfl
@[simp] theorem State.setQueue_power (s : State) (k : Nat × Nat) (q : Queue) : (s.setQueue k q).power = s.power := rfl
@[simp] theorem State.setQueue_fences (s : State) (k : Nat × Nat) (q : Queue) : (s.setQueue k q).fences = s.fences := rfl
@[simp] theorem State.setQueue_retired (s : State) (k : Nat × Nat) (q : Queue) : (s.setQueue k q).retired = s.retired := rfl
@[simp] theorem State.setQueue_pcieErrors (s : State) (k : Nat × Nat) (q : Queue) : (s.setQueue k q).pcieErrors = s.pcieErrors := rfl
@[simp] theorem State.setQueue_nextEng (s : State) (k : Nat × Nat) (q : Queue) : (s.setQueue k q).nextEng = s.nextEng := rfl
@[simp] theorem State.setQueue_cur (s : State) (k : Nat × Nat) (q : Queue) : (s.setQueue k q).cur = s.cur := rfl
@[simp] theorem State.setQueue_mode (s : State) (k : Nat × Nat) (q : Queue) : (s.setQueue k q).mode = s.mode := rfl
@[simp] theorem State.setQueue_defer (s : State) (k : Nat × Nat) (q : Queue) : (s.setQueue k q).defer = s.defer := rfl
@[simp] theorem State.setQueue_iw (s : State) (k : Nat × Nat) (q : Queue) : (s.setQueue k q).iw = s.iw := rfl
@[simp] theorem State.setQueue_agenda (s : State) (k : Nat × Nat) (q : Queue) : (s.setQueue k q).agenda = s.agenda := rfl
@[simp] theorem State.setQueue_free (s : State) (k : Nat × Nat) (q : Queue) : (s.setQueue k q).free = s.free := rfl

/-! ### Fields after `setLink` -/

@[simp] theorem State.setLink_agents (s : State) (l : Nat) (r : Link) : (s.setLink l r).agents = s.agents := rfl
@[simp] theorem State.setLink_progs (s : State) (l : Nat) (r : Link) : (s.setLink l r).progs = s.progs := rfl
@[simp] theorem State.setLink_spurs (s : State) (l : Nat) (r : Link) : (s.setLink l r).spurs = s.spurs := rfl
@[simp] theorem State.setLink_turns (s : State) (l : Nat) (r : Link) : (s.setLink l r).turns = s.turns := rfl
@[simp] theorem State.setLink_dies (s : State) (l : Nat) (r : Link) : (s.setLink l r).dies = s.dies := rfl
@[simp] theorem State.setLink_mem (s : State) (l : Nat) (r : Link) : (s.setLink l r).mem = s.mem := rfl
@[simp] theorem State.setLink_full (s : State) (l : Nat) (r : Link) : (s.setLink l r).full = s.full := rfl
@[simp] theorem State.setLink_bad (s : State) (l : Nat) (r : Link) : (s.setLink l r).bad = s.bad := rfl
@[simp] theorem State.setLink_roots (s : State) (l : Nat) (r : Link) : (s.setLink l r).roots = s.roots := rfl
@[simp] theorem State.setLink_tlb (s : State) (l : Nat) (r : Link) : (s.setLink l r).tlb = s.tlb := rfl
@[simp] theorem State.setLink_homes (s : State) (l : Nat) (r : Link) : (s.setLink l r).homes = s.homes := rfl
@[simp] theorem State.setLink_lookups (s : State) (l : Nat) (r : Link) : (s.setLink l r).lookups = s.lookups := rfl
@[simp] theorem State.setLink_forwards (s : State) (l : Nat) (r : Link) : (s.setLink l r).forwards = s.forwards := rfl
@[simp] theorem State.setLink_l1 (s : State) (l : Nat) (r : Link) : (s.setLink l r).l1 = s.l1 := rfl
@[simp] theorem State.setLink_owned (s : State) (l : Nat) (r : Link) : (s.setLink l r).owned = s.owned := rfl
@[simp] theorem State.setLink_claims (s : State) (l : Nat) (r : Link) : (s.setLink l r).claims = s.claims := rfl
@[simp] theorem State.setLink_granted (s : State) (l : Nat) (r : Link) : (s.setLink l r).granted = s.granted := rfl
@[simp] theorem State.setLink_feWait (s : State) (l : Nat) (r : Link) : (s.setLink l r).feWait = s.feWait := rfl
@[simp] theorem State.setLink_ports (s : State) (l : Nat) (r : Link) : (s.setLink l r).ports = s.ports := rfl
@[simp] theorem State.setLink_node (s : State) (l : Nat) (r : Link) : (s.setLink l r).node = s.node := rfl
@[simp] theorem State.setLink_writes (s : State) (l : Nat) (r : Link) : (s.setLink l r).writes = s.writes := rfl
@[simp] theorem State.setLink_moves (s : State) (l : Nat) (r : Link) : (s.setLink l r).moves = s.moves := rfl
@[simp] theorem State.setLink_saved (s : State) (l : Nat) (r : Link) : (s.setLink l r).saved = s.saved := rfl
@[simp] theorem State.setLink_queues (s : State) (l : Nat) (r : Link) : (s.setLink l r).queues = s.queues := rfl
@[simp] theorem State.setLink_mailbox (s : State) (l : Nat) (r : Link) : (s.setLink l r).mailbox = s.mailbox := rfl
@[simp] theorem State.setLink_msix (s : State) (l : Nat) (r : Link) : (s.setLink l r).msix = s.msix := rfl
@[simp] theorem State.setLink_hostData (s : State) (l : Nat) (r : Link) : (s.setLink l r).hostData = s.hostData := rfl
@[simp] theorem State.setLink_fw (s : State) (l : Nat) (r : Link) : (s.setLink l r).fw = s.fw := rfl
@[simp] theorem State.setLink_links (s : State) (l : Nat) (r : Link) : (s.setLink l r).links = tabSet s.links l r := rfl
@[simp] theorem State.setLink_applied (s : State) (l : Nat) (r : Link) : (s.setLink l r).applied = s.applied := rfl
@[simp] theorem State.setLink_linkSeqs (s : State) (l : Nat) (r : Link) : (s.setLink l r).linkSeqs = s.linkSeqs := rfl
@[simp] theorem State.setLink_power (s : State) (l : Nat) (r : Link) : (s.setLink l r).power = s.power := rfl
@[simp] theorem State.setLink_fences (s : State) (l : Nat) (r : Link) : (s.setLink l r).fences = s.fences := rfl
@[simp] theorem State.setLink_retired (s : State) (l : Nat) (r : Link) : (s.setLink l r).retired = s.retired := rfl
@[simp] theorem State.setLink_pcieErrors (s : State) (l : Nat) (r : Link) : (s.setLink l r).pcieErrors = s.pcieErrors := rfl
@[simp] theorem State.setLink_nextEng (s : State) (l : Nat) (r : Link) : (s.setLink l r).nextEng = s.nextEng := rfl
@[simp] theorem State.setLink_cur (s : State) (l : Nat) (r : Link) : (s.setLink l r).cur = s.cur := rfl
@[simp] theorem State.setLink_mode (s : State) (l : Nat) (r : Link) : (s.setLink l r).mode = s.mode := rfl
@[simp] theorem State.setLink_defer (s : State) (l : Nat) (r : Link) : (s.setLink l r).defer = s.defer := rfl
@[simp] theorem State.setLink_iw (s : State) (l : Nat) (r : Link) : (s.setLink l r).iw = s.iw := rfl
@[simp] theorem State.setLink_agenda (s : State) (l : Nat) (r : Link) : (s.setLink l r).agenda = s.agenda := rfl
@[simp] theorem State.setLink_free (s : State) (l : Nat) (r : Link) : (s.setLink l r).free = s.free := rfl

/-! ### Fields after `wrN` -/

@[simp] theorem State.wrN_agents (s : State) (key n v : Nat) : (s.wrN key n v).agents = s.agents := rfl
@[simp] theorem State.wrN_progs (s : State) (key n v : Nat) : (s.wrN key n v).progs = s.progs := rfl
@[simp] theorem State.wrN_spurs (s : State) (key n v : Nat) : (s.wrN key n v).spurs = s.spurs := rfl
@[simp] theorem State.wrN_turns (s : State) (key n v : Nat) : (s.wrN key n v).turns = s.turns := rfl
@[simp] theorem State.wrN_dies (s : State) (key n v : Nat) : (s.wrN key n v).dies = s.dies := rfl
@[simp] theorem State.wrN_mem (s : State) (key n v : Nat) : (s.wrN key n v).mem = memSets s.mem (span key n) (leBytes n v) := rfl
@[simp] theorem State.wrN_full (s : State) (key n v : Nat) : (s.wrN key n v).full = s.full := rfl
@[simp] theorem State.wrN_bad (s : State) (key n v : Nat) : (s.wrN key n v).bad = s.bad := rfl
@[simp] theorem State.wrN_roots (s : State) (key n v : Nat) : (s.wrN key n v).roots = s.roots := rfl
@[simp] theorem State.wrN_tlb (s : State) (key n v : Nat) : (s.wrN key n v).tlb = s.tlb := rfl
@[simp] theorem State.wrN_homes (s : State) (key n v : Nat) : (s.wrN key n v).homes = s.homes := rfl
@[simp] theorem State.wrN_lookups (s : State) (key n v : Nat) : (s.wrN key n v).lookups = s.lookups := rfl
@[simp] theorem State.wrN_forwards (s : State) (key n v : Nat) : (s.wrN key n v).forwards = s.forwards := rfl
@[simp] theorem State.wrN_l1 (s : State) (key n v : Nat) : (s.wrN key n v).l1 = s.l1 := rfl
@[simp] theorem State.wrN_owned (s : State) (key n v : Nat) : (s.wrN key n v).owned = s.owned := rfl
@[simp] theorem State.wrN_claims (s : State) (key n v : Nat) : (s.wrN key n v).claims = s.claims := rfl
@[simp] theorem State.wrN_granted (s : State) (key n v : Nat) : (s.wrN key n v).granted = s.granted := rfl
@[simp] theorem State.wrN_feWait (s : State) (key n v : Nat) : (s.wrN key n v).feWait = s.feWait := rfl
@[simp] theorem State.wrN_ports (s : State) (key n v : Nat) : (s.wrN key n v).ports = s.ports := rfl
@[simp] theorem State.wrN_node (s : State) (key n v : Nat) : (s.wrN key n v).node = s.node := rfl
@[simp] theorem State.wrN_writes (s : State) (key n v : Nat) : (s.wrN key n v).writes = s.writes := rfl
@[simp] theorem State.wrN_moves (s : State) (key n v : Nat) : (s.wrN key n v).moves = s.moves := rfl
@[simp] theorem State.wrN_saved (s : State) (key n v : Nat) : (s.wrN key n v).saved = s.saved := rfl
@[simp] theorem State.wrN_queues (s : State) (key n v : Nat) : (s.wrN key n v).queues = s.queues := rfl
@[simp] theorem State.wrN_mailbox (s : State) (key n v : Nat) : (s.wrN key n v).mailbox = s.mailbox := rfl
@[simp] theorem State.wrN_msix (s : State) (key n v : Nat) : (s.wrN key n v).msix = s.msix := rfl
@[simp] theorem State.wrN_hostData (s : State) (key n v : Nat) : (s.wrN key n v).hostData = s.hostData := rfl
@[simp] theorem State.wrN_fw (s : State) (key n v : Nat) : (s.wrN key n v).fw = s.fw := rfl
@[simp] theorem State.wrN_links (s : State) (key n v : Nat) : (s.wrN key n v).links = s.links := rfl
@[simp] theorem State.wrN_applied (s : State) (key n v : Nat) : (s.wrN key n v).applied = s.applied := rfl
@[simp] theorem State.wrN_linkSeqs (s : State) (key n v : Nat) : (s.wrN key n v).linkSeqs = s.linkSeqs := rfl
@[simp] theorem State.wrN_power (s : State) (key n v : Nat) : (s.wrN key n v).power = s.power := rfl
@[simp] theorem State.wrN_fences (s : State) (key n v : Nat) : (s.wrN key n v).fences = s.fences := rfl
@[simp] theorem State.wrN_retired (s : State) (key n v : Nat) : (s.wrN key n v).retired = s.retired := rfl
@[simp] theorem State.wrN_pcieErrors (s : State) (key n v : Nat) : (s.wrN key n v).pcieErrors = s.pcieErrors := rfl
@[simp] theorem State.wrN_nextEng (s : State) (key n v : Nat) : (s.wrN key n v).nextEng = s.nextEng := rfl
@[simp] theorem State.wrN_cur (s : State) (key n v : Nat) : (s.wrN key n v).cur = s.cur := rfl
@[simp] theorem State.wrN_mode (s : State) (key n v : Nat) : (s.wrN key n v).mode = s.mode := rfl
@[simp] theorem State.wrN_defer (s : State) (key n v : Nat) : (s.wrN key n v).defer = s.defer := rfl
@[simp] theorem State.wrN_iw (s : State) (key n v : Nat) : (s.wrN key n v).iw = s.iw := rfl
@[simp] theorem State.wrN_agenda (s : State) (key n v : Nat) : (s.wrN key n v).agenda = s.agenda := rfl
@[simp] theorem State.wrN_free (s : State) (key n v : Nat) : (s.wrN key n v).free = s.free := rfl

/-! ### A record read after it is replaced -/

@[simp] theorem State.agent_setAgent_self (s : State) (a : AgentId) (r : Agent) : (s.setAgent a r).agent a = r := tabGet_tabSet_self ..
theorem State.agent_setAgent (s : State) (a : AgentId) (r : Agent) (b : AgentId) :
    (s.setAgent a r).agent b = if a = b then r else s.agent b := tabGet_tabSet ..
theorem State.agent_setAgent_of_ne (s : State) (a : AgentId) (r : Agent) (b : AgentId) (h : b ≠ a) : (s.setAgent a r).agent b = s.agent b :=
  tabGet_tabSet_of_ne _ _ _ _ _ h
@[simp] theorem State.prog_setAgent (s : State) (a : AgentId) (r : Agent) (x : Nat × Nat) : (s.setAgent a r).prog x = s.prog x := rfl
@[simp] theorem State.die_setAgent (s : State) (a : AgentId) (r : Agent) (x : Nat) : (s.setAgent a r).die x = s.die x := rfl
@[simp] theorem State.queue_setAgent (s : State) (a : AgentId) (r : Agent) (x : Nat × Nat) : (s.setAgent a r).queue x = s.queue x := rfl
@[simp] theorem State.link_setAgent (s : State) (a : AgentId) (r : Agent) (x : Nat) : (s.setAgent a r).link x = s.link x := rfl
@[simp] theorem State.spur_setAgent (s : State) (a : AgentId) (r : Agent) (x : Nat × Nat) : (s.setAgent a r).spur x = s.spur x := rfl
@[simp] theorem State.prog_setProg_self (s : State) (k : Nat × Nat) (p : Prog) : (s.setProg k p).prog k = p := tabGet_tabSet_self ..
theorem State.prog_setProg (s : State) (k : Nat × Nat) (p : Prog) (b : Nat × Nat) :
    (s.setProg k p).prog b = if k = b then p else s.prog b := tabGet_tabSet ..
theorem State.prog_setProg_of_ne (s : State) (k : Nat × Nat) (p : Prog) (b : Nat × Nat) (h : b ≠ k) : (s.setProg k p).prog b = s.prog b :=
  tabGet_tabSet_of_ne _ _ _ _ _ h
@[simp] theorem State.agent_setProg (s : State) (k : Nat × Nat) (p : Prog) (x : AgentId) : (s.setProg k p).agent x = s.agent x := rfl
@[simp] theorem State.die_setProg (s : State) (k : Nat × Nat) (p : Prog) (x : Nat) : (s.setProg k p).die x = s.die x := rfl
@[simp] theorem State.queue_setProg (s : State) (k : Nat × Nat) (p : Prog) (x : Nat × Nat) : (s.setProg k p).queue x = s.queue x := rfl
@[simp] theorem State.link_setProg (s : State) (k : Nat × Nat) (p : Prog) (x : Nat) : (s.setProg k p).link x = s.link x := rfl
@[simp] theorem State.spur_setProg (s : State) (k : Nat × Nat) (p : Prog) (x : Nat × Nat) : (s.setProg k p).spur x = s.spur x := rfl
@[simp] theorem State.die_setDie_self (s : State) (k : Nat) (p : Die) : (s.setDie k p).die k = p := tabGet_tabSet_self ..
theorem State.die_setDie (s : State) (k : Nat) (p : Die) (b : Nat) :
    (s.setDie k p).die b = if k = b then p else s.die b := tabGet_tabSet ..
theorem State.die_setDie_of_ne (s : State) (k : Nat) (p : Die) (b : Nat) (h : b ≠ k) : (s.setDie k p).die b = s.die b :=
  tabGet_tabSet_of_ne _ _ _ _ _ h
@[simp] theorem State.agent_setDie (s : State) (k : Nat) (p : Die) (x : AgentId) : (s.setDie k p).agent x = s.agent x := rfl
@[simp] theorem State.prog_setDie (s : State) (k : Nat) (p : Die) (x : Nat × Nat) : (s.setDie k p).prog x = s.prog x := rfl
@[simp] theorem State.queue_setDie (s : State) (k : Nat) (p : Die) (x : Nat × Nat) : (s.setDie k p).queue x = s.queue x := rfl
@[simp] theorem State.link_setDie (s : State) (k : Nat) (p : Die) (x : Nat) : (s.setDie k p).link x = s.link x := rfl
@[simp] theorem State.spur_setDie (s : State) (k : Nat) (p : Die) (x : Nat × Nat) : (s.setDie k p).spur x = s.spur x := rfl
@[simp] theorem State.queue_setQueue_self (s : State) (k : Nat × Nat) (p : Queue) : (s.setQueue k p).queue k = p := tabGet_tabSet_self ..
theorem State.queue_setQueue (s : State) (k : Nat × Nat) (p : Queue) (b : Nat × Nat) :
    (s.setQueue k p).queue b = if k = b then p else s.queue b := tabGet_tabSet ..
theorem State.queue_setQueue_of_ne (s : State) (k : Nat × Nat) (p : Queue) (b : Nat × Nat) (h : b ≠ k) : (s.setQueue k p).queue b = s.queue b :=
  tabGet_tabSet_of_ne _ _ _ _ _ h
@[simp] theorem State.agent_setQueue (s : State) (k : Nat × Nat) (p : Queue) (x : AgentId) : (s.setQueue k p).agent x = s.agent x := rfl
@[simp] theorem State.prog_setQueue (s : State) (k : Nat × Nat) (p : Queue) (x : Nat × Nat) : (s.setQueue k p).prog x = s.prog x := rfl
@[simp] theorem State.die_setQueue (s : State) (k : Nat × Nat) (p : Queue) (x : Nat) : (s.setQueue k p).die x = s.die x := rfl
@[simp] theorem State.link_setQueue (s : State) (k : Nat × Nat) (p : Queue) (x : Nat) : (s.setQueue k p).link x = s.link x := rfl
@[simp] theorem State.spur_setQueue (s : State) (k : Nat × Nat) (p : Queue) (x : Nat × Nat) : (s.setQueue k p).spur x = s.spur x := rfl
@[simp] theorem State.link_setLink_self (s : State) (k : Nat) (p : Link) : (s.setLink k p).link k = p := tabGet_tabSet_self ..
theorem State.link_setLink (s : State) (k : Nat) (p : Link) (b : Nat) :
    (s.setLink k p).link b = if k = b then p else s.link b := tabGet_tabSet ..
theorem State.link_setLink_of_ne (s : State) (k : Nat) (p : Link) (b : Nat) (h : b ≠ k) : (s.setLink k p).link b = s.link b :=
  tabGet_tabSet_of_ne _ _ _ _ _ h
@[simp] theorem State.agent_setLink (s : State) (k : Nat) (p : Link) (x : AgentId) : (s.setLink k p).agent x = s.agent x := rfl
@[simp] theorem State.prog_setLink (s : State) (k : Nat) (p : Link) (x : Nat × Nat) : (s.setLink k p).prog x = s.prog x := rfl
@[simp] theorem State.die_setLink (s : State) (k : Nat) (p : Link) (x : Nat) : (s.setLink k p).die x = s.die x := rfl
@[simp] theorem State.queue_setLink (s : State) (k : Nat) (p : Link) (x : Nat × Nat) : (s.setLink k p).queue x = s.queue x := rfl
@[simp] theorem State.spur_setLink (s : State) (k : Nat) (p : Link) (x : Nat × Nat) : (s.setLink k p).spur x = s.spur x := rfl
@[simp] theorem State.spur_setSpur_self (s : State) (k : Nat × Nat) (p : Spur) : (s.setSpur k p).spur k = (s.spur k).noteHwm p := tabGet_tabSet_self ..
theorem State.spur_setSpur (s : State) (k : Nat × Nat) (p : Spur) (b : Nat × Nat) :
    (s.setSpur k p).spur b = if k = b then (s.spur k).noteHwm p else s.spur b := tabGet_tabSet ..
theorem State.spur_setSpur_of_ne (s : State) (k : Nat × Nat) (p : Spur) (b : Nat × Nat) (h : b ≠ k) : (s.setSpur k p).spur b = s.spur b :=
  tabGet_tabSet_of_ne _ _ _ _ _ h
@[simp] theorem State.agent_setSpur (s : State) (k : Nat × Nat) (p : Spur) (x : AgentId) : (s.setSpur k p).agent x = s.agent x := rfl
@[simp] theorem State.prog_setSpur (s : State) (k : Nat × Nat) (p : Spur) (x : Nat × Nat) : (s.setSpur k p).prog x = s.prog x := rfl
@[simp] theorem State.die_setSpur (s : State) (k : Nat × Nat) (p : Spur) (x : Nat) : (s.setSpur k p).die x = s.die x := rfl
@[simp] theorem State.queue_setSpur (s : State) (k : Nat × Nat) (p : Spur) (x : Nat × Nat) : (s.setSpur k p).queue x = s.queue x := rfl
@[simp] theorem State.link_setSpur (s : State) (k : Nat × Nat) (p : Spur) (x : Nat) : (s.setSpur k p).link x = s.link x := rfl

/-! ### The executing agent -/

@[simp] theorem State.me_setMe (s : State) (r : Agent) : (s.setMe r).me = r := State.agent_setAgent_self ..
@[simp] theorem State.ctx_setMe (s : State) (r : Agent) : (s.setMe r).ctx = r.ctx := congrArg Agent.ctx (s.me_setMe r)
@[simp] theorem State.ctx_setCtx (s : State) (c : Ctx) : (s.setCtx c).ctx = c := congrArg Agent.ctx (s.me_setMe _)
@[simp] theorem State.me_setCtx (s : State) (c : Ctx) : (s.setCtx c).me = { s.me with ctx := c } := State.me_setMe ..
@[simp] theorem State.setMe_setMe (s : State) (a b : Agent) : (s.setMe a).setMe b = s.setMe b := by
  simp [State.setMe, State.setAgent]
@[simp] theorem State.setCtx_setCtx (s : State) (a b : Ctx) : (s.setCtx a).setCtx b = s.setCtx b := by
  rw [State.setCtx, State.me_setCtx, State.setCtx, State.setMe_setMe]; rfl
@[simp] theorem State.setCtx_setMe (s : State) (a : Agent) (c : Ctx) :
    (s.setMe a).setCtx c = s.setMe { a with ctx := c } := by
  rw [State.setCtx, State.me_setMe, State.setMe_setMe]
@[simp] theorem State.setMe_setCtx (s : State) (c : Ctx) (a : Agent) : (s.setCtx c).setMe a = s.setMe a := by
  rw [State.setCtx, State.setMe_setMe]

end Sys2Proof.Machine
end

