-- ==== Sys2Proof/Laws/Registers.lean ====
section
/-! SUPPORT. What reading a register gives after a register is written (02_encoding.md R26 to R29, 04_scalar_vector.md
R95). -/

namespace Sys2Proof.Machine

@[simp] theorem Ctx.rs_zero (c : Ctx) : c.rs 0 = 0 := rfl

@[simp] theorem Ctx.ws_zero (c : Ctx) (v : Word) (t : Bool) : c.ws 0 v t = c := rfl

/-- A register written reads what was written, but s0, which reads zero. -/
theorem Ctx.rs_ws (c : Ctx) (n m : Nat) (v : Word) (t : Bool) :
    (c.ws n v t).rs m = if n = m then (if n = 0 then 0 else v) else c.rs m := by
  by_cases hn : n = 0
  · subst hn
    by_cases hm : 0 = m
    · subst hm; simp
    · simp [hm]
  · by_cases hm : m = 0
    · subst hm; simp [hn]
    · simp [Ctx.ws, Ctx.rs, hn, hm, tabGet_tabSet]

theorem Ctx.rs_ws_self (c : Ctx) (n : Nat) (v : Word) (t : Bool) (h : n ≠ 0) : (c.ws n v t).rs n = v := by
  simp [Ctx.rs_ws, h]

theorem Ctx.rs_ws_of_ne (c : Ctx) (n m : Nat) (v : Word) (t : Bool) (h : m ≠ n) : (c.ws n v t).rs m = c.rs m := by
  simp [Ctx.rs_ws, Ne.symm h]

/-- A scalar write changes the registers, their taint and their poison alone. -/
theorem Ctx.ws_eq (c : Ctx) (n : Nat) (v : Word) (t : Bool) :
    c.ws n v t = { c with regs := (c.ws n v t).regs, taint := (c.ws n v t).taint, poison := (c.ws n v t).poison } := by
  unfold Ctx.ws; split <;> rfl

@[simp] theorem Ctx.wv_zero (c : Ctx) (v : BitVec 128) : c.wv 0 v = c := rfl

/-- A vector write leaves the scalar registers beyond its pair. -/
theorem Ctx.rs_wv_of_ne (c : Ctx) (n m : Nat) (v : BitVec 128) (h : m ≠ 2 * n) (h' : m ≠ 2 * n + 1) :
    (c.wv n v).rs m = c.rs m := by
  unfold Ctx.wv; split
  · rfl
  · rw [Ctx.rs_ws_of_ne _ _ _ _ _ h', Ctx.rs_ws_of_ne _ _ _ _ _ h]

theorem Ctx.rv_wv_self (c : Ctx) (n : Nat) (v : BitVec 128) (h : n ≠ 0) : (c.wv n v).rv n = v := by
  unfold Ctx.wv Ctx.rv
  simp only [h, if_false]
  rw [Ctx.rs_ws_of_ne _ _ (2 * n) _ _ (by omega), Ctx.rs_ws_self _ _ _ _ (by omega), Ctx.rs_ws_self _ _ _ _ (by omega)]
  ext i hi
  simp only [BitVec.getElem_append, BitVec.getElem_extractLsb']
  split
  · simp [BitVec.getLsbD_eq_getElem hi]
  · simp only [show 64 + (i - 64) = i by omega, BitVec.getLsbD_eq_getElem hi]

/-- A vector write changes the registers, their taint and their poison alone. -/
theorem Ctx.wv_eq (c : Ctx) (n : Nat) (v : BitVec 128) :
    c.wv n v = { c with regs := (c.wv n v).regs, taint := (c.wv n v).taint, poison := (c.wv n v).poison } := by
  unfold Ctx.wv; split
  · rfl
  · rw [Ctx.ws_eq, Ctx.ws_eq]

@[simp] theorem Ctx.q_zero (c : Ctx) : c.q 0 = true := rfl
@[simp] theorem Ctx.wq_zero (c : Ctx) (b : Bool) : c.wq 0 b = c := rfl

/-- A predicate write changes the predicates alone. -/
theorem Ctx.wq_eq (c : Ctx) (n : Nat) (b : Bool) : c.wq n b = { c with preds := (c.wq n b).preds } := by
  unfold Ctx.wq; split <;> rfl

/-- A predicate written reads what was written, but q0, which reads true. -/
theorem Ctx.q_wq (c : Ctx) (n m : Nat) (b : Bool) (hn : n < 8) (hm : m < 8) :
    (c.wq n b).q m = if n = m then (n = 0 || b) else c.q m := by
  by_cases h0 : n = 0
  · subst h0
    by_cases h : 0 = m
    · subst h; rfl
    · simp [h]
  · by_cases hm0 : m = 0
    · subst hm0; simp [h0]
    · by_cases hnm : n = m
      · subst hnm
        cases b <;> simp [Ctx.wq, Ctx.q, h0, hn]
      · have : ¬ (m - n = 0 ∧ n ≤ m) := by omega
        cases b <;> simp [Ctx.wq, Ctx.q, h0, hm0, hnm, hm] <;> omega

end Sys2Proof.Machine
end

