-- ==== Sys2Proof/Laws/Instr.lean ====
section
/-! SUPPORT. What the operations that every instruction shares can do: the checks before it (R44, R54), its effect as one
step, its end. -/

namespace Sys2Proof.Machine

/-! ### Running a part of an effect -/

@[simp] theorem run_gets {α : Type} (f : State → α) (s : State) : (gets f).run s = .ok (f s, s) := rfl
@[simp] theorem run_mods (f : State → State) (s : State) : (mods f).run s = .ok ((), f s) := rfl
@[simp] theorem run_rdS (n : Nat) (s : State) : (rdS n).run s = .ok (s.ctx.rs n, s) := rfl
@[simp] theorem run_rdV (n : Nat) (s : State) : (rdV n).run s = .ok (s.ctx.rv n, s) := rfl
@[simp] theorem run_rdQ (n : Nat) (s : State) : (rdQ n).run s = .ok (s.ctx.q n, s) := rfl
@[simp] theorem run_wrS (n : Nat) (v : Word) (s : State) :
    (wrS n v).run s = .ok ((), s.setCtx (s.ctx.ws n v false)) := rfl
@[simp] theorem run_wrT (n : Nat) (v : Word) (t : Bool) (s : State) :
    (wrT n v t).run s = .ok ((), s.setCtx (s.ctx.ws n v t)) := rfl
@[simp] theorem run_wrV (n : Nat) (v : BitVec 128) (s : State) :
    (wrV n v).run s = .ok ((), s.setCtx (s.ctx.wv n v)) := rfl
@[simp] theorem run_wrQ (n : Nat) (b : Bool) (s : State) :
    (wrQ n b).run s = .ok ((), s.setCtx (s.ctx.wq n b)) := rfl
@[simp] theorem run_trap {α : Type} (c : Nat) (v : Word) (s : State) :
    (trap c v : Act α).run s = .error (.trap ⟨c, v⟩) := rfl
@[simp] theorem run_throw {α : Type} (e : Stop) (s : State) : (throw e : Act α).run s = .error e := rfl
@[simp] theorem run_get (s : State) : (get : Act State).run s = .ok (s, s) := rfl
@[simp] theorem run_set (t s : State) : (set t : Act Unit).run s = .ok ((), t) := rfl
@[simp] theorem run_pure {α : Type} (x : α) (s : State) : (pure x : Act α).run s = .ok (x, s) := rfl

@[simp] theorem pure_ok {α : Type} (x : α) : (pure x : Except Stop α) = .ok x := rfl
@[simp] theorem map_ok {α β : Type} (x : α) (f : α → β) : f <$> (Except.ok x : Except Stop α) = .ok (f x) := rfl
@[simp] theorem map_error {α β : Type} (e : Stop) (f : α → β) : f <$> (Except.error e : Except Stop α) = .error e := rfl
@[simp] theorem ok_bind {α β : Type} (x : α) (f : α → Except Stop β) : (Except.ok x >>= f) = f x := rfl
@[simp] theorem error_bind {α β : Type} (e : Stop) (f : α → Except Stop β) : (Except.error e >>= f) = .error e := rfl

/-- A part after another runs from the state that one leaves, or not at all. -/
theorem run_bind {α β : Type} (m : Act α) (f : α → Act β) (s : State) :
    (m >>= f).run s = match m.run s with
      | .ok (x, t) => (f x).run t
      | .error e => .error e := by
  show (do let (x, t) ← m.run s; (f x).run t) = _
  cases m.run s <;> rfl

theorem run_trapIf_false (c : Nat) (v : Word) (s : State) : (trapIf false c v).run s = .ok ((), s) := rfl
theorem run_trapIf_true (c : Nat) (v : Word) (s : State) : (trapIf true c v).run s = .error (.trap ⟨c, v⟩) := rfl
@[simp] theorem run_trapIf (b : Bool) (c : Nat) (v : Word) (s : State) :
    (trapIf b c v).run s = if b then .error (.trap ⟨c, v⟩) else .ok ((), s) := by cases b <;> rfl

/-! ### Floating-point flags -/

/-- Raising flags: FPE when one is enabled, else they are in FCSR (R79, R80). -/
theorem run_raiseFlags (fl : Flags) (s : State) : (raiseFlags fl).run s =
    if fl &&& fcsrEnables s.ctx.fcsr = 0 then .ok ((), s.setCtx { s.ctx with fcsr := fcsrRaise s.ctx.fcsr fl })
    else .error (.trap ⟨cFPE, fl.zeroExtend 64⟩) := by
  simp only [raiseFlags, StateT.run_bind, run_get, ok_bind, run_trapIf]
  by_cases h : fl &&& fcsrEnables s.ctx.fcsr = 0
  · simp [h]
  · simp only [ne_eq, h, not_false_eq_true, decide_true, if_true, if_false]; rfl

/-- SRSEED after an instruction in a mode (R76). -/
theorem run_bumpSeed (v : FEnv) (s : State) : (bumpSeed v).run s =
    .ok ((), if v.rm = 5 then s.setCtx { s.ctx with srseed := advanceSeed s.ctx.srseed } else s) := by
  unfold bumpSeed
  by_cases h : v.rm = 5 <;> simp [h]

/-! ### The checks -/

/-- An instruction that is ready may execute where it stands, with registers that exist (R54). -/
theorem Ready.placeCheck {w : Where} {os : List Opd} {s : State} (h : Ready w os s) : placeCheck w os s = none := by
  have hp : whereTrap w s.cur s.iw = none := by
    have := h.place
    cases w <;> cases hc : s.cur <;> simp_all [Where.allows, whereTrap, isSlot, isMaster, isService]
  have hg : os.any Opd.badGroup = false := by simpa using h.groups
  have hw : ¬ (isSlot s.cur = true ∧ os.any Opd.writesG = true) := by
    rintro ⟨hs, ho⟩
    obtain ⟨o, ho, hg⟩ := List.any_eq_true.mp ho
    simp [h.own hs o ho] at hg
  have hb : (if isSlot s.cur = true then (beyondWindow s.ctx.window os).map fun n => (⟨cREGWIN, BitVec.ofNat 64 n⟩ : Trap) else none) =
      none := by
    split
    · rename_i hs
      rw [Option.map_eq_none_iff]
      simp only [beyondWindow, List.find?_eq_none, List.mem_flatMap, Bool.and_eq_true, decide_eq_true_eq]
      rintro n ⟨o, ho, hn⟩ ⟨h96, hw⟩
      exact absurd (h.window hs o ho n hn h96) (by omega)
    · rfl
  unfold Machine.placeCheck
  rw [hp, hg, if_neg (by simp), if_neg (by simpa using hw), hb]

/-- An instruction that is ready passes all the checks of R54 before its effect. -/
theorem Ready.precheck {w : Where} {os : List Opd} {s : State} (h : Ready w os s) : precheck w os s = none := by
  have hv : ¬ (isSlot s.cur = true ∧ os.any Opd.groupG = true) := by
    rintro ⟨hs, ho⟩
    obtain ⟨o, ho, hg⟩ := List.any_eq_true.mp ho
    simp [h.own hs o ho] at hg
  have hq : (os.flatMap Opd.reads).find? (fun n => s.ctx.poison.contains n) = none := by
    simp only [List.find?_eq_none, List.mem_flatMap, List.contains_iff_mem]
    rintro n ⟨o, ho, hn⟩
    exact h.sound o ho n hn
  unfold Machine.precheck
  rw [h.placeCheck]
  simp only [sourceCheck]
  rw [if_neg hv, hq]
  rfl

/-- No Ridge result is on its way to an operand of an instruction that is ready. -/
theorem Ready.ridge {w : Where} {os : List Opd} {s : State} (h : Ready w os s) : ridgeBusy s os = false := by
  simp only [ridgeBusy, List.any_eq_false, List.contains_iff_mem, List.mem_flatMap, not_exists, not_and]
  intro p hp o ho hn
  exact h.quiet o ho p.1 hn p hp rfl

theorem Ready.ridgeWaits {w : Where} {os : List Opd} {s : State} (h : Ready w os s) : ridgeWaits w os s = false := by
  simp [Machine.ridgeWaits, h.ridge]

/-- An instruction that is ready has its effect. -/
theorem runInstr_ready {w : Where} {os : List Opd} {s : State} (h : Ready w os s) (body : Act Fin) :
    runInstr w os body s = .next (settle s (body.run s)) := by
  simp [runInstr, h.precheck, h.ridgeWaits]

/-- Everything an instruction can do: a trap of the checks, the delivery of a Ridge result, or its effect. -/
theorem runInstr_cases (w : Where) (os : List Opd) (body : Act Fin) (s : State) :
    (∃ t, runInstr w os body s = .next (takeTrap s t)) ∨ runInstr w os body s = .next (deliverRidge s) ∨
      runInstr w os body s = .next (settle s (body.run s)) := by
  unfold runInstr
  split
  · exact .inr (.inl rfl)
  · split
    · exact .inl ⟨_, rfl⟩
    · exact .inr (.inr rfl)

/-- An instruction always answers a next state. -/
theorem runInstr_next (w : Where) (os : List Opd) (body : Act Fin) (s : State) : ∃ t, runInstr w os body s = .next t := by
  obtain ⟨t, h⟩ | h | h := runInstr_cases w os body s <;> exact ⟨_, h⟩

@[simp] theorem settle_adv (s t : State) : settle s (.ok (.adv, t)) = retire t := rfl
@[simp] theorem settle_jump (s t : State) (pc : Word) : settle s (.ok (.jump pc, t)) = retireTo t pc := rfl
@[simp] theorem settle_hold (s t : State) : settle s (.ok (.hold, t)) = t := rfl
@[simp] theorem settle_trap (s : State) (t : Trap) : settle s (.error (.trap t)) = takeTrap s t := rfl
@[simp] theorem settle_page (s : State) (va acc : Nat) (h : Bool) :
    settle s (.error (.page va acc h)) = waitPage s va acc h := rfl
@[simp] theorem settle_stall (s : State) : settle s (.error .stall) = s := rfl

/-- A masked vector instruction whose predicate is true runs as any other (R123). -/
theorem runMasked_true {m : Nat} {os : List Opd} {s : State} (h : s.ctx.q m = true) (body : Act Fin) :
    runMasked m os body s = runInstr .tm os body s := by simp [runMasked, h]

end Sys2Proof.Machine
end

