-- ==== Sys2Proof/Laws/Translation.lean ====
section
/-! SUPPORT. What a translation gives where a TLB holds the page (13_translation.md R342, R343), and the word a fetch gives then. -/

namespace Sys2Proof.Machine

/-- A translation that hits a TLB entry with every permission gives it, and leaves the state. -/
theorem transFor_hit {d : Nat} {p : Option Nat} {asid : Nat} {sp : Bool} {nd : Need} {va : Nat} {s : State} {t : TlbEntry} {key : Nat}
    (h48 : va < 2 ^ 48) (hf : tlbFind s d p asid va = some t) (hk : key = leafKey t.entry t.size va)
    (hp : permits nd t.entry = true) (hw : (nd.writes && pteRoSpawn t.entry && sp) = false)
    (hr : nd.deferred = true ∨ s.reach (homeOf t.entry key) = true) :
    (transFor d p asid sp nd va).run s = .ok ((t.entry, key), s) := by
  subst hk
  have hl : (leafOf d p asid va nd.acc).run s = .ok ((t.entry, t.size), s) := by
    unfold leafOf
    rw [if_neg (by omega)]
    simp only [StateT.run_bind, run_pure, ok_bind, run_get, hf]
  unfold transFor
  rw [run_bind, hl]
  simp only [hp, hw, StateT.run_bind, run_trapIf, Bool.not_true, Bool.false_eq_true, if_false, ok_bind, run_get, run_pure]
  rcases hr with hr | hr <;> simp [hr]

/-- The same for an access of the executing agent. -/
theorem transE_hit {nd : Need} {va e key : Nat} {s : State} (h : Hits nd va s e key) :
    (transE nd va).run s = .ok ((e, key), s) := by
  obtain ⟨hs, h48, ⟨t, ht, rfl, hk⟩, hp, hw, hr⟩ := h
  unfold transE
  simp only [StateT.run_bind, run_get, ok_bind, hs, Bool.false_eq_true, if_false]
  exact transFor_hit h48 ht hk hp hw hr

theorem trans_hit {nd : Need} {va e key : Nat} {s : State} (h : Hits nd va s e key) :
    (trans nd va).run s = .ok (key, s) := by
  unfold trans
  simp only [StateT.run_bind, transE_hit h, ok_bind, run_pure]

/-- The translation of n bytes that all hit. -/
theorem mapM_transE_hits {nd : Need} {s : State} : ∀ (n va : Nat) (es : List (Nat × Nat)), es.length = n →
    (∀ i e, es[i]? = some e → Hits nd ((va + i) % 2 ^ 56) s e.1 e.2) →
    ((span va n).mapM fun a => transE nd (a % 2 ^ 56)).run s = .ok (es, s)
  | 0, _, es, hl, _ => by
    obtain rfl := List.eq_nil_of_length_eq_zero hl
    simp only [span, List.mapM_nil, run_pure]
  | n + 1, va, es, hl, h => by
    match es, hl with
    | e :: es, hl =>
      have h0 := transE_hit (h 0 e rfl)
      have ih := mapM_transE_hits n (va + 1) es (by simpa using hl) fun i x hx => by
        have := h (i + 1) x (by simpa using hx)
        rwa [show va + (i + 1) = va + 1 + i by omega] at this
      simp only [Nat.add_zero] at h0
      simp only [span, List.mapM_cons, StateT.run_bind, h0, ok_bind, ih, run_pure]

theorem transBytes_hits {nd : Need} {s : State} : ∀ (n va : Nat) (es : List (Nat × Nat)), es.length = n →
    (∀ i e, es[i]? = some e → Hits nd ((va + i) % 2 ^ 56) s e.1 e.2) →
    (transBytes nd va n).run s = .ok (es.map (·.2), s)
  | 0, _, es, hl, _ => by
    obtain rfl := List.eq_nil_of_length_eq_zero hl
    simp only [transBytes, span, List.mapM_nil, run_pure, List.map_nil]
  | n + 1, va, es, hl, h => by
    match es, hl with
    | e :: es, hl =>
      have h0 := trans_hit (h 0 e rfl)
      have ih := transBytes_hits n (va + 1) es (by simpa using hl) fun i x hx => by
        have := h (i + 1) x (by simpa using hx)
        rwa [show va + (i + 1) = va + 1 + i by omega] at this
      unfold transBytes at ih ⊢
      simp only [Nat.add_zero] at h0
      simp only [span, List.mapM_cons, StateT.run_bind, h0, ok_bind, ih, run_pure, List.map_cons]

/-- Bytes that all hit are translated, and again from there. -/
theorem Translated.of_hits {nd : Need} {va n : Nat} {s : State} {es : List (Nat × Nat)} (hl : es.length = n)
    (h : ∀ i e, es[i]? = some e → Hits nd ((va + i) % 2 ^ 56) s e.1 e.2) : Translated nd va n s es s :=
  ⟨mapM_transE_hits n va es hl h, mapM_transE_hits n va es hl h⟩

/-- Reading a word always gives one (R363). -/
theorem readWord_ok (keys : List Nat) (s : State) : ∃ r, (readWord keys).run s = .ok r := by
  unfold readWord
  simp only [StateT.run_bind, run_get, ok_bind]
  split
  · split
    · exact ⟨_, rfl⟩
    · exact ⟨_, rfl⟩
  · exact ⟨_, rfl⟩

/-- Outside a thread it is the word of memory. -/
theorem readWord_memory {s : State} (h : isSlot s.cur = false) (keys : List Nat) :
    (readWord keys).run s = .ok (leNat (memGets s.mem keys), s) := by
  unfold readWord
  simp only [StateT.run_bind, run_get, ok_bind, h, Bool.false_eq_true, if_false, run_pure]

/-- The word a fetch gives where the page is in a TLB, no byte poisoned (R25) and nothing fetched ahead (R363). -/
theorem fetchWord_hits {s : State} {pc : Word} {es : List (Nat × Nat)} (hl : es.length = 4)
    (h : ∀ i e, es[i]? = some e → Hits .fetch ((pc.toNat % 2 ^ 56 + i) % 2 ^ 56) s e.1 e.2)
    (hp : ∀ e ∈ es, s.poisoned e.2 = false) (ha : s.me.ahead = []) :
    (fetchWord pc).run s = (readWord (es.map (·.2))).run s := by
  have hb : (transBytes .fetch (vaOf pc) 4).run s = .ok (es.map (·.2), s) := transBytes_hits 4 _ es hl h
  have hn : (es.map (·.2)).any s.poisoned = false := by
    simp only [List.any_eq_false, List.mem_map]
    rintro _ ⟨e, he, rfl⟩
    simp [hp e he]
  have hk : (fetchKeys (vaOf pc)).run s = .ok (es.map (·.2), s) := by
    unfold fetchKeys
    rw [run_bind, hb]
    simp only [StateT.run_bind, run_get, ok_bind, run_trapIf, hn, Bool.false_eq_true, if_false, run_pure]
  have hf : (fetchAt (vaOf pc)).run s = (readWord (es.map (·.2))).run s := by
    unfold fetchAt
    rw [run_bind, hk]
    simp only [StateT.run_bind, run_get, ok_bind, ha]
  obtain ⟨r, hr⟩ := readWord_ok (es.map (·.2)) s
  show (match (fetchAt (vaOf pc)).run s with
    | .ok r => Except.ok r
    | .error e => _) = _
  rw [hf, hr]

/-! ### The part's own accesses -/

/-- What an access may change of the state that keeps caches and counts: the L1s, the write counters, the marks of trees and sessions
(R179, R206, R213, R250). -/
theorem touchL1_frame (s : State) (a : AgentId) (stream write : Bool) (keys : List Nat) :
    ∃ l w d v, touchL1 s a stream write keys = { s with l1 := l, writes := w, dies := d, saved := v } := by
  have hf (t : State) (w : Bool) (ls : List Nat) : ∃ l,
      (if isMaster a ∧ stream = false then l1Hold t a w false ls else if isMaster a ∧ w = false then t else l1Recall t ls) =
        { t with l1 := l } := by
    split
    · exact ⟨_, rfl⟩
    · split <;> exact ⟨_, rfl⟩
  unfold touchL1
  cases write
  · obtain ⟨l, h⟩ := hf s false (keys.map (· / 64)).eraseDups
    exact ⟨l, _, _, _, h.trans rfl⟩
  · obtain ⟨l, h⟩ := hf (noteStores (countWrites s (dieOf a) keys) keys) true (keys.map (· / 64)).eraseDups
    exact ⟨l, _, _, _, h.trans rfl⟩

/-- Bytes loaded where a spill area may lie change the count of free values at most (R179). -/
theorem maskSpill_frame (s : State) (keys : List Nat) (bs : List Byte) : ∃ cs n, maskSpill s keys bs = (cs, { s with free := n }) := by
  unfold maskSpill freeWhere takeFree
  split
  · exact ⟨_, _, rfl⟩
  · exact ⟨_, s.free, rfl⟩

/-- Bytes that the part reaches for a program through the die's TLB (R341, R342). -/
theorem partTrans_hits {k : Nat × Nat} {nd : Need} {s : State} : ∀ (n va : Nat) (keys : List Nat), keys.length = n →
    (∀ i key, keys[i]? = some key → ∃ t, (va + i) % 2 ^ 56 < 2 ^ 48 ∧ tlbFind s k.1 none (s.prog k).asid ((va + i) % 2 ^ 56) = some t ∧
      key = leafKey t.entry t.size ((va + i) % 2 ^ 56) ∧ permits nd t.entry = true ∧
      (nd.writes && pteRoSpawn t.entry && (s.prog k).spawning) = false ∧ (nd.deferred = true ∨ s.reach (homeOf t.entry key) = true)) →
    (partTrans k nd va n).run s = .ok (keys, s)
  | 0, _, keys, hl, _ => by
    obtain rfl := List.eq_nil_of_length_eq_zero hl
    simp only [partTrans, span, List.mapM_nil, StateT.run_bind, run_gets, ok_bind, run_pure]
  | n + 1, va, keys, hl, h => by
    match keys, hl with
    | key :: keys, hl =>
      obtain ⟨t, h48, hf, hk, hp, hw, hr⟩ := h 0 key rfl
      have ih := partTrans_hits n (va + 1) keys (by simpa using hl) fun i x hx => by
        have := h (i + 1) x (by simpa using hx)
        rwa [show va + (i + 1) = va + 1 + i by omega] at this
      have h0 := transFor_hit h48 hf hk hp hw hr
      simp only [Nat.add_zero] at h0
      simp only [partTrans, StateT.run_bind, run_gets, ok_bind] at ih
      simp only [partTrans, span, List.mapM_cons, StateT.run_bind, run_gets, h0, ok_bind, ih, run_pure]

/-- A write of the part where its bytes translate, no engine owns one and no word is claimed: it changes those bytes, and what keeps
caches, counts and marks. -/
theorem partWrite_ok {k : Nat × Nat} {va : Nat} {bs : List Byte} {s u : State} {keys : List Nat}
    (h : (partTrans k .write va bs.length).run s = .ok (keys, u)) (ho : keys.any u.ownedLine = false)
    (hc : claimedWord u keys = false) :
    ∃ l w d v, (partWrite k va bs).run s =
      .ok ((), { u with l1 := l, writes := w, dies := d, saved := v, mem := memSets u.mem keys bs }) := by
  obtain ⟨l, w, d, v, ht⟩ := touchL1_frame u (.slot k.1 0 0 0) false true keys
  refine ⟨l, w, d, v, ?_⟩
  simp only [partWrite, awaitOwner, awaitClaims, StateT.run_bind, h, ok_bind, run_get, ho, hc, Bool.false_eq_true, if_false, run_pure,
    run_mods, ht]

end Sys2Proof.Machine
end

