-- ==== Sys2Proof/Laws/Check.lean ====
section
/-! SUPPORT. Checks that compute: for each condition of Safety.lean that a concrete state can be asked about, a test and the lemma
that the test decides it. -/

namespace Sys2Proof.Machine

/-- The conditions of `Ready`, computed. -/
def readyB (w : Where) (os : List Opd) (s : State) : Bool :=
  (match w with
    | .tm => true
    | .t => isSlot s.cur
    | .m => isMaster s.cur
    | .p => isService s.cur) &&
  os.all (fun o => !o.badGroup) &&
  (!isSlot s.cur || (os.all (fun o => !o.writesG && !o.groupG) &&
    os.all fun o => o.regs.all fun n => decide (96 ≤ n) || decide (n < s.ctx.window))) &&
  os.all (fun o => o.reads.all fun n => !s.ctx.poison.contains n) &&
  os.all (fun o => o.regs.all fun n => s.me.ridge.all fun p => p.1 != n)

theorem ready_of {w : Where} {os : List Opd} {s : State} (h : readyB w os s = true) : Ready w os s := by
  simp only [readyB, Bool.and_eq_true, Bool.or_eq_true, List.all_eq_true, Bool.not_eq_true', decide_eq_true_eq] at h
  obtain ⟨⟨⟨⟨hp, hg⟩, ho⟩, hs⟩, hq⟩ := h
  refine ⟨?_, hg, ?_, ?_, ?_, ?_⟩
  · cases w <;> first | trivial | exact hp
  · intro hi o hm
    rcases ho with ho | ho
    · simp [hi] at ho
    · exact ho.1 o hm
  · intro hi o hm n hn h96
    rcases ho with ho | ho
    · simp [hi] at ho
    · rcases ho.2 o hm n hn with h | h
      · omega
      · exact h
  · intro o hm n hn hc
    have := hs o hm n hn
    simp [hc] at this
  · intro o hm n hn p hp
    simpa using hq o hm n hn p hp

theorem forall_getElem_of_zipIdx {α : Type} {p : Nat → α → Prop} {f : Nat → α → Bool} (l : List α)
    (hf : ∀ i x, f i x = true → p i x) (h : l.zipIdx.all (fun x => f x.2 x.1) = true) : ∀ i x, l[i]? = some x → p i x := by
  intro i x hx
  simp only [List.all_eq_true] at h
  exact hf i x (h (x, i) (by rw [List.mem_zipIdx_iff_getElem?]; exact hx))

/-- The conditions of `HitsFor`, computed. -/
def hitsB (spur : Option Nat) (nd : Need) (va : Nat) (s : State) (e key : Nat) : Bool :=
  !isService s.cur && decide (va < 2 ^ 48) &&
  (match tlbFind s (dieOf s.cur) spur s.myProg.asid va with
    | some t => t.entry == e && key == leafKey e t.size va
    | none => false) &&
  permits nd e && !(nd.writes && pteRoSpawn e && s.myProg.spawning) && (nd.deferred || s.reach (homeOf e key))

theorem hitsFor_of {spur : Option Nat} {nd : Need} {va e key : Nat} {s : State} (h : hitsB spur nd va s e key = true) :
    HitsFor spur nd va s e key := by
  simp only [hitsB, Bool.and_eq_true, Bool.or_eq_true, Bool.not_eq_true', decide_eq_true_eq] at h
  obtain ⟨⟨⟨⟨⟨h1, h2⟩, h3⟩, h4⟩, h5⟩, h6⟩ := h
  refine ⟨h1, h2, ?_, h4, h5, h6⟩
  split at h3
  · rename_i t ht
    simp only [Bool.and_eq_true, beq_iff_eq] at h3
    exact ⟨t, ht, h3.1, h3.2⟩
  · simp at h3

/-- Every byte of a list of addresses hits, computed. -/
def hitsAllB (spur : Option Nat) (nd : Need) (va : Nat) (s : State) (es : List (Nat × Nat)) : Bool :=
  es.zipIdx.all fun x => hitsB spur nd ((va + x.2) % 2 ^ 56) s x.1.1 x.1.2

theorem hitsAll_of {spur : Option Nat} {nd : Need} {va : Nat} {s : State} {es : List (Nat × Nat)}
    (h : hitsAllB spur nd va s es = true) : ∀ i e, es[i]? = some e → HitsFor spur nd ((va + i) % 2 ^ 56) s e.1 e.2 :=
  forall_getElem_of_zipIdx (f := fun (i : Nat) (e : Nat × Nat) => hitsB spur nd ((va + i) % 2 ^ 56) s e.1 e.2) es (fun _ _ => hitsFor_of) h

theorem hits_of {nd : Need} {va e key : Nat} {s : State} (h : hitsB (tlbSpur s.cur) nd va s e key = true) :
    Hits nd va s e key := hitsFor_of h

theorem translated_of {nd : Need} {va n : Nat} {s : State} {es : List (Nat × Nat)}
    (h : (es.length == n && hitsAllB (tlbSpur s.cur) nd va s es) = true) : Translated nd va n s es s := by
  simp only [Bool.and_eq_true, beq_iff_eq] at h
  exact .of_hits h.1 (hitsAll_of h.2)

def clearB (s : State) (keys : List Nat) : Bool := keys.all fun k => !s.poisoned k && !s.ownedLine k && !s.spillKey k

theorem clear_of {s : State} {keys : List Nat} (h : clearB s keys = true) : Clear s keys := by
  simpa [clearB, Clear, and_assoc] using h

/-- The conditions of `AtOnce`, computed. -/
def atOnceB (s : State) (es : List (Nat × Nat)) : Bool :=
  clearB s (es.map (·.2)) && s.me.pend.all (fun p => !overlaps p (es.map (·.2))) && !claimedWord s (es.map (·.2)) &&
  es.all (fun e => s.reach (homeOf e.1 e.2)) && !crosses s.cur (es.map fun e => homeOf e.1 e.2).eraseDups && !s.defer

theorem atOnce_of {s : State} {es : List (Nat × Nat)} (h : atOnceB s es = true) : AtOnce s es := by
  simp only [atOnceB, Bool.and_eq_true, Bool.not_eq_true', List.all_eq_true] at h
  obtain ⟨⟨⟨⟨⟨h1, h2⟩, h3⟩, h4⟩, h6⟩, h5⟩ := h
  exact ⟨clear_of h1, h2, h3, h4, fun hc => by simp [h6] at hc, h5⟩

/-- The conditions of `ReadsAs` but for the bytes, computed. -/
def readsB (s : State) (va : Nat) (es : List (Nat × Nat)) : Bool :=
  hitsAllB (tlbSpur s.cur) .read va s es && clearB s (es.map (·.2)) && !redPending s.me (es.map (·.2)) &&
  (!isSlot s.cur || !s.myProg.spawning || es.all fun e => !pteRoSpawn e.1) && (!isMaster s.cur || es.all fun e => !pteStream e.1)

theorem readsAs_of {s : State} {va n : Nat} {bs : List Byte} (es : List (Nat × Nat))
    (h : (es.length == n && readsB s va es && (bs == (es.map (·.2)).map (loadByte s))) = true) : ReadsAs s va n bs := by
  simp only [readsB, Bool.and_eq_true, Bool.or_eq_true, Bool.not_eq_true', beq_iff_eq, List.all_eq_true] at h
  obtain ⟨⟨hl, ⟨⟨⟨h1, h2⟩, h3⟩, h4⟩, h6⟩, h5⟩ := h
  exact ⟨es, hl, hitsAll_of h1, clear_of h2, h3, by simpa [or_assoc] using h4,
    fun hm => h6.resolve_left (by simp [hm]), h5⟩

/-- The conditions of `Sound`, computed. -/
def soundB (s : State) (es : List (Nat × Nat)) : Bool :=
  es.all (fun e => !(pteStream e.1 && staleL1 s [e.2])) && (!isSlot s.cur || (s.spur s.mySpurKey).rdc.all fun x => x.bad == [])

theorem sound_of {s : State} {es : List (Nat × Nat)} (h : soundB s es = true) : Sound s es := by
  simp only [soundB, Bool.and_eq_true, Bool.or_eq_true, Bool.not_eq_true', Bool.and_eq_false_iff, List.all_eq_true, beq_iff_eq] at h
  exact ⟨fun e he hs => (h.1 e he).resolve_left (by simp [hs]), fun hs => h.2.resolve_left (by simp [hs])⟩

theorem sendable_of {s : State} {es : List (Nat × Nat)} (h : crosses s.cur (es.map fun e => homeOf e.1 e.2).eraseDups = false) :
    Sendable s es := fun hc => by simp [h] at hc

theorem storesAt_of {s : State} {va n : Nat} {keys : List Nat} (es : List (Nat × Nat))
    (h : (es.length == n && hitsAllB (tlbSpur s.cur) .write va s es && atOnceB s es && (keys == es.map (·.2))) = true) :
    StoresAt s va n keys := by
  simp only [Bool.and_eq_true, beq_iff_eq] at h
  exact ⟨es, h.1.1.1, hitsAll_of h.1.1.2, atOnce_of h.1.2, h.2⟩

theorem keysFor_of {spur : Option Nat} {nd : Need} {s : State} {va n : Nat} {keys : List Nat} (es : List (Nat × Nat))
    (h : (es.length == n && (keys == es.map (·.2)) && hitsAllB spur nd va s es && es.all fun e => s.reach (homeOf e.1 e.2)) = true) :
    KeysFor spur nd s va n keys := by
  simp only [Bool.and_eq_true, beq_iff_eq, List.all_eq_true] at h
  obtain ⟨⟨⟨h1, h2⟩, h3⟩, h4⟩ := h
  exact ⟨es, h1, h2, fun i e he => ⟨hitsAll_of h3 i e he, h4 e (List.mem_of_getElem? he)⟩⟩

theorem bytesFor_of {spur : Option Nat} {s : State} {va n : Nat} {bs : List Byte} (keys : List Nat) (hk : KeysFor spur .read s va n keys)
    (h : (keys.all (fun k => !s.poisoned k && !s.spillKey k) && (bs == memGets s.mem keys)) = true) : BytesFor spur s va n bs := by
  simp only [Bool.and_eq_true, beq_iff_eq, List.all_eq_true, Bool.not_eq_true'] at h
  exact ⟨keys, hk, h.1, h.2⟩

/-- The conditions of `QueueKeys` on one byte, computed. -/
def queueB (s : State) (d asid : Nat) (nd : Need) (x e key : Nat) : Bool :=
  decide (x < 2 ^ 48) &&
  (match tlbFind s d none asid x with
    | some t => t.entry == e && key == leafKey e t.size x
    | none => false) && permits nd e && s.reach (homeOf e key)

theorem queueKeys_of {s : State} {d asid : Nat} {nd : Need} {va n : Nat} {keys : List Nat} (es : List (Nat × Nat))
    (h : (es.length == n && (keys == es.map (·.2)) &&
      es.zipIdx.all fun x => queueB s d asid nd ((va + x.2) % 2 ^ 56) x.1.1 x.1.2) = true) : QueueKeys s d asid nd va n keys := by
  simp only [Bool.and_eq_true, beq_iff_eq] at h
  refine ⟨es, h.1.1, h.1.2,
    forall_getElem_of_zipIdx (f := fun (i : Nat) (e : Nat × Nat) => queueB s d asid nd ((va + i) % 2 ^ 56) e.1 e.2) es ?_ h.2⟩
  intro i e h
  simp only [queueB, Bool.and_eq_true, decide_eq_true_eq] at h
  obtain ⟨⟨⟨h2, h3⟩, h4⟩, h6⟩ := h
  refine ⟨h2, ?_, h4, h6⟩
  split at h3
  · rename_i t ht
    simp only [Bool.and_eq_true, beq_iff_eq] at h3
    exact ⟨t, ht, h3.1, h3.2⟩
  · simp at h3

end Sys2Proof.Machine
end

