-- ==== Sys2Proof/Laws/Memory.lean ====
section
/-! SUPPORT. Bytes of memory: every operation on the list of cells keeps the canonical form, a byte written reads back, and
every other byte reads as before. -/

namespace Sys2Proof.Machine

theorem memWfFrom_mono {lo lo' : Nat} {m : List Host.Cell} (h : memWfFrom lo m = true) (hl : lo' ≤ lo) :
    memWfFrom lo' m = true := by
  cases m with
  | nil => rfl
  | cons p r =>
    simp only [memWfFrom, Bool.and_eq_true, decide_eq_true_eq] at h ⊢
    exact ⟨⟨by omega, h.1.2⟩, h.2⟩

theorem memSet_wfFrom (m : List Host.Cell) : ∀ (lo a : Nat) (v : Byte), memWfFrom lo m = true → lo ≤ a →
    memWfFrom lo (memSet m a v) = true := by
  induction m with
  | nil =>
    intro lo a v _ ha
    by_cases hv : v = 0#8 <;> simp [memSet, hv, memWfFrom, ha]
  | cons p r ih =>
    obtain ⟨k, w⟩ := p
    intro lo a v h ha
    simp only [memWfFrom, Bool.and_eq_true, decide_eq_true_eq] at h
    obtain ⟨⟨hk, hw⟩, hr⟩ := h
    have hw' : ¬ w = 0#8 := hw
    rcases Nat.lt_trichotomy a k with hak | hak | hak
    · by_cases hv : v = 0#8
      · simp [memSet, hak, hv, memWfFrom, hk, hw', hr]
      · simp [memSet, hak, hv, memWfFrom, ha, hw', hr] <;> omega
    · subst hak
      by_cases hv : v = 0#8
      · simpa [memSet, hv] using memWfFrom_mono hr (by omega)
      · simp [memSet, hv, memWfFrom, ha, hr]
    · simp only [memSet, show ¬ a < k by omega, show ¬ a = k by omega, if_false, memWfFrom, Bool.and_eq_true,
        decide_eq_true_eq]
      exact ⟨⟨hk, hw⟩, ih (k + 1) a v hr (by omega)⟩

theorem memGet_below (m : List Host.Cell) (lo a : Nat) (h : memWfFrom lo m = true) (ha : a < lo) : memGet m a = 0 := by
  cases m with
  | nil => rfl
  | cons p r =>
    simp only [memWfFrom, Bool.and_eq_true, decide_eq_true_eq] at h
    simp [memGet, show a < p.1 by omega]

/-- Writing a byte keeps the canonical form. -/
theorem memSet_wf {m : List Host.Cell} (h : Memory.wf m = true) (a : Nat) (v : Byte) : Memory.wf (memSet m a v) = true :=
  memSet_wfFrom m 0 a v h (Nat.zero_le a)

/-- Writing bytes keeps the canonical form. -/
theorem memSets_wf (ks : List Nat) : ∀ {m : List Host.Cell}, Memory.wf m = true → ∀ vs, Memory.wf (memSets m ks vs) = true := by
  induction ks with
  | nil => intro m h vs; simpa [memSets] using h
  | cons k ks ih =>
    intro m h vs
    cases vs with
    | nil => simpa [memSets] using h
    | cons v vs => exact ih (memSet_wf h k v) vs

theorem memGet_memSet_from (m : List Host.Cell) : ∀ (lo a b : Nat) (v : Byte), memWfFrom lo m = true →
    memGet (memSet m a v) b = if a = b then v else memGet m b := by
  induction m with
  | nil =>
    intro lo a b v _
    by_cases hv : v = 0#8
    · simp [memSet, hv, memGet]
    · by_cases h : a = b
      · simp [memSet, hv, memGet, h]
      · simp [memSet, hv, memGet, h, Ne.symm h]
  | cons p r ih =>
    obtain ⟨k, w⟩ := p
    intro lo a b v h
    simp only [memWfFrom, Bool.and_eq_true, decide_eq_true_eq] at h
    obtain ⟨⟨hk, hw⟩, hr⟩ := h
    rcases Nat.lt_trichotomy a k with hak | hak | hak
    · by_cases hv : v = 0#8
      · by_cases hab : a = b
        · subst hab; simp [memSet, hak, hv, memGet]
        · simp [memSet, hak, hv, hab]
      · rcases Nat.lt_trichotomy b a with hba | hba | hba
        · simp [memSet, hak, hv, memGet, hba, show ¬ a = b by omega, show b < k by omega]
        · subst hba; simp [memSet, hak, hv, memGet]
        · simp [memSet, hak, hv, memGet, show ¬ b < a by omega, show ¬ a = b by omega, show ¬ b = a by omega]
    · subst hak
      by_cases hv : v = 0#8
      · by_cases hab : a = b
        · subst hab; simp [memSet, hv, memGet_below r (a + 1) a hr (by omega)]
        · rcases Nat.lt_or_ge b a with hba | hba
          · simp [memSet, hv, hab, memGet, hba, memGet_below r (a + 1) b hr (by omega)]
          · simp [memSet, hv, hab, memGet, show ¬ b < a by omega, show ¬ b = a by omega]
      · by_cases hab : a = b
        · subst hab; simp [memSet, hv, memGet]
        · simp [memSet, hv, memGet, hab, show ¬ b = a by omega]
    · have hn : ¬ a < k := by omega
      have hne : ¬ a = k := by omega
      simp only [memSet, hn, hne, if_false, memGet]
      rw [ih (k + 1) a b v hr]
      rcases Nat.lt_trichotomy b k with hbk | hbk | hbk
      · simp [hbk, show ¬ a = b by omega]
      · subst hbk; simp [show ¬ a = b by omega]
      · simp [show ¬ b < k by omega, show ¬ b = k by omega]

/-- A byte written reads back, and every other byte reads as before. -/
theorem memGet_memSet {m : List Host.Cell} (h : Memory.wf m = true) (a b : Nat) (v : Byte) :
    memGet (memSet m a v) b = if a = b then v else memGet m b := memGet_memSet_from m 0 a b v h

/-- A byte outside the keys written reads as before. -/
theorem memGet_memSets_of_not_mem (ks : List Nat) : ∀ {m : List Host.Cell} (_ : Memory.wf m = true) (vs : List Byte) (b : Nat),
    b ∉ ks → memGet (memSets m ks vs) b = memGet m b := by
  induction ks with
  | nil => intro m _ vs b _; simp [memSets]
  | cons k ks ih =>
    intro m h vs b hb
    cases vs with
    | nil => simp [memSets]
    | cons v vs =>
      simp only [List.mem_cons, not_or] at hb
      rw [memSets, ih (memSet_wf h k v) vs b hb.2, memGet_memSet h, if_neg (Ne.symm hb.1)]

/-- Two canonical memories that read the same everywhere are the same list. -/
theorem mem_ext_from (m : List Host.Cell) : ∀ (m' : List Host.Cell) (lo : Nat), memWfFrom lo m = true → memWfFrom lo m' = true →
    (∀ a, memGet m a = memGet m' a) → m = m' := by
  induction m with
  | nil =>
    intro m' lo _ h' he
    cases m' with
    | nil => rfl
    | cons p r =>
      simp only [memWfFrom, Bool.and_eq_true, decide_eq_true_eq] at h'
      exact absurd (by simpa [memGet] using (he p.1).symm) h'.1.2
  | cons p r ih =>
    obtain ⟨k, w⟩ := p
    intro m' lo h h' he
    have hh := h
    simp only [memWfFrom, Bool.and_eq_true, decide_eq_true_eq] at h
    cases m' with
    | nil => exact absurd (by simpa [memGet] using he k) h.1.2
    | cons p' r' =>
      obtain ⟨k', w'⟩ := p'
      have hh' := h'
      simp only [memWfFrom, Bool.and_eq_true, decide_eq_true_eq] at h'
      have hkk : k = k' := by
        rcases Nat.lt_trichotomy k k' with x | x | x
        · have := he k; simp [memGet, x] at this; exact absurd this h.1.2
        · exact x
        · have := he k'; simp [memGet, x] at this; exact absurd this.symm h'.1.2
      subst hkk
      have hw : w = w' := by simpa [memGet] using he k
      subst hw
      refine congrArg _ (ih r' (k + 1) h.2 h'.2 fun a => ?_)
      rcases Nat.lt_or_ge a (k + 1) with x | x
      · rw [memGet_below r _ a h.2 x, memGet_below r' _ a h'.2 x]
      · simpa [memGet, show ¬ a < k by omega, show ¬ a = k by omega] using he a

/-- Memory is extensional: canonical lists with equal bytes are equal data. -/
theorem mem_ext {m m' : List Host.Cell} (h : Memory.wf m = true) (h' : Memory.wf m' = true)
    (he : ∀ a, memGet m a = memGet m' a) : m = m' := mem_ext_from m m' 0 h h' he

end Sys2Proof.Machine
end

