-- ==== Sys2Proof/Machine/Pseudo.lean ====
section
/-! DEFINITION. The pseudo-instructions of Decwald and what they expand to (02_encoding.md R58, R63, R64). No step uses them. -/

namespace Sys2Proof.Machine

/-- The pseudo-instructions (R63). -/
inductive Pseudo where
  | nop
  | movS (d a : Nat)
  | movV (d a : Nat)
  | ret
  | li (d : Nat) (value : BitVec 64)
  deriving DecidableEq, Repr

/-- An instruction with an immediate of 10 bits, prefixed where the value needs 34 (R38, R58). -/
noncomputable def widened (v : Int) (f : Int → Instr) : List Instr :=
  if -512 ≤ v ∧ v < 512 then [f v]
  else [.ximm (v / 1024 % 2 ^ 24).toNat, f (sext 10 (v % 1024).toNat)]

/-- The sequence of LI (R64). -/
noncomputable def liExpand (d : Nat) (value : BitVec 64) : List Instr :=
  let v := value.toInt
  let lo := sext 34 (v % 2 ^ 34).toNat
  let hi := (v - lo) / 2 ^ 34
  if -512 ≤ v ∧ v < 512 then [.addi d 0 v]
  else if hi = 0 then widened lo (.addi d 0)
  else if lo = 0 then widened hi (.lih d 0)
  else widened lo (.addi d 0) ++ widened hi (.lih d d)

/-- What a pseudo-instruction expands to (R63). -/
noncomputable def Pseudo.expand : Pseudo → List Instr
  | .nop => [.addi 0 0 0]
  | .movS d a => [.addi d a 0]
  | .movV d a => [.vor d a a 0 3]
  | .ret => [.jalr 0 1 0]
  | .li d v => liExpand d v

end Sys2Proof.Machine
end

