-- ==== Sys2Proof/Tests/Slice0.lean ====
section
/-! SUPPORT. The tests: ill-formed terms that the check refuses, words of the spec's encodings and what they decode to, single steps
with the results the spec's own rules and examples give, and for each statement a state that meets its hypotheses. -/

namespace Sys2Proof.Tests

set_option Elab.async false

open Sys2Proof Sys2Proof.Machine

/-! ### Terms that are not well formed, one for each check -/

theorem test_illformed_register : (Instr.add 128 1 2).wellFormed = false := by decide
theorem test_illformed_immediate : (Instr.addi 1 2 512).wellFormed = false := by decide
theorem test_illformed_immediate_low : (Instr.cmpiEq 1 2 (-65)).wellFormed = false := by decide
theorem test_illformed_int_lane : (Instr.vadd 1 2 3 0 4).wellFormed = false := by decide
theorem test_illformed_fp_lane : (Instr.vfadd 1 2 3 0 3).wellFormed = false := by decide
theorem test_illformed_lane : (Instr.vext 1 2 16 0 0).wellFormed = false := by decide
theorem test_illformed_sfn_lane : (Instr.vsfnExp2 1 2 0 7).wellFormed = false := by decide
theorem test_illformed_sfn_type : (Instr.sfnExp2 1 2 3).wellFormed = false := by decide
theorem test_illformed_rounding : (Instr.fcvt 1 2 4 1 6).wellFormed = false := by decide
theorem test_illformed_fcvt_pair : (Instr.fcvt 1 2 6 7 0).wellFormed = false := by decide
theorem test_illformed_vcvt_pair : (Instr.vcvt 1 2 3 0 0 3).wellFormed = false := by decide
theorem test_illformed_vector : (Instr.ldv 64 1 0).wellFormed = false := by decide
theorem test_illformed_red_width : (Instr.redAdd 1 2 2).wellFormed = false := by decide
theorem test_illformed_red_fp_width : (Instr.redFadd 1 2 1).wellFormed = false := by decide
theorem test_illformed_accumulator : (Instr.azero 4).wellFormed = false := by decide
theorem test_illformed_acc_type : (Instr.ald 1 3 2).wellFormed = false := by decide
theorem test_illformed_ridge : (Instr.nrd 1 64).wellFormed = false := by decide
theorem test_illformed_jred_slot : (Instr.jredAdd 8 1).wellFormed = false := by decide
theorem test_illformed_rep_s0 : (Instr.rep 0 4).wellFormed = false := by decide
theorem test_illformed_rep_back : (Instr.rep 1 0).wellFormed = false := by decide
theorem test_illformed_branch : (Instr.br 0 1 4).wellFormed = false := by decide
theorem test_illformed_bar : (Instr.bar (-1)).wellFormed = false := by decide
theorem test_illformed_barinit : (Instr.barinit 1 (-1)).wellFormed = false := by decide
theorem test_illformed_ldt_type : (Instr.ldt 1 2 3 3).wellFormed = false := by decide
theorem test_illformed_save_core : (Instr.ctxsv 1 8).wellFormed = false := by decide

/-! ### Words of the opcode table -/

/-- A list of words and the instructions they stand for. -/
def Reads (l : List (Nat × Instr)) : Prop := (l.map fun x => decodeTableWord 32 x.1) = l.map fun x => some x.2

theorem test_words_0a : Reads [
    (0x010A2888, Instr.add 5 10 17), (0x010A2889, .sub 5 10 17), (0x010A288A, .and 5 10 17), (0x010A288B, .or 5 10 17),
    (0x010A288C, .xor 5 10 17), (0x010A288D, .andn 5 10 17), (0x010A288E, .min 5 10 17), (0x010A288F, .max 5 10 17),
    (0x020A2888, .minu 5 10 17), (0x020A2889, .maxu 5 10 17), (0x020A288A, .shl 5 10 17), (0x020A288B, .shr 5 10 17),
    (0x020A288C, .sra 5 10 17), (0x020A288D, .rotr 5 10 17), (0x030A2888, .mul 5 10 17), (0x030A2889, .mulh 5 10 17),
    (0x030A288A, .mulhu 5 10 17), (0x030A288B, .div 5 10 17), (0x030A288C, .divu 5 10 17), (0x030A288D, .rem 5 10 17)] := rfl

theorem test_words_0b : Reads [
    (0x030A288E, Instr.remu 5 10 17), (0x040A2800, .clz 5 10), (0x040A2801, .ctz 5 10), (0x040A2802, .popc 5 10),
    (0x050A288B, .sel 5 10 17 3), (0x060A2888, .padd 5 10 17), (0x07A08080, .qopAnd 5 2 1), (0x07A08090, .qopOr 5 2 1),
    (0x07A080A0, .qopXor 5 2 1), (0x07A080B0, .qopAndn 5 2 1), (0x07A080C0, .qopOrn 5 2 1), (0x07A080D0, .qopXnor 5 2 1),
    (0x07A08060, .qopNot 5 2), (0x08628880, .cmpEq 3 10 17), (0x08628890, .cmpNe 3 10 17), (0x086288A0, .cmpLt 3 10 17),
    (0x086288B0, .cmpGe 3 10 17), (0x086288C0, .cmpLtu 3 10 17), (0x086288D0, .cmpGeu 3 10 17),
    (0x086288E0, .cmpTst 3 10 17)] := rfl

theorem test_words_0c : Reads [
    (0x0962BE80, Instr.cmpiEq 3 10 (-3)), (0x0962BE90, .cmpiNe 3 10 (-3)), (0x0962BEA0, .cmpiLt 3 10 (-3)),
    (0x0962BEB0, .cmpiGe 3 10 (-3)), (0x0962BEC0, .cmpiLtu 3 10 (-3)), (0x0962BED0, .cmpiGeu 3 10 (-3)),
    (0x0962BEE0, .cmpiTst 3 10 (-3)), (0x0A0A2888, .bfx 5 10 17), (0x0A0A2889, .bfi 5 10 17)] := rfl

theorem test_words_1 : Reads [
    (0x100A2BFD, Instr.addi 5 10 (-3)), (0x110A2BFD, .andi 5 10 (-3)), (0x120A2BFD, .ori 5 10 (-3)),
    (0x130A2BFD, .xori 5 10 (-3)), (0x140A2805, .shli 5 10 5), (0x150A2805, .shri 5 10 5), (0x160A2805, .srai 5 10 5),
    (0x170A2BFD, .lih 5 10 (-3)), (0x180A2801, .ptag 5 10 1)] := rfl

theorem test_words_2 : Reads [
    (0x207FFFF9, Instr.br 3 1 (-7)), (0x210BFFF9, .jal 5 (-7)), (0x220A2BFD, .jalr 5 10 (-3)), (0x23002805, .rep 10 5)] := rfl

theorem test_words_4a : Reads [
    (0x410A2888, Instr.fadd 1 5 10 17), (0x410A2889, .fsub 1 5 10 17), (0x410A288A, .fmul 1 5 10 17),
    (0x410A288B, .fdiv 1 5 10 17), (0x410A288C, .fmin 1 5 10 17), (0x410A288D, .fmax 1 5 10 17),
    (0x410A288E, .fminn 1 5 10 17), (0x410A288F, .fmaxn 1 5 10 17), (0x450A2888, .fma 1 5 10 17),
    (0x450A2889, .fnma 1 5 10 17), (0x450A2802, .fsqrt 1 5 10), (0x450A2803, .fclass 1 5 10),
    (0x49628880, .fcmpEq 1 3 10 17), (0x49628890, .fcmpNe 1 3 10 17), (0x496288A0, .fcmpLt 1 3 10 17),
    (0x496288B0, .fcmpLe 1 3 10 17), (0x496288C0, .fcmpGt 1 3 10 17), (0x496288D0, .fcmpGe 1 3 10 17),
    (0x496288E0, .fcmpUn 1 3 10 17), (0x496288F0, .fcmpOr 1 3 10 17)] := rfl

theorem test_words_4b : Reads [
    (0x4C0A2A0B, Instr.fcvt 5 10 4 1 3)] := rfl

theorem test_words_5 : Reads [
    (0x500A2808, Instr.sfnExp2 5 10 1), (0x500A2809, .sfnLog2 5 10 1), (0x500A280A, .sfnRcp 5 10 1),
    (0x500A280B, .sfnRsq 5 10 1), (0x500A280C, .sfnSin 5 10 1), (0x500A280D, .sfnCos 5 10 1),
    (0x500A280E, .sfnTanh 5 10 1), (0x500A280F, .sfnErf 5 10 1), (0x5814A015, .vsfnExp2 5 10 2 5),
    (0x5914A015, .vsfnLog2 5 10 2 5), (0x5A14A015, .vsfnRcp 5 10 2 5), (0x5B14A015, .vsfnRsq 5 10 2 5),
    (0x5C14A015, .vsfnSin 5 10 2 5), (0x5D14A015, .vsfnCos 5 10 2 5), (0x5E14A015, .vsfnTanh 5 10 2 5),
    (0x5F14A015, .vsfnErf 5 10 2 5)] := rfl

theorem test_words_6 : Reads [
    (0x6014A452, Instr.vadd 5 10 17 2 2), (0x6114A452, .vsub 5 10 17 2 2), (0x6214A452, .vadds 5 10 17 2 2),
    (0x6314A452, .vsubs 5 10 17 2 2), (0x6414A452, .vmul 5 10 17 2 2), (0x6514A452, .vmulh 5 10 17 2 2),
    (0x6614A452, .vmad 5 10 17 2 2), (0x6714A452, .vmin 5 10 17 2 2), (0x6814A452, .vmax 5 10 17 2 2),
    (0x6914A452, .vand 5 10 17 2 2), (0x6A14A452, .vor 5 10 17 2 2), (0x6B14A452, .vxor 5 10 17 2 2),
    (0x6C14A452, .vshl 5 10 17 2 2), (0x6D14A452, .vshr 5 10 17 2 2), (0x6E14A452, .vsra 5 10 17 2 2),
    (0x6F14A452, .vcmpEq 5 10 17 2 2)] := rfl

theorem test_words_7 : Reads [
    (0x7014A452, Instr.vcmpLt 5 10 17 2 2), (0x7114A452, .vcmpLtu 5 10 17 2 2), (0x7214A452, .vcmpTst 5 10 17 2 2),
    (0x7314A452, .vsel 5 10 17 2 2), (0x7414A452, .vshuf 5 10 17 2 2), (0x7514A012, .vsplat 5 10 2 2),
    (0x7614A052, .vext 5 10 1 2 2), (0x7714A052, .vins 5 10 1 2 2), (0x7814A012, .vnz 5 10 2 2),
    (0x7914A012, .vredAdd 5 10 2 2), (0x7914A052, .vredMin 5 10 2 2), (0x7914A092, .vredMax 5 10 2 2),
    (0x7914A0D6, .vredMinn 5 10 2 6), (0x7914A116, .vredMaxn 5 10 2 6), (0x7914A152, .vredMinu 5 10 2 2),
    (0x7914A192, .vredMaxu 5 10 2 2), (0x7A14A452, .vdot 5 10 17 2 2), (0x7B14A4D5, .vcvt 5 10 2 3 2 5)] := rfl

theorem test_words_8 : Reads [
    (0x8014A456, Instr.vfadd 5 10 17 2 6), (0x8114A456, .vfsub 5 10 17 2 6), (0x8214A456, .vfmul 5 10 17 2 6),
    (0x8314A456, .vfma 5 10 17 2 6), (0x8414A456, .vfmin 5 10 17 2 6), (0x8514A456, .vfmax 5 10 17 2 6),
    (0x8614A456, .vfminn 5 10 17 2 6), (0x8714A456, .vfmaxn 5 10 17 2 6), (0x8814A456, .vfcmpEq 5 10 17 2 6),
    (0x8914A456, .vfcmpLt 5 10 17 2 6), (0x8A14A456, .vfcmpLe 5 10 17 2 6), (0x8B14A456, .vfcmpUn 5 10 17 2 6)] := rfl

theorem test_words_9 : Reads [
    (0x900A2BFD, Instr.ldB 5 10 (-3)), (0x910A2BFD, .ldBu 5 10 (-3)), (0x920A2BFD, .ldH 5 10 (-3)),
    (0x930A2BFD, .ldHu 5 10 (-3)), (0x940A2BFD, .ldW 5 10 (-3)), (0x950A2BFD, .ldWu 5 10 (-3)),
    (0x960A2BFD, .ldD 5 10 (-3)), (0x980A2BFD, .stB 5 10 (-3)), (0x990A2BFD, .stH 5 10 (-3)),
    (0x9A0A2BFD, .stW 5 10 (-3)), (0x9B0A2BFD, .stD 5 10 (-3)), (0x9C0A2BFD, .ldv 5 10 (-3)),
    (0x9D0A2BFD, .stv 5 10 (-3)), (0x9E0A2BFD, .lda 5 10 (-3)), (0x9F0A2BFD, .stl 5 10 (-3))] := rfl

theorem test_words_Aa : Reads [
    (0xA00A2BFD, Instr.ldc 5 10 (-3)), (0xA10A2889, .ldt 5 10 17 1), (0xA20A288B, .stt 5 10 17 3),
    (0xA30A2BFD, .lds 5 10 (-3)), (0xA40A2BFD, .sts 5 10 (-3)), (0xA5002BFD, .pref 10 (-3)), (0xA60A2BFD, .ldf 5 10 (-3)),
    (0xA70A2BFD, .ldfe 5 10 (-3)), (0xA80A2BFD, .stf 5 10 (-3)), (0xA90A2BFD, .sto 5 10 (-3)),
    (0xAA0A2BFD, .fest 5 10 (-3)), (0xAB0A2888, .amoSwapW 5 10 17), (0xAB0A2889, .amoAddW 5 10 17),
    (0xAB0A288A, .amoAndW 5 10 17), (0xAB0A288B, .amoOrW 5 10 17), (0xAB0A288C, .amoXorW 5 10 17),
    (0xAB0A288D, .amoMinW 5 10 17), (0xAB0A288E, .amoMaxW 5 10 17), (0xAC0A2888, .amoSwapD 5 10 17),
    (0xAC0A2889, .amoAddD 5 10 17)] := rfl

theorem test_words_Ab : Reads [
    (0xAC0A288A, Instr.amoAndD 5 10 17), (0xAC0A288B, .amoOrD 5 10 17), (0xAC0A288C, .amoXorD 5 10 17),
    (0xAC0A288D, .amoMinD 5 10 17), (0xAC0A288E, .amoMaxD 5 10 17), (0xAD0A2888, .amoMinuW 5 10 17),
    (0xAD0A2889, .amoMaxuW 5 10 17), (0xAD0A288A, .amoMinuD 5 10 17), (0xAD0A288B, .amoMaxuD 5 10 17),
    (0xAD0A288C, .amocasW 5 10 17), (0xAD0A288D, .amocasD 5 10 17), (0xAE002889, .redAdd 10 17 1),
    (0xAE022889, .redAnd 10 17 1), (0xAE042889, .redOr 10 17 1), (0xAE062889, .redXor 10 17 1),
    (0xAE082889, .redMin 10 17 1), (0xAE0A2889, .redMax 10 17 1), (0xAE0C2889, .redMinu 10 17 1),
    (0xAE0E2889, .redMaxu 10 17 1), (0xAE10288B, .redFadd 10 17 3)] := rfl

theorem test_words_Ac : Reads [
    (0xAE12288B, Instr.redFmin 10 17 3), (0xAE14288B, .redFmax 10 17 3), (0xAF000000, .fenceT), (0xAF000001, .fenceS),
    (0xAF000002, .fenceD), (0xAF000003, .fenceP), (0xAF000004, .fenceX), (0xAF000005, .redwait)] := rfl

theorem test_words_B : Reads [
    (0xB0A00021, Instr.kshape 5 33), (0xB1A00021, .kld 5 33), (0xB2A00021, .kldt 5 33), (0xB3080021, .kst 2 33),
    (0xB4A00000, .kzero 5), (0xB5A80000, .kmov 5 2), (0xB6A80000, .ktr 5 2), (0xB7000000, .gang),
    (0xB84886A1, .kmma 2 2 1 1 1 1 33), (0xB94886A1, .kmmr 2 2 1 1 1 1 33), (0xBA400000, .azero 2),
    (0xBB4000A1, .ald 2 1 33), (0xBC0800A1, .ast 2 1 33), (0xBDA805A1, .acvt 5 2 1 3 33)] := rfl

theorem test_words_C : Reads [
    (0xC00A2888, Instr.nzscan 5 10 17), (0xC00A2889, .gath 5 10 17), (0xC10A2800, .mgopen 5 10),
    (0xC10A2889, .mgarea 5 10 17), (0xC10A288A, .mgput 5 10 17), (0xC10A288B, .mgendEnd 5 10 17),
    (0xC10A288C, .mgfin 5 10 17), (0xC10A288D, .mgstat 5 10 17), (0xC20A2888, .gtopk 5 10 17),
    (0xC20A2889, .ghist 5 10 17), (0xC20A288A, .gperm 5 10 17), (0xC80A2888, .ctreeBind 5 10 17),
    (0xC80A2889, .cdesc 5 10 17), (0xC80A288A, .cexp 5 10 17), (0xC80A288B, .cbackBackup 5 10 17),
    (0xC80A288C, .cread 5 10 17), (0xC80A2805, .creuse 5 10)] := rfl

theorem test_words_Da : Reads [
    (0xD00BFFF9, Instr.spawn 5 (-7)), (0xD10BFFF9, .spawnr 5 (-7)), (0xD20A0000, .join 5), (0xD3000000, .tend),
    (0xD40A2801, .sspawn 5 10 1), (0xD50A2488, .ps 5 9 17), (0xD60A2488, .psm 5 9 17), (0xD70A2400, .nrd 5 9),
    (0xD8002488, .nwr 9 17), (0xD9000C88, .jredAdd 3 17), (0xD9000C89, .jredMin 3 17), (0xD9000C8A, .jredMax 3 17),
    (0xD9000C8B, .jredMinu 3 17), (0xD9000C8C, .jredMaxu 3 17), (0xD9000C8D, .jredFaddFp64 3 17),
    (0xD9000C8E, .jredFaddFp32 3 17), (0xDA000005, .bar 5), (0xDB002805, .barinit 10 5), (0xDC000000, .yield),
    (0xDD0A2888, .waitGeu 5 10 17)] := rfl

theorem test_words_Db : Reads [
    (0xDD0A2889, Instr.waitEq 5 10 17), (0xDD0A288A, .waitNe 5 10 17)] := rfl

theorem test_words_E : Reads [
    (0xE00A2888, Instr.poolset 5 10 17), (0xE00A2889, .poolsetT 5 10 17), (0xE00A2802, .poolack 5 10),
    (0xE00A2803, .poolq 5 10), (0xE80A2888, .cpy 5 10 17), (0xE80A2889, .cpy2d 5 10 17), (0xE80A0002, .cpwait 5),
    (0xE90A2888, .rld 5 10 17), (0xE90A2889, .rst 5 10 17)] := rfl

theorem test_words_F : Reads [
    (0xF0000005, Instr.trap 5), (0xF1000000, .tret), (0xF20A0002, .csrr 5 2), (0xF3002802, .csrw 10 2),
    (0xF4002802, .csrs 10 2), (0xF5002802, .csrc 10 2), (0xF6002803, .ctxsv 10 3), (0xF7002803, .ctxrs 10 3),
    (0xF8000000, .fencei), (0xF9000000, .bkpt), (0xFA000000, .halt), (0xFB002888, .tlbinv 10 17),
    (0xFB0A2801, .probe 5 10), (0xFC2055A1, .frame 2 5 5 10 1), (0xFE123456, .ximm 1193046)] := rfl
/-! ### Small states -/

/-- A 2 MiB page from address 0, mapped to itself with every permission, in a die's TLB (R340, R343). -/
def page0 : TlbEntry := ⟨0, none, 1, 0, 21, 0x1F⟩

/-- The bytes from an address, through that page: the entry and the key of each. -/
def ids (va n : Nat) : List (Nat × Nat) := (span va n).map fun a => (0x1F, a)

/-- A spur of program core 0: one bank each of REG, SCR and TIL, two of ACC (R315); a thread of 96 registers in slot 0 of core 0. -/
def spur0 : Spur :=
  { Spur.blank with
    owner := some 0
    roles := [(0, .reg), (1, .scr), (2, .til), (3, .acc), (4, .acc)]
    places := [(0, 0), (1, 0), (2, 0), (3, 0), (4, 1)]
    windows := [⟨.slot 0 0 0 0, 0, 12⟩] }

/-- A program of address space 1 on master core 0, spur 0 its quota. -/
def prog0 : Prog :=
  { Prog.blank with running := true, asid := 1, qmin := 1, qmax := 1, banks := [0, 4, 2, 1, 2, 2], quota := [0], weight := 1 }

/-- An agent with these registers, at address 0x1000, its handler at 0x2000. -/
def agent0 (regs : Tab Nat Word) : Agent :=
  { Agent.blank with live := true, ctx := { Ctx.blank with pc := 0x1000, tvec := 0x2000, regs := regs } }

/-- The package with that program, its master about to run an instruction. -/
def onMaster (regs : Tab Nat Word) : State :=
  { State.reset with
    power := .active, tlb := [page0], progs := [((0, 0), prog0)], spurs := [((0, 0), spur0)]
    agents := [(.master 0 0, agent0 regs)], iw := 0x12345678 }

/-- The package with a spawn of that program outstanding, a thread about to run an instruction. -/
def onThread (regs : Tab Nat Word) : State :=
  { State.reset with
    power := .active, tlb := [page0], spurs := [((0, 0), spur0)]
    progs := [((0, 0), { prog0 with sstate := 1, l := 1, liveCount := 1, spawn := { SpawnRec.blank with window := 96, count := 1, next := 1, quota := [0] } })]
    agents := [(.master 0 0, agent0 []), (.slot 0 0 0 0, agent0 regs)], cur := .slot 0 0 0 0, iw := 0x12345678 }

/-- What a step of one instruction leaves, looked at through `f`. -/
def after {α : Type} (i : Instr) (s : State) (f : State → α) : Option α :=
  match exec i s with
  | .next t => some (f t)
  | _ => none

/-- The register of an agent after one instruction. -/
def reg (i : Instr) (s : State) (n : Nat) : Option Nat := after i s fun t => (t.ctx.rs n).toNat

/-- The trap an instruction takes: its cause and TVAL, with TPC at the instruction and the PC at the handler (R352). -/
def traps (i : Instr) (s : State) (cause tval : Nat) : Bool :=
  after i s (fun t => (t.ctx.tcause.toNat, t.ctx.tval.toNat, t.ctx.tpc, t.ctx.pc)) == some (0x100 + cause, tval, 0x1000, 0x2000)

/-! ### Single steps: integers (R97 to R112) -/

def ff : Word := 0xFFFFFFFFFFFFFFFF

theorem test_add_wraps : reg (.add 3 1 2) (onMaster [(1, 5), (2, ff)]) 3 = some 4 := by decide +kernel
theorem test_sub_order : reg (.sub 3 1 2) (onMaster [(1, 5), (2, 7)]) 3 = some 0xFFFFFFFFFFFFFFFE := by decide +kernel
theorem test_andn : reg (.andn 3 1 2) (onThread [(1, 0xFF), (2, 0x0F)]) 3 = some 0xF0 := by decide +kernel
theorem test_min_signed : reg (.min 3 1 2) (onMaster [(1, 5), (2, ff)]) 3 = some 0xFFFFFFFFFFFFFFFF := by decide +kernel
theorem test_minu : reg (.minu 3 1 2) (onMaster [(1, 5), (2, ff)]) 3 = some 5 := by decide +kernel
theorem test_shl_by_65 : reg (.shl 3 1 2) (onMaster [(1, 3), (2, 65)]) 3 = some 6 := by decide +kernel
theorem test_sra_by_64 : reg (.sra 3 1 2) (onMaster [(1, ff), (2, 64)]) 3 = some 0xFFFFFFFFFFFFFFFF := by decide +kernel
theorem test_rotr : reg (.rotr 3 1 2) (onMaster [(1, 3), (2, 1)]) 3 = some 0x8000000000000001 := by decide +kernel
theorem test_mulh : reg (.mulh 3 1 2) (onMaster [(1, ff), (2, 2)]) 3 = some 0xFFFFFFFFFFFFFFFF := by decide +kernel
theorem test_mulhu : reg (.mulhu 3 1 2) (onMaster [(1, ff), (2, 2)]) 3 = some 1 := by decide +kernel
theorem test_div_by_zero : reg (.div 3 1 0) (onMaster [(1, 5)]) 3 = some 0xFFFFFFFFFFFFFFFF := by decide +kernel
theorem test_div_overflow : reg (.div 3 1 2) (onMaster [(1, 0x8000000000000000), (2, ff)]) 3 = some 0x8000000000000000 := by
  decide +kernel
theorem test_div_to_zero : reg (.div 3 1 2) (onMaster [(1, BitVec.ofInt 64 (-7)), (2, 2)]) 3 = some 0xFFFFFFFFFFFFFFFD := by
  decide +kernel
theorem test_rem_sign : reg (.rem 3 1 2) (onMaster [(1, BitVec.ofInt 64 (-7)), (2, 2)]) 3 = some 0xFFFFFFFFFFFFFFFF := by
  decide +kernel
theorem test_remu_by_zero : reg (.remu 3 1 0) (onMaster [(1, 5)]) 3 = some 5 := by decide +kernel
theorem test_clz_zero : reg (.clz 3 0) (onMaster []) 3 = some 64 := by decide +kernel
theorem test_ctz : reg (.ctz 3 1) (onMaster [(1, 0x50)]) 3 = some 4 := by decide +kernel
theorem test_popc : reg (.popc 3 1) (onMaster [(1, ff)]) 3 = some 64 := by decide +kernel
theorem test_s0_discards : reg (.add 0 1 1) (onMaster [(1, 5)]) 0 = some 0 := by decide +kernel
theorem test_addi_negative : reg (.addi 3 0 (-512)) (onMaster []) 3 = some 0xFFFFFFFFFFFFFE00 := by decide +kernel
theorem test_lih : reg (.lih 3 1 (-1)) (onMaster [(1, 7)]) 3 = some 0xFFFFFFFC00000007 := by decide +kernel
theorem test_sel_false : reg (.sel 3 1 2 5) (onMaster [(1, 5), (2, 7)]) 3 = some 7 := by decide +kernel
theorem test_padd_keeps_tag : reg (.padd 3 1 2) (onMaster [(1, 0x12FFFFFFFFFFFFFF), (2, 1)]) 3 = some 0x1200000000000000 := by
  decide +kernel
theorem test_ptag : reg (.ptag 3 1 0xF0) (onMaster [(1, 0x1200000000000008)]) 3 = some 0xF000000000000008 := by decide +kernel
theorem test_bfi : reg (.bfi 3 1 2) (onMaster [(1, 0xAB), (2, 8 + 64 * 8), (3, ff)]) 3 = some 0xFFFFFFFFFFFFABFF := by
  decide +kernel
theorem test_bfx_signed : reg (.bfx 3 1 2) (onMaster [(1, 0x8000), (2, 8 + 64 * 8 + 2 ^ 13)]) 3 = some 0xFFFFFFFFFFFFFF80 := by
  decide +kernel
theorem test_cmp_lt_signed : after (.cmpLt 2 1 0) (onMaster [(1, ff)]) (·.ctx.q 2) = some true := by decide +kernel
theorem test_cmp_ltu : after (.cmpLtu 2 1 0) (onMaster [(1, ff)]) (·.ctx.q 2) = some false := by decide +kernel
theorem test_q0_discards : after (.qopXor 0 0 0) (onMaster []) (·.ctx.q 0) = some true := by decide +kernel
theorem test_br_taken : after (.br 0 0 (-3)) (onMaster []) (·.ctx.pc) = some 0xFF4 := by decide +kernel
theorem test_br_not_taken : after (.br 2 0 (-3)) (onMaster []) (·.ctx.pc) = some 0x1004 := by decide +kernel
theorem test_jal : after (.jal 1 8) (onMaster []) (fun t => (t.ctx.pc, t.ctx.rs 1)) = some (0x1020, 0x1004) := by decide +kernel
theorem test_jalr_same_register : after (.jalr 1 1 1) (onMaster [(1, 0x3000)]) (fun t => (t.ctx.pc, t.ctx.rs 1)) =
    some (0x3004, 0x1004) := by decide +kernel
theorem test_jalr_unaligned : traps (.jalr 1 2 1) (onMaster [(2, 0x3002)]) 0x04 0x3006 = true := by decide +kernel
theorem test_rep_last : after (.rep 1 4) (onMaster [(1, 1)]) (fun t => (t.ctx.pc, t.ctx.rs 1)) = some (0x1004, 0) := by decide +kernel
theorem test_rep_back : after (.rep 1 4) (onMaster [(1, 2)]) (fun t => (t.ctx.pc, t.ctx.rs 1)) = some (0xFF0, 1) := by decide +kernel

/-! ### Checks before an instruction (R44, R54, R27, R36) -/

theorem test_window : traps (.add 3 1 80)
    (let s := onThread []; s.setCtx { s.ctx with window := 80 }) 0x03 80 = true := by decide +kernel
theorem test_g_in_thread : traps (.add 96 1 2) (onThread []) 0x02 0x12345678 = true := by decide +kernel
theorem test_spawn_in_thread : traps (.spawn 1 4) (onThread []) 0x02 0x12345678 = true := by decide +kernel
theorem test_thread_only : traps (.kshape 0 1) (onMaster []) 0x01 0x12345678 = true := by decide +kernel
theorem test_tlbinv_in_program : traps (.tlbinv 1 2) (onMaster []) 0x02 0x12345678 = true := by decide +kernel
theorem test_bad_group : traps (.gath 3 94 10) (onThread []) 0x01 0x12345678 = true := by decide +kernel
theorem test_poisoned_source : traps (.add 3 1 2) (let s := onThread []; s.setCtx { s.ctx with poison := [2] })
    0x07 (2 ^ 60 + 2) = true := by decide +kernel

/-! ### Scalar and vector floating point (R75, R79, R113 to R135; the examples of 03_numbers.md and 04_scalar_vector.md) -/

theorem test_fadd_fp32 : reg (.fadd 1 3 1 2) (onMaster [(1, 0x3F800000), (2, 0x40000000)]) 3 = some 0x40400000 := by decide +kernel
theorem test_fsub_cancel : reg (.fsub 0 3 1 1) (onMaster [(1, 0x3FF0000000000000)]) 3 = some 0 := by decide +kernel
theorem test_fdiv_by_zero : after (.fdiv 1 3 1 0) (onMaster [(1, 0xBF800000)]) (fun t => (t.ctx.rs 3, t.ctx.fcsr)) =
    some (0xFF800000, 8) := by decide +kernel
theorem test_fdiv_traps : traps (.fdiv 1 3 1 0) (let s := onMaster [(1, 0xBF800000)]; s.setCtx { s.ctx with fcsr := 0x8000 })
    0x09 8 = true := by decide +kernel
theorem test_fsqrt : reg (.fsqrt 1 3 1) (onMaster [(1, 0x40800000)]) 3 = some 0x40000000 := by decide +kernel
theorem test_fma_exact : reg (.fma 1 3 1 2) (onMaster [(1, 0x40000000), (2, 0x40400000), (3, 0x3F800000)]) 3 = some 0x40E00000 := by
  decide +kernel
theorem test_fmin_nan : reg (.fminn 1 3 1 2) (onMaster [(1, 0x7FC00000), (2, 0x40400000)]) 3 = some 0x40400000 := by decide +kernel
theorem test_fcmp_unordered : after (.fcmpUn 1 2 1 0) (onMaster [(1, 0x7FC00000)]) (·.ctx.q 2) = some true := by decide +kernel
theorem test_fcvt_e4m3 : after (.fcvt 5 6 4 1 0) (onMaster [(6, 0x43960000)]) (fun t => (t.ctx.rs 5, t.ctx.fcsr)) =
    some (0x79, 1) := by decide +kernel
theorem test_sfn_rcp : reg (.sfnRcp 3 1 0) (onMaster [(1, 0x40000000)]) 3 = some 0x3F000000 := by decide +kernel
theorem test_sfn_exp2 : reg (.sfnExp2 3 1 0) (onThread [(1, 0x40400000)]) 3 = some 0x41000000 := by decide +kernel
theorem test_vadd_lanes : after (.vadd 3 1 2 0 0) (onMaster [(2, 0), (3, 0xFF), (4, 0), (5, 0x0101)]) (·.ctx.rv 3) =
    some 0x0100 := by decide +kernel
theorem test_vadds_saturates : after (.vadds 3 1 2 0 0) (onMaster [(3, 0x7F), (5, 1)]) (·.ctx.rv 3) = some 0x7F := by decide +kernel
theorem test_vshuf_out_of_range : after (.vshuf 3 1 2 0 2) (onMaster [(2, 0), (3, 0x0000000B0000000A), (4, 0), (5, 0x0000000400000001)])
    (·.ctx.rv 3) = some 0x0000000A0000000A00000000_0000000B := by decide +kernel
theorem test_vext_sign : reg (.vext 5 3 3 0 2) (onMaster [(6, 0x8000000000000000), (7, 0)]) 5 = some 0xFFFFFFFF80000000 := by
  decide +kernel
theorem test_vnz : after (.vnz 3 1 0 2) (onMaster [(2, 0x0000000500000000), (3, 7)]) (·.ctx.rv 3) =
    some 0x00000006000000060000000300000000 := by decide +kernel
theorem test_vredadd : after (.vredAdd 3 1 0 3) (onMaster [(2, 5), (3, ff)]) (·.ctx.rv 3) = some 4 := by decide +kernel
theorem test_vdot_widens : after (.vdot 3 1 2 0 0) (onMaster [(3, 0x80), (5, 0x80)]) (·.ctx.rv 3) = some 0x4000 := by decide +kernel
theorem test_vfma : after (.vfma 3 1 2 0 6) (onMaster [(3, 0x40000000), (5, 0x40400000), (7, 0x3F800000)]) (·.ctx.rv 3) =
    some 0x40E00000 := by decide +kernel
theorem test_vcvt_narrow : after (.vcvt 3 1 4 0 0 0) (onMaster [(3, 0x3F800000)]) (·.ctx.rv 3) = some 0x38 := by decide +kernel
theorem test_false_mask : after (.vadd 3 1 2 4 0) (onMaster [(3, 1), (5, 1), (7, 9)]) (fun t => (t.ctx.rv 3, t.ctx.pc)) =
    some (9, 0x1004) := by decide +kernel

/-! ### Memory (07_ordering_rules.md, 08_memory_instr.md) -/

theorem test_st_little_endian : after (.stH 3 1 1) (onThread [(1, 0x10), (3, 0x1234)]) (·.mem) = some [(0x12, 0x34), (0x13, 0x12)] := by
  decide +kernel
theorem test_ld_sign : reg (.ldB 3 1 (-1)) ({ onMaster [(1, 0x10)] with mem := [(0xF, 0x80)] }) 3 = some 0xFFFFFFFFFFFFFF80 := by
  decide +kernel
theorem test_ldbu : reg (.ldBu 3 1 (-1)) ({ onMaster [(1, 0x10)] with mem := [(0xF, 0x80)] }) 3 = some 0x80 := by decide +kernel
theorem test_ldv_order : after (.ldv 3 1 0) ({ onMaster [(1, 0x10)] with mem := [(0x10, 1), (0x18, 2)] })
    (fun t => (t.ctx.rs 6, t.ctx.rs 7)) = some (2, 1) := by decide +kernel
theorem test_lda_unaligned : traps (.lda 3 1 0) (onMaster [(1, 0x14)]) 0x04 0x14 = true := by decide +kernel
theorem test_ld_no_page : after (.ldD 3 1 0) (onMaster [(1, 0x200000)]) (fun t => t.ctx.tcause) = some 0x106 := by decide +kernel
theorem test_ld_beyond : traps (.ldD 3 1 0) (onMaster [(1, 0x2 ^ 48)]) 0x06 (2 ^ 48) = true := by decide +kernel
theorem test_amoadd : after (.amoAddW 3 1 2) ({ onThread [(1, 0x10), (2, 1)] with mem := [(0x10, 0xFF), (0x11, 0xFF), (0x12, 0xFF), (0x13, 0xFF)] })
    (fun t => (t.ctx.rs 3, t.mem)) = some (ff, []) := by decide +kernel
theorem test_amocas_fails : after (.amocasD 3 1 2) ({ onMaster [(1, 0x10), (2, 1), (3, 8)] with mem := [(0x10, 7)] })
    (fun t => (t.ctx.rs 3, t.mem)) = some (7, [(0x10, 7)]) := by decide +kernel
theorem test_red_min : after (.redMin 1 2 1) ({ onMaster [(1, 0x10), (2, ff)] with mem := [(0x10, 7)] }) (fun t => (t.mem.length)) =
    some 8 := by decide +kernel
theorem test_stf_ldfe : after (.stf 2 1 0) (onThread [(1, 0x10), (2, 5)]) (fun t => (t.mem, t.full)) = some ([(0x10, 5)], [2]) := by
  decide +kernel
theorem test_ldfe_empties : after (.ldfe 2 1 0) ({ onThread [(1, 0x10)] with mem := [(0x10, 5)], full := [2] })
    (fun t => (t.ctx.rs 2, t.full)) = some (5, []) := by decide +kernel
theorem test_ldf_waits : after (.ldf 2 1 0) (onThread [(1, 0x10)]) (fun t => (t.ctx.pc, t.feWait)) =
    some (0x1000, [(.mem 0x10, .slot 0 0 0 0)]) := by decide +kernel
theorem test_sts_lds : reg (.lds 3 1 0) (let s := onThread [(1, 8)]; s.setSpur (0, 0) ((s.spur (0, 0)).wr .scr 8 (leBytes 8 99))) 3 =
    some 99 := by decide +kernel
theorem test_lds_beyond : traps (.lds 3 1 0) (onThread [(1, 32768)]) 0x0C (2 * 2 ^ 60 + 32768) = true := by decide +kernel
theorem test_fence : after .fenceX (onMaster []) (fun t => t.ctx.pc) = some 0x1004 := by decide +kernel

/-! ### Prefix, frame, tiles (02_encoding.md, 05_matrix.md) -/

/-- A state whose memory holds these words from 0x1000 on. -/
def withWords (s : State) (ws : List Nat) : State := { s with mem := memSets s.mem (span 0x1000 (4 * ws.length)) (ws.flatMap (leBytes 4)) }

theorem test_ximm : after (.ximm 1) (withWords (onMaster [(4, 5)]) [0xFE000001, 0x10061001]) (fun t => (t.ctx.rs 3, t.ctx.pc)) =
    some (5 + 1024 + 1, 0x1008) := by decide +kernel
theorem test_frame_first : after (.frame 0 1 1 0 0) (withWords (onMaster [(4, 5), (5, 6)]) [0xFC001100, 0x01061028])
    (fun t => (t.ctx.rs 3, t.ctx.pc, t.ctx.frm, t.ctx.inFrame)) = some (11, 0x1000, 0x1010, true) := by decide +kernel
theorem test_frame_second : after (.frame 0 1 1 0 0)
    (let s := withWords (onMaster [(4, 5), (5, 6)]) [0xFC001100, 0x01061028]; s.setCtx { s.ctx with frm := 0x1010, inFrame := true })
    (fun t => (t.ctx.rs 4, t.ctx.pc, t.ctx.frm, t.ctx.inFrame)) = some (11, 0x1008, 0, false) := by decide +kernel
theorem test_kshape : after (.kshape 1 2) (onThread [(2, 0x40800402)]) (fun t => tabGet t.ctx.ksh 1 0) = some 0x40800402 := by
  decide +kernel
theorem test_kshape_bad : traps (.kshape 1 2) (onThread [(2, 0xF)]) 0x0B 0xF = true := by decide +kernel
theorem test_kmma_alone : traps (.kmma 0 0 1 0 0 0 2) (onThread []) 0x01 0x12345678 = true := by decide +kernel

/-! ### Threads, Ridge registers, waits (10_spawn.md, 11_scheduling.md, 12_pools.md) -/

theorem test_spawn_header : after (.spawn 1 4) ({ onMaster [(1, 3)] with mem := [(0x100C, 5), (0x100E, 0x5B)] })
    (fun t => (t.ctx.pc, t.myProg.sstate, t.myProg.u, t.myProg.spawn.window)) = some (0x1004, 1, 3, 96) := by decide +kernel
theorem test_join_no_spawn : reg (.join 3) (onMaster []) 3 = some 2 := by decide +kernel
theorem test_tend : after .tend (onThread []) (fun t => (t.me.live, t.myProg.l, t.myProg.contribs.length)) = some (false, 0, 1) := by
  decide +kernel
theorem test_ps : after (.ps 3 2 1) (onThread [(1, 5)]) (fun t => (t.ctx.rs 3, t.myProg.n 2)) = some (0, 5) := by decide +kernel
theorem test_psm_limit : after (.psm 3 2 1) (onThread [(1, 5)]) (fun t => (t.ctx.rs 3, t.myProg.n 2)) = some (ff, 0) := by decide +kernel
theorem test_psm_odd : traps (.psm 3 3 1) (onThread []) 0x01 0x12345678 = true := by decide +kernel
theorem test_wait_eq_holds : reg (.waitEq 3 1 2) ({ onMaster [(1, 0x10), (2, 7)] with mem := [(0x10, 7)] }) 3 = some 7 := by decide +kernel
theorem test_wait_ne_waits : after (.waitNe 3 1 2) ({ onMaster [(1, 0x10), (2, 7)] with mem := [(0x10, 7)] }) (fun t => t.me.wait) =
    some (.mem ⟨2, 0x10, 7, 3⟩) := by decide +kernel
theorem test_poolset_grows : after (.poolset 3 1 2) (onThread [(1, 2), (2, 2)]) (fun t => (t.ctx.rs 3, (t.spur (0, 0)).role 5)) =
    some (0x200000000, .scr) := by decide +kernel
theorem test_poolset_odd_acc : reg (.poolset 3 1 2) (onThread [(1, 5), (2, 3)]) 3 = some 0x200000005 := by decide +kernel
theorem test_poolq_mask : reg (.poolq 3 1) (onThread [(1, 5)]) 3 = some 0x1800000000 := by decide +kernel

/-! ### Traps and registers (14_recovery.md) -/

theorem test_trap_after : after (.trap 5) (onMaster []) (fun t => (t.ctx.tpc, t.ctx.tcause, t.ctx.tval, t.ctx.pc)) =
    some (0x1004, 0x10A, 5, 0x2000) := by decide +kernel
theorem test_bkpt : traps .bkpt (onMaster []) 0x0A 0x400 = true := by decide +kernel
theorem test_tret : after .tret (let s := onMaster []; s.setCtx { s.ctx with tpc := 0x3000, tcause := 0x10A })
    (fun t => (t.ctx.pc, t.ctx.tcause)) = some (0x3000, 0x0A) := by decide +kernel
theorem test_double_trap_ends : after (.trap 5) (let s := onMaster []; s.setCtx { s.ctx with tcause := 0x100 })
    (fun t => (t.ctx, t.myProg.ending.map (·.reason))) =
    some ({ (agent0 []).ctx with tcause := 0x100 }, some 2) := by decide +kernel
theorem test_csr_read_only : traps (.csrw 1 0x00B) (onMaster []) 0x01 0x12345678 = true := by decide +kernel
theorem test_csrw_fcsr : after (.csrw 1 0x100) (onMaster [(1, ff)]) (fun t => t.ctx.tcause) = some 0x101 := by decide +kernel
theorem test_csrs_wlim : after (.csrs 1 0x102) (onMaster [(1, ff)]) (fun t => t.ctx.wlim) = some 0xFFFFFFFFFFFF := by decide +kernel
theorem test_halt_waits : after .halt ({ onThread [] with cur := .master 0 0 }) (fun t => t.me.wait) = some .halt := by decide +kernel
theorem test_probe : reg (.probe 3 1) (onMaster [(1, 0x10)]) 3 = some (2 * 2 ^ 7 + 0xF) := by decide +kernel

/-! ### Witnesses: for each statement with hypotheses, states and operands that meet them -/

theorem witness_RegisterArithmetic : Ready .tm [.w 3, .r 1, .r 2] (onMaster [(1, 5), (2, 7)]) ∧
    Ready .tm [.w 95, .r 127, .r 0] (onThread []) ∧ Ready .tm [.w 0, .r 0, .r 0] (onThread []) :=
  ⟨ready_of (by decide +kernel), ready_of (by decide +kernel), ready_of (by decide +kernel)⟩

theorem witness_RegisterArithmetic_divide : Ready .tm [.w 3, .r 1, .r 2] (onMaster [(1, 0x8000000000000000), (2, ff)]) ∧
    Ready .tm [.w 3, .r 1] (onThread [(1, 1)]) := ⟨ready_of (by decide +kernel), ready_of (by decide +kernel)⟩

theorem witness_ImmediatesAndFields : (63 : Nat) < 64 ∧ (255 : Nat) < 256 ∧ Ready .tm [.w 3, .r 1] (onThread []) ∧
    Ready .tm [.w 3, .r 1, .r 2] (onThread []) ∧ Ready .tm [.rw 3, .r 1, .r 2] (onMaster []) :=
  ⟨by decide, by decide, ready_of (by decide +kernel), ready_of (by decide +kernel), ready_of (by decide +kernel)⟩

theorem witness_PredicateWrites : Ready .tm [.r 1, .r 2] (onThread []) ∧ Ready .tm [.r 1] (onThread []) ∧ Ready .tm [] (onMaster []) ∧
    (0 : Nat) < 8 ∧ (7 : Nat) < 8 :=
  ⟨ready_of (by decide +kernel), ready_of (by decide +kernel), ready_of (by decide +kernel), by decide, by decide⟩

theorem witness_ControlTransfers : Ready .tm [] (onMaster []) ∧ (1 : Nat) < 2 ∧ Ready .tm [.w 1] (onThread []) ∧
    Ready .tm [.w 1, .r 2] (onThread [(2, 0x3002)]) ∧ (onThread []).mode = .plain ∧
    Ready .tm [.w 1, .r 2] { onMaster [(2, 0x3000)] with mode := .prefixed } ∧ Ready .tm [.rw 1] (onMaster [(1, 1)]) :=
  ⟨ready_of (by decide +kernel), by decide, ready_of (by decide +kernel), ready_of (by decide +kernel), rfl, ready_of (by decide +kernel),
    ready_of (by decide +kernel)⟩

/-- A frame of one word and two passes, at the last word of its first pass and of its last. -/
theorem witness_CompletionAdvances : ({ onMaster [] with mode := .captured 2 2 } : State).mode = .captured 2 2 ∧
    (0x1001#64).toNat % 16 + 1 = 2 ∧ (0x1001#64).toNat / 16 % 256 + 1 < 2 ∧ (0x1010#64).toNat % 16 + 1 < 2 ∧
    2 ≤ (0x1011#64).toNat / 16 % 256 + 1 := by refine ⟨rfl, ?_⟩; decide

/-- The environment of RNE; 1, 2, -1 and 0 of FP32. -/
def env0 : FEnv := ⟨0, false, false, 0, 0⟩

theorem witness_RoundedOnce :
    env0.rm < 6 ∧ (0 : Nat) < 2 ^ 32 ∧ fp32.readFtz env0.ftz 0x3F800000 = .fin false (2 ^ 23) (-23) ∧
    fp32.readFtz env0.ftz 0x40000000 = .fin false (2 ^ 23) (-22) ∧ fp32.readFtz env0.ftz 0xBF800000 = .fin true (2 ^ 23) (-23) ∧
    fp32.readFtz env0.ftz 0 = .fin false 0 (-149) ∧
    (let one := (FVal.fin false (2 ^ 23) (-23)).rat
     let two := (FVal.fin false (2 ^ 23) (-22)).rat
     let m1 := (FVal.fin true (2 ^ 23) (-23)).rat
     let zero := (FVal.fin false 0 (-149)).rat
     one + two ≠ 0 ∧ one + m1 = 0 ∧ one - two ≠ 0 ∧ one - one = 0 ∧ zero = 0 ∧ 0 < one ∧ m1 < 0 ∧ two + one * m1 ≠ 0 ∧ one + one * m1 = 0 ∧
       two - one * one ≠ 0 ∧ one - one * one = 0) ∧
    (fp32.readFtz env0.ftz 0x7FC00000).isNan = true ∧ (-128 : Int) ≤ 0 ∧ (0 : Int) ≤ 127 ∧
    (let x (k : Int) := (FVal.fin true 3 0).rat / pow2 k
     (x 1).abs ≤ 2 ∧ 2 < (x 0).abs) ∧
    (∃ x ∈ [FVal.fin false 0 0, .nan false], x.isNan = true ∨ x.isInf = true) ∧ (∀ x ∈ [FVal.fin false 0 0, .fin true 0 0], x.isZero = true) ∧
    (∀ x ∈ [FVal.fin false 0 0, .fin true 3 1], x.isNan = false ∧ x.isInf = false) ∧ ∃ x ∈ [FVal.fin false 0 0, .fin true 3 1], x.isZero = false := by
  refine ⟨by decide, by decide, ?_, ?_, ?_, ?_, ?_, ?_, ?_, ?_, ?_, ?_, ?_, ?_, ?_⟩ <;> decide +kernel

theorem witness_ScalarFloat : Ready .tm [.w 3, .r 1, .r 2] (onMaster []) ∧ Ready .tm [.rw 3, .r 1, .r 2] (onThread []) ∧
    Ready .tm [.w 3, .r 1] (onThread []) ∧ Ready .tm [.r 1, .r 2] (onThread []) ∧
    (fp32.readFtz false 0x7FC00000).isNan = true ∧ (fp32.readFtz false 0).isNan = false :=
  ⟨ready_of (by decide +kernel), ready_of (by decide +kernel), ready_of (by decide +kernel), ready_of (by decide +kernel),
    by decide +kernel, by decide +kernel⟩

/-- A thread with its request's result in its token cell: of SFN, of VSFN. -/
def withToken (vec : Bool) : State :=
  let s := onThread []
  s.setSpur (0, 0) { s.spur (0, 0) with tokens := [(tokenCell s.cur, ⟨s.cur, 3, vec, 5, 0, []⟩)] }

/-- A thread behind another's request in its spur's queue. -/
def behindRequest : State :=
  let s := onThread []
  s.setSpur (0, 0) { s.spur (0, 0) with sfu := [⟨.slot 0 0 1 0, 3, false, 5, 0, []⟩] }

theorem witness_SpecialFunctions : Ready .tm [.w 3, .r 1] (onMaster []) ∧ SfuFree (onMaster []) ∧
    Ready .tm [.w 3, .r 1] (onThread []) ∧ SfuFree (onThread []) ∧ Ready .tm [.w 3, .r 1] { onThread [] with defer := true } ∧
    SfuQueues { onThread [] with defer := true } ∧ SfuQueues behindRequest ∧ Ready .tm [.w 3, .r 1] (withToken false) ∧
    tokenOf (withToken false) (withToken false).cur = some ⟨(withToken false).cur, 3, false, 5, 0, []⟩ ∧
    Ready .tm [.vw 3, .vr 1] (withToken true) ∧ (withToken true).ctx.q 0 = true ∧
    tokenOf (withToken true) (withToken true).cur = some ⟨(withToken true).cur, 3, true, 5, 0, []⟩ ∧ fp32.readFtz false 0x7F800001 = .nan true :=
  ⟨ready_of (by decide +kernel), .inl rfl, ready_of (by decide +kernel), .inr (by decide +kernel), ready_of (by decide +kernel),
    by unfold SfuQueues; decide +kernel, by unfold SfuQueues; decide +kernel, ready_of (by decide +kernel), by decide +kernel,
    ready_of (by decide +kernel), rfl, by decide +kernel, by decide +kernel⟩

theorem witness_VectorIntegers : (onThread []).ctx.q 0 = true ∧ Ready .tm [.vw 47, .vr 63, .vr 0] (onThread []) ∧
    Ready .tm [.vrw 3, .vr 1, .vr 2] (onMaster []) ∧ Ready .tm [.vw 3, .r 1] (onThread []) ∧ Ready .tm [.w 3, .vr 1] (onThread []) ∧
    Ready .tm [.vrw 3, .r 1] (onThread []) ∧ Ready .tm [.vw 3, .vr 1] (onThread []) :=
  ⟨rfl, ready_of (by decide +kernel), ready_of (by decide +kernel), ready_of (by decide +kernel), ready_of (by decide +kernel),
    ready_of (by decide +kernel), ready_of (by decide +kernel)⟩

theorem witness_VectorFloat : intLane 3 = true ∧ fpLane 4 = true ∧ (onThread []).ctx.q 0 = true ∧ Ready .tm [.vw 3, .vr 1] (onThread []) ∧
    Ready .tm [.vw 3, .vr 1, .vr 2] (onThread []) ∧ Ready .tm [.vrw 3, .vr 1, .vr 2] (onMaster []) :=
  ⟨rfl, rfl, rfl, ready_of (by decide +kernel), ready_of (by decide +kernel), ready_of (by decide +kernel)⟩

/-! Memory -/

theorem witness_MemoryLoads : Ready .tm [.w 3, .r 1] (onThread [(1, 0x13)]) ∧
    Translated .read 0x13 8 (onThread [(1, 0x13)]) (ids 0x13 8) (onThread [(1, 0x13)]) ∧
    Clear (onThread [(1, 0x13)]) ((ids 0x13 8).map (·.2)) ∧ Sound (onThread [(1, 0x13)]) (ids 0x13 8) ∧ redPending (onThread [(1, 0x13)]).me ((ids 0x13 8).map (·.2)) = false ∧
    Ready .tm [.vw 3, .r 1] { onMaster [(1, 0x10)] with defer := true } ∧
    Translated .read 0x10 16 { onMaster [(1, 0x10)] with defer := true } (ids 0x10 16) { onMaster [(1, 0x10)] with defer := true } ∧
    Sound { onMaster [(1, 0x10)] with defer := true } (ids 0x10 16) ∧ (0x13#64).toNat % 8 ≠ 0 :=
  ⟨ready_of (by decide +kernel), translated_of (by decide +kernel), clear_of (by decide +kernel), sound_of (by decide +kernel), by decide +kernel,
    ready_of (by decide +kernel), translated_of (by decide +kernel), sound_of (by decide +kernel), by decide⟩

theorem witness_MemoryStores : Ready .tm [.r 3, .r 1] (onThread [(1, 0x10)]) ∧
    Translated .write 0x10 8 (onThread [(1, 0x10)]) (ids 0x10 8) (onThread [(1, 0x10)]) ∧
    AtOnce (onThread [(1, 0x10)]) (ids 0x10 8) ∧ pendStores (onThread [(1, 0x10)]).me < 32 ∧ (onThread [(1, 0x10)]).me.pend = [] ∧
    Ready .tm [.vr 3, .r 1] (onThread [(1, 0x10)]) ∧
    Translated .write 0x10 16 (onThread [(1, 0x10)]) (ids 0x10 16) (onThread [(1, 0x10)]) ∧ AtOnce (onThread [(1, 0x10)]) (ids 0x10 16) ∧
    claimedWord { onThread [(1, 0x10)] with defer := true } ((ids 0x10 8).map (·.2)) = false ∧
    Sendable { onThread [(1, 0x10)] with defer := true } (ids 0x10 8) ∧ (0x14#64).toNat % 8 ≠ 0 :=
  ⟨ready_of (by decide +kernel), translated_of (by decide +kernel), atOnce_of (by decide +kernel), by decide +kernel, by decide +kernel,
    ready_of (by decide +kernel), translated_of (by decide +kernel), atOnce_of (by decide +kernel), by decide +kernel, sendable_of (by decide +kernel),
    by decide⟩

/-- The last doubleword of the SCR role, and the first beyond it. -/
theorem witness_ScratchAndPrefetch : Ready .t [.w 3, .r 1] (onThread [(1, 32760)]) ∧ Ready .t [.r 3, .r 1] (onThread [(1, 32768)]) ∧
    32760 + 8 ≤ ((onThread []).spur (0, 0)).size .scr ∧ ((onThread []).spur (0, 0)).size .scr < 32761 + 8 ∧
    ((onThread []).spur (0, 0)).claimed .scr 32760 8 = false ∧ ((onThread []).spur (0, 0)).poisonAt .scr 32760 8 = none ∧
    Ready .tm [.r 1] (onMaster []) :=
  ⟨ready_of (by decide +kernel), ready_of (by decide +kernel), by decide +kernel, by decide +kernel, by decide +kernel, by decide +kernel,
    ready_of (by decide +kernel)⟩

/-- A pointer to FP32 elements, and one to MXFP8 blocks of 32 (R89); a reserved format. -/
theorem witness_TypedAccesses :
    (let s := onThread [(1, 0x1000000000000100), (2, 0x2000)]
     Ready .tm [.vw 3, .r 1, .r 2] s ∧ fmtOk (ptrFmt (s.ctx.rs 1)) (ptrBlg (s.ctx.rs 1)) = true ∧
       (s.ctx.rs 1).toNat % 2 ^ 56 % max 1 (elemBits (ptrFmt (s.ctx.rs 1)) / 8) = 0 ∧
       (∀ j < 4, ReadsAs s (typedAddr (s.ctx.rs 1) j % 2 ^ 56) (elemBytes (ptrFmt (s.ctx.rs 1))) [0, 0, 0, 0]) ∧
       Ready .tm [.vr 3, .r 1, .r 2] s ∧ blocked (ptrFmt (s.ctx.rs 1)) = false ∧ 8 ≤ elemBits (ptrFmt (s.ctx.rs 1)) ∧
       (∀ j < 4, StoresAt s (typedAddr (s.ctx.rs 1) j % 2 ^ 56) (elemBytes (ptrFmt (s.ctx.rs 1)))
         (span (typedAddr (s.ctx.rs 1) j % 2 ^ 56) 4)) ∧ pendStores s.me < 32) ∧
    (let s := onMaster [(1, 0x6500000000000100), (2, 0x2000)]
     blocked (ptrFmt (s.ctx.rs 1)) = true ∧ fmtOk (ptrFmt (s.ctx.rs 1)) (ptrBlg (s.ctx.rs 1)) = true) ∧
    fmtOk (ptrFmt 0xF000000000000000) (ptrBlg 0xF000000000000000) = false := by
  refine ⟨⟨ready_of (by decide +kernel), by decide +kernel, by decide +kernel, ?_, ready_of (by decide +kernel), by decide +kernel, by decide +kernel,
    ?_, by decide +kernel⟩, by decide +kernel, by decide +kernel⟩
  · intro j hj
    match j, hj with
    | 0, _ => exact readsAs_of (ids 0x100 4) (by decide +kernel)
    | 1, _ => exact readsAs_of (ids 0x104 4) (by decide +kernel)
    | 2, _ => exact readsAs_of (ids 0x108 4) (by decide +kernel)
    | 3, _ => exact readsAs_of (ids 0x10C 4) (by decide +kernel)
  · intro j hj
    match j, hj with
    | 0, _ => exact storesAt_of (ids 0x100 4) (by decide +kernel)
    | 1, _ => exact storesAt_of (ids 0x104 4) (by decide +kernel)
    | 2, _ => exact storesAt_of (ids 0x108 4) (by decide +kernel)
    | 3, _ => exact storesAt_of (ids 0x10C 4) (by decide +kernel)

theorem witness_AtomicUpdates : Ready .tm [.w 3, .r 1, .r 2] (onThread [(1, 0x10)]) ∧ Ready .tm [.rw 3, .r 1, .r 2] (onThread [(1, 0x10)]) ∧
    Translated .atomic 0x10 8 (onThread [(1, 0x10)]) (ids 0x10 8) (onThread [(1, 0x10)]) ∧
    Translated .red 0x10 4 (onThread [(1, 0x10)]) (ids 0x10 4) (onThread [(1, 0x10)]) ∧
    AtOnce (onThread [(1, 0x10)]) (ids 0x10 8) ∧ (∀ k ∈ (ids 0x10 8).map (·.2), keySpace k ≠ 1) ∧
    pendReds (onThread [(1, 0x10)]).me < 16 ∧ Clear { onThread [(1, 0x10)] with defer := true } ((ids 0x10 8).map (·.2)) ∧
    Ready .tm [.r 1, .r 2] (onThread [(1, 0x10)]) ∧
    claimedWord { onThread [(1, 0x10)] with defer := true } ((ids 0x10 4).map (·.2)) = false ∧
    Sendable { onThread [(1, 0x10)] with defer := true } (ids 0x10 4) :=
  ⟨ready_of (by decide +kernel), ready_of (by decide +kernel), translated_of (by decide +kernel), translated_of (by decide +kernel),
    atOnce_of (by decide +kernel), by decide +kernel, by decide +kernel, clear_of (by decide +kernel), ready_of (by decide +kernel),
    by decide +kernel, sendable_of (by decide +kernel)⟩

/-- A granule of memory, FULL and EMPTY, and one of SCR. -/
theorem witness_FullEmptyOperations :
    Names (onThread [(1, 0x10)]) 0x10 0 true (.mem 0x10) ∧ granFull (onThread [(1, 0x10)]) (.mem 0x10) = false ∧
    granFull { onThread [(1, 0x10)] with full := [2] } (.mem 0x10) = true ∧
    Names (onThread []) 0xF000000000000008 1 true (.scr 0 0 16) ∧ (∀ z ∈ (onThread []).feWait, z.1 ≠ Granule.mem 0x10) ∧
    ((onThread []).spur (0, 0)).notice.pending = false ∧ ownDescs (onThread []) = [] ∧ (onThread []).me.pend = [] ∧
    Ready .tm [.w 3, .r 1] (onThread []) ∧ Ready .tm [.r 3, .r 1] (onThread []) ∧ Ready .tm [.rw 3, .r 1] (onThread []) := by
  refine ⟨Or.inr ⟨by decide, by decide, 0x1F, 0x10, hits_of (by decide +kernel), by decide, by decide +kernel, clear_of (by decide +kernel),
    show ∀ p ∈ (onThread [(1, 0x10)]).me.pend, _ from by decide +kernel, by decide +kernel, by decide +kernel, rfl⟩,
    by decide +kernel, by decide +kernel, Or.inl ⟨by decide, rfl, by decide, 16, by decide, by decide, by decide +kernel, by decide +kernel,
    by decide +kernel, rfl⟩, by decide +kernel, by decide +kernel, by decide +kernel, by decide +kernel, ready_of (by decide +kernel),
    ready_of (by decide +kernel), ready_of (by decide +kernel)⟩

/-- One store outstanding to a word of this die, homed there; none. -/
def onePend : Pend := ⟨0, 0x10, span 0x10 8, [.die 0], .store (leBytes 8 7), false, 0, none, false⟩
def withPend : State :=
  let s := onThread []
  s.setMe { s.me with pend := [onePend] }

/-- A store behind a claim of its word; deferred traps. -/
def heldStore : State := { withPend with claims := [(2, [.amo (.slot 0 0 1 0)])], granted := [2] }
def withTraps : State := let s := onThread []; s.setMe { s.me with dtraps := [⟨cPOISON, 0x10⟩, ⟨cALIGN, 0x18⟩] }

theorem witness_FencesDrain : Ready .tm [] withPend ∧ withPend.me.pend = [onePend] ∧ withPend.me.dtraps = [] ∧ pendFree withPend onePend = true ∧
    (onePend.homes.contains (.die (dieOf withPend.cur)) && onePend.keys.any fun k => keySpace k == 0) = true ∧
    (∀ h ∈ onePend.homes, withPend.reach h = true) ∧ Ready .tm [] (onThread []) ∧ (onThread []).me.pend = [] ∧
    (Ready .tm [] heldStore ∧ pendFree heldStore onePend = false ∧ heldStore.me.pend = [onePend] ∧ (heldStore.me.pend.map Pend.id).Nodup) ∧
    Ready .tm [] withTraps ∧ withTraps.me.dtraps = ⟨cPOISON, 0x10⟩ :: [⟨cALIGN, 0x18⟩] :=
  ⟨ready_of (by decide +kernel), by decide +kernel, by decide +kernel, by decide +kernel, by decide +kernel, by decide +kernel,
    ready_of (by decide +kernel), by decide +kernel, ⟨ready_of (by decide +kernel), by decide +kernel⟩, ready_of (by decide +kernel),
    by decide +kernel⟩

theorem witness_PrefixesAndFrames :
    (let s := withWords (onMaster []) [0xFE000001, 0x10061001]
     (fetchWord (s.ctx.pc + 4)).run s = .ok (0x10061001, s) ∧ decodeLowWord 0x10061001 = .ok (.addi 3 4 1)) ∧
    decodeLowWord 0x0922FF80 = .ok (.cmpiEq 1 11 (-1)) ∧
    (let s := withWords (onMaster []) [0xFC001100, 0x01061028]
     s.ctx.inFrame = false ∧ ((List.range 1).mapM fun n => fetchWord (s.ctx.pc + 4 + BitVec.ofNat 64 (4 * n))).run s = .ok ([0x01061028], s) ∧
     capturable 0x01061028 = true ∧ decodeLowWord 0x01061028 = .ok (.add 3 4 5) ∧
     let u := s.setCtx { s.ctx with frm := 0x1000, inFrame := true }
     (fetchWord (s.ctx.pc + 4 + BitVec.ofNat 64 (4 * 0))).run u = .ok (0x01061028, u)) ∧
    capturable 0xFA000000 = false ∧
    (let s := withWords (onMaster []) [0xFC001100, 0x01061028]
     let u := s.setCtx { s.ctx with frm := 0x1010, inFrame := true }
     u.ctx.inFrame = true ∧ u.ctx.frm.toNat / 16 % 256 = 1 ∧ (fetchWord (u.ctx.pc + 4)).run u = .ok (0x01061028, u)) ∧
    strideWord 0x01061028 1 0 0 = some 0x01081028 ∧ strideWord 0x01BE1028 1 0 0 = none :=
  ⟨⟨rfl, rfl⟩, rfl, ⟨rfl, rfl, rfl, rfl, rfl⟩, rfl, ⟨rfl, rfl, rfl⟩, rfl, rfl⟩

/-- The word of `ADDI s3, s4, 1` behind a prefix and of `CMPEQ q1, s11, -1`, and captured words of integers and of FP32. -/
theorem witness_PrefixesAndFrames_completes :
    (let s := withWords (onMaster []) [0xFE000001, 0x10061001]
     Ready .tm [.w 3, .r 4] { s with iw := 0x10061001, mode := .prefixed }) ∧
    (let s := withWords (onMaster []) [0xFE000001, 0x0922FF80]
     (fetchWord (s.ctx.pc + 4)).run s = .ok (0x0922FF80, s) ∧ decodeLowWord 0x0922FF80 = .ok (.cmpiEq 1 11 (-1)) ∧
       Ready .tm [.r 11] { s with iw := 0x0922FF80, mode := .prefixed }) ∧
    (∀ w ∈ [0x01061028, 0x10061001, 0x41061028],
      let s := withWords (onMaster []) [0xFC001100, w]
      let u := s.setCtx { s.ctx with frm := 0x1000, inFrame := true }
      capturable w = true ∧ (fetchWord (s.ctx.pc + 4)).run u = .ok (w, u) ∧ Ready .tm [.w 3, .r 4, .r 5] { u with iw := w, mode := .captured 2 2 }) ∧
    decodeLowWord 0x01061028 = .ok (.add 3 4 5) ∧ decodeLowWord 0x10061001 = .ok (.addi 3 4 1) ∧ decodeLowWord 0x41061028 = .ok (.fadd 1 3 4 5) := by
  refine ⟨ready_of (by decide +kernel), ⟨rfl, rfl, ready_of (by decide +kernel)⟩, ?_, rfl, rfl, rfl⟩
  intro w hw
  simp only [List.mem_cons, List.not_mem_nil, or_false] at hw
  rcases hw with rfl | rfl | rfl <;> exact ⟨rfl, rfl, ready_of (by decide +kernel)⟩

/-! Tiles, engines and units -/

/-- A thread with three FP32 tiles of eight elements: of 2 rows and 4 columns at bytes 0 and 256 of TIL, of 4 rows and 2 columns
at 512; an MXFP8 tile of 1 row and 32 columns at 768. -/
def withTiles (regs : Tab Nat Word) : State :=
  let s := onThread regs
  s.setCtx { s.ctx with ksh := [(0, 0x20041), (1, 0x1020041), (2, 0x2040021), (3, 0x5003010206)] }

/-- The rows of a tile of memory in the first page. -/
theorem reads_rows {s : State} {f : Nat → Nat} {n : Nat} (b : Nat → List Byte) (m : Nat)
    (h : (List.range m).all (fun i => (ids (f i) n).length == n && readsB s (f i) (ids (f i) n) &&
      (b i == ((ids (f i) n).map (·.2)).map (loadByte s))) = true) : ∀ i < m, ReadsAs s (f i) n (b i) := by
  simp only [List.all_eq_true, List.mem_range] at h
  exact fun i hi => readsAs_of (ids (f i) n) (h i hi)

theorem stores_rows {s : State} {f : Nat → Nat} {n : Nat} (k : Nat → List Nat) (m : Nat)
    (h : (List.range m).all (fun i => (ids (f i) n).length == n && hitsAllB (tlbSpur s.cur) .write (f i) s (ids (f i) n) &&
      atOnceB s (ids (f i) n) && (k i == (ids (f i) n).map (·.2))) = true) : ∀ i < m, StoresAt s (f i) n (k i) := by
  simp only [List.all_eq_true, List.mem_range] at h
  exact fun i hi => storesAt_of (ids (f i) n) (h i hi)

theorem keys_rows {s : State} {spur : Option Nat} {nd : Need} {f : Nat → Nat} {n : Nat} (k : Nat → List Nat) (m : Nat)
    (h : (List.range m).all (fun i => (ids (f i) n).length == n && (k i == (ids (f i) n).map (·.2)) && hitsAllB spur nd (f i) s (ids (f i) n) &&
      (ids (f i) n).all fun e => s.reach (homeOf e.1 e.2)) = true) : ∀ i < m, KeysFor spur nd s (f i) n (k i) := by
  simp only [List.all_eq_true, List.mem_range] at h
  exact fun i hi => keysFor_of (ids (f i) n) (h i hi)

theorem bytes_rows {s : State} {spur : Option Nat} {f : Nat → Nat} {n : Nat} (b : Nat → List Byte) (m : Nat)
    (h : (List.range m).all (fun i => ((ids (f i) n).length == n && (span (f i) n == (ids (f i) n).map (·.2)) &&
      hitsAllB spur .read (f i) s (ids (f i) n) && (ids (f i) n).all fun e => s.reach (homeOf e.1 e.2)) &&
      ((span (f i) n).all (fun k => !s.poisoned k && !s.spillKey k) && (b i == memGets s.mem (span (f i) n)))) = true) :
    ∀ i < m, BytesFor spur s (f i) n (b i) := by
  simp only [List.all_eq_true, List.mem_range] at h
  intro i hi
  have := h i hi
  rw [Bool.and_eq_true] at this
  exact bytesFor_of _ (keysFor_of (ids (f i) n) this.1) this.2

/-- A pointer to MXFP8 blocks of 32 with their scales, and one to integers of four bits. -/
theorem witness_TypedAccesses_narrow :
    (let s := onThread [(1, 0x6500000000000100), (2, 0x2000)]
     let f := ptrFmt (s.ctx.rs 1)
     Ready .tm [.vr 3, .r 1, .r 2] s ∧ fmtOk f (ptrBlg (s.ctx.rs 1)) = true ∧ (s.ctx.rs 1).toNat % 2 ^ 56 % max 1 (elemBits f / 8) = 0 ∧
       blocked f = true ∧ (∀ j < 4, ReadsAs s (typedScale (s.ctx.rs 1) (s.ctx.rs 2) j) 1 [0]) ∧
       (∀ j < 4, StoresAt s (typedAddr (s.ctx.rs 1) j % 2 ^ 56) 1 (span (typedAddr (s.ctx.rs 1) j % 2 ^ 56) 1)) ∧ elemBytes f = 1 ∧
       pendStores s.me < 32) ∧
    (let s := onThread [(1, 0xB000000000000100), (2, 0x2000)]
     let f := ptrFmt (s.ctx.rs 1)
     fmtOk f (ptrBlg (s.ctx.rs 1)) = true ∧ elemBits f = 4 ∧ elemBytes f = 1 ∧
       (∀ j < 4, ReadsAs s (typedAddr (s.ctx.rs 1) j % 2 ^ 56) 1 [0]) ∧
       (∀ j < 4, StoresAt s (typedAddr (s.ctx.rs 1) j % 2 ^ 56) 1 (span (typedAddr (s.ctx.rs 1) j % 2 ^ 56) 1))) :=
  ⟨⟨ready_of (by decide +kernel), by decide +kernel, by decide +kernel, by decide +kernel,
    reads_rows (f := fun j => typedScale _ _ j) _ 4 (by decide +kernel), stores_rows (f := fun j => typedAddr _ j % 2 ^ 56) _ 4 (by decide +kernel),
    by decide +kernel, by decide +kernel⟩, by decide +kernel, by decide +kernel, by decide +kernel,
    reads_rows (f := fun j => typedAddr _ j % 2 ^ 56) _ 4 (by decide +kernel), stores_rows (f := fun j => typedAddr _ j % 2 ^ 56) _ 4 (by decide +kernel)⟩

theorem witness_TileMoves :
    (let s := withTiles [(4, 0x400), (5, 0x10)]
     let p := s.spur (0, 0)
     let t (n : Nat) : Shape := shapeOf (tabGet s.ctx.ksh n 0)
     Ready .t [.r 1] s ∧ Ready .t [] s ∧ (t 0).start + (t 0).size ≤ p.size .til ∧ p.claimed .til (t 1).start (t 1).size = false ∧
       shapeValid (tabGet s.ctx.ksh 0 0) = true ∧ p.poisonAt .til (t 1).start (t 1).size = none ∧
       ((t 0).fmt = (t 1).fmt ∧ (t 0).rows = (t 1).rows ∧ (t 0).cols = (t 1).cols ∧ (t 0).blg = (t 1).blg) ∧
       ((t 2).rows = (t 0).cols ∧ (t 2).cols = (t 0).rows ∧ blocked (t 2).fmt = false) ∧
       Ready .t [.grp 4 2] s ∧ (∀ i < 2, ReadsAs s (rowVa (s.ctx.rs 4) (s.ctx.rs 5) i) 16 (List.replicate 16 0)) ∧
       (∀ i < 2, StoresAt s (rowVa (s.ctx.rs 4) (s.ctx.rs 5) i) 16 (span (0x400 + 16 * i) 16)) ∧ pendStores s.me < 32) ∧
    (let s := withTiles [(4, 0x6500000000000400), (5, 0x20), (6, 0x800), (7, 1)]
     let t := shapeOf (tabGet s.ctx.ksh 3 0)
     Ready .t [.grp 4 4] s ∧ blocked t.fmt = true ∧ shapeValid (tabGet s.ctx.ksh 3 0) = true ∧ ptrFmt (s.ctx.rs 4) = t.fmt ∧
       ptrBlg (s.ctx.rs 4) = t.blg ∧ typedIndex (rowPtr (s.ctx.rs 4) (s.ctx.rs 5) 0) 0 % 2 ^ t.blg = 0 ∧
       (∀ i < 1, ReadsAs s (rowVa (s.ctx.rs 6) (s.ctx.rs 7) i) 1 [0]) ∧
       (∀ i < 1, ∀ j < 32, ReadsAs s (typedAddr (rowPtr (s.ctx.rs 4) (s.ctx.rs 5) i) j % 2 ^ 56) 1 [0])) ∧
    (let s := withTiles [(4, 0xC000000000000400), (5, 0x20)]
     let f := ptrFmt (s.ctx.rs 4)
     fmtOk f (ptrBlg (s.ctx.rs 4)) = true ∧ f ≠ 1 ∧
       ∀ i < 2, ∀ j < 4, ReadsAs s (typedAddr (rowPtr (s.ctx.rs 4) (s.ctx.rs 5) i) j % 2 ^ 56) 8 (List.replicate 8 0)) ∧
    (let s := withTiles [(4, 0x400), (5, 0x200), (6, 0x2000000000200)]
     let p := s.spur (0, 0)
     let w := s.ctx.rs 6
     Ready .t [.grp 4 3] s ∧ winRow w + 2 ≤ 128 ∧ winCol w + 4 ≤ atCols 0 ∧ (0 + 1) * 65536 ≤ p.size .acc ∧
       p.claimed .acc 0 65536 = false ∧ p.poisonAt .acc 0 65536 = none ∧ acvtPair 0 1 = true ∧ acvtPair 0 6 = true) := by
  refine ⟨⟨ready_of (by decide +kernel), ready_of (by decide +kernel), by decide +kernel, by decide +kernel, by decide +kernel, by decide +kernel,
    by decide +kernel, by decide +kernel, ready_of (by decide +kernel), reads_rows _ 2 (by decide +kernel), stores_rows _ 2 (by decide +kernel),
    by decide +kernel⟩, ⟨ready_of (by decide +kernel), by decide +kernel, by decide +kernel, by decide +kernel, by decide +kernel,
    by decide +kernel, reads_rows _ 1 (by decide +kernel), fun i hi => ?_⟩, ⟨by decide +kernel, by decide +kernel, fun i hi => ?_⟩,
    ready_of (by decide +kernel), by decide +kernel, by decide +kernel, by decide +kernel, by decide +kernel, by decide +kernel,
    by decide +kernel, by decide +kernel⟩
  · obtain rfl : i = 0 := by omega
    exact reads_rows (f := fun j => typedAddr _ j % 2 ^ 56) _ 32 (by decide +kernel)
  · match i, hi with
    | 0, _ => exact reads_rows (f := fun j => typedAddr _ j % 2 ^ 56) _ 4 (by decide +kernel)
    | 1, _ => exact reads_rows (f := fun j => typedAddr _ j % 2 ^ 56) _ 4 (by decide +kernel)

theorem witness_ProductElements : (Mma.mk 0 2 false false 0 ⟨10, 4, 1, 0, 0⟩ ⟨10, 4, 1, 1, 0⟩ false).t = 2 ∧ (0 : Nat) < 4 ∧
    ([⟨false, 3, 0, false⟩, ⟨true, 5, 2, false⟩] : List Exact) ≠ [] ∧ ∀ x ∈ ([⟨false, 3, 0, false⟩, ⟨true, 5, 2, false⟩] : List Exact), (0 : Int) ≤ x.e := by
  refine ⟨rfl, by decide, by decide, ?_⟩
  simp

/-- The word of KMMA on accumulator 0 and tiles 0 and 1, of 8-bit integers. -/
def kmmaWord : Nat := 0xB8008104

/-- Four threads of spur 0 on cores 0 to 3 with one window and two INT8 tiles of a row of four; those of cores 1 to 3 are parked at
the record of GANGID 7, the one of core 0 at its pair. -/
def withGang : State :=
  let a (k : Nat) : AgentId := .slot 0 0 k 0
  let r : Agent := agent0 [(4, 0)]
  let r := { r with ctx := { r.ctx with ksh := [(0, 0x0001004A), (1, 0x0101004A)], gangid := 7, wlim := 5 } }
  let m (k : Nat) : GangMember := ⟨a k, kmmaWord, 0, 0x0001004A, 0x0101004A, false, 0⟩
  let s := onThread []
  let s := { s with
    agents := (.master 0 0, agent0 []) :: (List.range 4).map fun k => (a k, if k = 0 then r else { r with wait := .gang 7, wmode := .ganged })
    iw := kmmaWord, mode := .ganged }
  s.setDie 0 { s.die 0 with gangs := [⟨7, [0], .opened, [m 1, m 2, m 3], [], false, 0, 0, none⟩] }

def gang7 : Gang := (findGang withGang 0 7 [0]).getD (Gang.new 7 [0])

/-- The same complete, its operation not begun; begun; broken. -/
def fullGang : State := withGang.setDie 0 { withGang.die 0 with gangs :=
  [{ gang7 with state := .started, members := gang7.members ++ [⟨.slot 0 0 0 0, kmmaWord, 0, 0x0001004A, 0x0101004A, false, 0⟩] }] }
def startedGang (bad : Option Word) : State := withGang.setDie 0 { withGang.die 0 with gangs :=
  [{ gang7 with state := .started, begun := true, bad := bad }] }
def brokenGang : State := withGang.setDie 0 { withGang.die 0 with cycle := 9, gangs := [{ gang7 with state := .broken }] }
def lateGang : State := withGang.setDie 0 { withGang.die 0 with cycle := 9 }

theorem witness_GangOperations :
    (let s := withWords (onThread []) [0xBA000000, kmmaWord]
     isSlot s.cur = true ∧ (∃ u, (fetchWord (s.ctx.pc + 4)).run s = .ok (kmmaWord, u)) ∧ decodeLowWord kmmaWord = .ok (.kmma 0 0 1 0 0 2 4)) ∧
    isSlot (onMaster []).cur = false ∧ (onThread []).mode ≠ .ganged ∧
    (let s := withGang
     let t (n : Nat) : Shape := shapeOf (tabGet s.ctx.ksh n 0)
     s.mode = .ganged ∧ Ready .t [.r 4] s ∧ decodeLowWord s.iw = .ok (.kmma 0 0 1 0 0 2 4) ∧ (t 0).fmt = 10 ∧ (t 0).cols = (t 1).cols ∧
       pairOf (t 0).fmt (t 0).blg (t 1).fmt (t 1).blg = some (2, 32) ∧ (t 1).start + (t 1).size ≤ (s.spur (0, 0)).size .til ∧
       (0 + 1) * 65536 ≤ (s.spur (0, 0)).size .acc ∧ findGang s 0 7 [0] = some gang7 ∧ gang7.state = .opened ∧ gang7.spurs = [0] ∧
       gang7.gone = [] ∧ (gang7.members.map fun y => coreAt y.who).contains (coreAt s.cur) = false ∧ (gang7.members.map (·.who)).Nodup ∧
       (∀ y ∈ gang7.members, { y with who := s.cur } = (⟨s.cur, s.iw, 0, 0x0001004A, 0x0101004A, false, 0⟩ : GangMember) ∧ dieOf y.who = 0) ∧
       (∀ k ∈ List.range 4, (0, k) = coreAt s.cur ∨ (0, k) ∈ gang7.members.map fun y => coreAt y.who) ∧ s.defer = false ∧
       (∀ h ∈ (s.die 0).gangs, h.state ≠ .started ∧ h.begun = false) ∧ (s.die 0).cycle % 64 < mgateOf (s.die 0).level ∧
       mmaBlocked (s.spur (0, 0)) ⟨0, 2, false, false, 0, t 0, t 1, false⟩ = false ∧
       mmaPoison (s.spur (0, 0)) ⟨0, 2, false, false, 0, t 0, t 1, false⟩ false = none) ∧
    (let s := withGang.setDie 0 (withGang.die 1)
     findGang s 0 7 [0] = none ∧ gangRoom s 0 [0] = true ∧ ringSpurs 0 s.ctx.ring = some [0] ∧ (0 : Nat) ∈ s.myProg.quota ∧
       (s.spur (0, 0)).fenced = false) ∧
    (∃ g, findGang fullGang 0 7 [0] = some g ∧ mayStart fullGang 0 g = true) ∧
    (∀ bad ∈ [none, some 0x10], ∃ g, findGang (startedGang bad) 0 7 [0] = some g ∧ g.begun = true ∧ (g.members.map (·.who)).Nodup ∧ g.bad = bad ∧
      ∀ y ∈ g.members, inhibited ((startedGang bad).agent y.who).ctx = false ∧ handler ((startedGang bad).agent y.who).ctx ≠ 0) ∧
    (∀ x ∈ [(lateGang, GangState.opened), (brokenGang, .broken)],
      (x.1.agent (.slot 0 0 1 0)).wait = .gang 7 ∧ due x.1 (.slot 0 0 1 0) = true ∧ inhibited (x.1.agent (.slot 0 0 1 0)).ctx = false ∧
        handler (x.1.agent (.slot 0 0 1 0)).ctx ≠ 0 ∧
        ∃ g, findGang x.1 0 7 [0] = some g ∧ g.state = x.2 ∧ ∃ y ∈ g.members, y.who = .slot 0 0 1 0) ∧
    (let s := lateGang.setMe { lateGang.me with wait := .gangRoom 7 [0] }
     (s.agent s.cur).wait = .gangRoom 7 [0] ∧ due s s.cur = true) := by
  refine ⟨⟨rfl, ⟨_, rfl⟩, rfl⟩, rfl, by decide, ⟨rfl, ready_of (by decide +kernel), rfl, ?_⟩, by decide +kernel, ?_, ?_, ?_, by decide +kernel⟩
  · decide +kernel
  · exact ⟨_, rfl, by decide +kernel⟩
  · intro bad hb
    simp only [List.mem_cons, List.not_mem_nil, or_false] at hb
    rcases hb with rfl | rfl <;> exact ⟨_, rfl, rfl, by decide +kernel, rfl, by decide +kernel⟩
  · intro x hx
    simp only [List.mem_cons, List.not_mem_nil, or_false] at hx
    rcases hx with rfl | rfl <;>
      exact ⟨by decide +kernel, by decide +kernel, by decide +kernel, by decide +kernel, _, rfl, rfl, _, .head _, rfl⟩

/-- The state after the fetch of the second word of a pair. -/
def afterFetch (r : State) : State := match (fetchWord (r.ctx.pc + 4)).run r with
  | .ok (_, u) => u
  | .error _ => r

/-- The thread of `withGang` at its GANG, and at the KMMA of the pair. -/
def atGang : State := withWords { withGang with mode := .plain, iw := 0xB7000000 } [0xB7000000, kmmaWord]
def paired : State := { afterFetch atGang with iw := kmmaWord, mode := .ganged }

/-- The pair stalled while 16 records of its spur are open. -/
def stalledGang : State :=
  let s := withGang.setDie 0 { withGang.die 0 with cycle := 9, gangs := (List.range 16).map fun k => Gang.new (8 + k) [0] }
  s.setMe { s.me with wait := .gangRoom 7 [0] }

theorem witness_GangOperations_pair :
    (isSlot atGang.cur = true ∧ (fetchWord (atGang.ctx.pc + 4)).run atGang = .ok (kmmaWord, afterFetch atGang)) ∧
    (let s := paired
     let t (n : Nat) : Shape := shapeOf (tabGet s.ctx.ksh n 0)
     s.mode = .ganged ∧ Ready .t [.r 4] s ∧ decodeLowWord s.iw = .ok (.kmma 0 0 1 0 0 2 4) ∧
       findGang s 0 7 [0] = some gang7 ∧ s.defer = false ∧ (s.die 0).cycle % 64 < mgateOf (s.die 0).level ∧
       (∀ h ∈ (s.die 0).gangs, h.state ≠ .started ∧ h.begun = false) ∧
       mmaBlocked (s.spur (0, 0)) ⟨0, 2, false, false, 0, t 0, t 1, false⟩ = false ∧
       mmaPoison (s.spur (0, 0)) ⟨0, 2, false, false, 0, t 0, t 1, false⟩ false = none) ∧
    (gang7.full = false ∧ ∀ y ∈ gang7.members, bounded lateGang y.who = true) ∧
    (let s := lateGang.setMe { lateGang.me with wait := .gangRoom 7 [0] }
     gangStalls s 0 7 [0] = false ∧ due s s.cur = true) ∧
    (let s := stalledGang
     (s.agent s.cur).wait = .gangRoom 7 [0] ∧ due s s.cur = true ∧ gangStalls s 0 7 [0] = true ∧ inhibited (s.agent s.cur).ctx = false ∧
       handler (s.agent s.cur).ctx ≠ 0) := by
  refine ⟨⟨rfl, rfl⟩, ⟨rfl, ready_of (by decide +kernel), rfl, ?_⟩, ?_, ?_, ?_⟩ <;> decide +kernel

/-- The state that a meaning leaves. -/
def into' (o : Host.Outcome State Fault Refusal) : State := match o with
  | .next t => t
  | _ => State.reset

/-- A thread with a copy of 64 bytes from 0x400 to 0x800, counter at 0x900; the same, left in the queue of its spur. -/
def copying (regs : Tab Nat Word) : State := onThread ([(4, 0x800), (5, 0x400), (6, 64), (10, 0), (11, 0x900)] ++ regs)
def queued : State := into' (execCpy 3 4 10 { copying [] with defer := true })
def queuedNoCounter : State := into' (execCpy 3 4 10 { onThread [(4, 0x800), (5, 0x400), (6, 64), (10, 0)] with defer := true })
def queuedNowhere : State :=
  let s := queuedNoCounter
  { s.setProg (0, 0) { s.prog (0, 0) with ctx := 0x10000 } with bad := [16] }

/-- Rows of a destination that an engine may take for its own. -/
theorem writes_rows {s : State} {spur : Option Nat} {f : Nat → Nat} {n : Nat} (k : Nat → List Nat) (m : Nat)
    (h : (List.range m).all (fun i => (ids (f i) n).length == n && (k i == (ids (f i) n).map (·.2)) && hitsAllB spur .write (f i) s (ids (f i) n) &&
      (ids (f i) n).all fun e => s.reach (homeOf e.1 e.2)) = true)
    (q : (List.range m).all (fun i => ((k i).all fun x => s.reach (s.homeOfKey x)) && !claimedWord s (k i)) = true) :
    ∀ i < m, WritesFor spur s (f i) n (k i) := by
  simp only [List.all_eq_true, List.mem_range, Bool.and_eq_true, Bool.not_eq_true'] at q
  exact fun i hi => ⟨keys_rows (nd := .write) k m h i hi, (q i hi).1, (q i hi).2⟩

theorem writes_one {s : State} {spur : Option Nat} {va n : Nat} {keys : List Nat}
    (h : ((ids va n).length == n && (keys == (ids va n).map (·.2)) && hitsAllB spur .write va s (ids va n) &&
      (ids va n).all fun e => s.reach (homeOf e.1 e.2)) = true)
    (q : ((keys.all fun x => s.reach (s.homeOfKey x)) && !claimedWord s keys) = true) : WritesFor spur s va n keys := by
  simp only [Bool.and_eq_true, Bool.not_eq_true', List.all_eq_true] at q
  exact ⟨keysFor_of (ids va n) h, q.1, q.2⟩

theorem counter_of {s : State} {ctr : Nat} (h0 : ctr ≠ 0) (h8 : ctr % 8 = 0)
    (h : ((ids (ctr % 2 ^ 56) 8).length == 8 && (span (ctr % 2 ^ 56) 8 == (ids (ctr % 2 ^ 56) 8).map (·.2)) &&
      hitsAllB (tlbSpur s.cur) .atomic (ctr % 2 ^ 56) s (ids (ctr % 2 ^ 56) 8) &&
      (ids (ctr % 2 ^ 56) 8).all fun e => s.reach (homeOf e.1 e.2)) = true)
    (q : (∀ k ∈ span (ctr % 2 ^ 56) 8, keySpace k ≠ 1) ∧ (∀ k ∈ span (ctr % 2 ^ 56) 8, s.poisoned k = false ∧ s.spillKey k = false) ∧
      claimedWord s (span (ctr % 2 ^ 56) 8) = false) : Counter s ctr (span (ctr % 2 ^ 56) 8) := by
  rw [Counter, if_neg h0]
  exact ⟨h8, keysFor_of (ids (ctr % 2 ^ 56) 8) h, q⟩

/-- A thread of a spur whose copy queue is full. -/
def fullQueue : State :=
  let s := copying [(12, 2), (13, 0x40), (14, 0x80)]
  s.setSpur (0, 0) { s.spur (0, 0) with copyQ := List.replicate 16 (freshCmd s false) }

theorem witness_CopyCommands :
    (∀ s ∈ [copying [(12, 2), (13, 0x40), (14, 0x80)], fullQueue],
      Ready .t [.w 3, .grp 4 3, .grp 10 2] s ∧ Ready .t [.w 3, .grp 4 3, .grp 10 5] s ∧ Counter s 0x900 (span 0x900 8) ∧
       (s.ctx.rs 10).toNat % 4 = 0 ∧ s.owned = [] ∧ s.me.pend = [] ∧ s.me.wait = .none ∧ s.feWait = [] ∧ s.moves = [] ∧
       (∀ r < 2, WritesFor (tlbSpur s.cur) s (0x800 + 0x40 * r) 64 (span (0x800 + 0x40 * r) 64)) ∧
       (∀ r : Nat, r < 2 → ∀ q : Nat, q < 2 → 0 < 64 → (64 : Int) ≤ ((0x400 : Int) + q * 0x80 - (0x800 + r * 0x40)) % 2 ^ 56 ∧
         (64 : Int) ≤ ((0x800 : Int) + r * 0x40 - (0x400 + q * 0x80)) % 2 ^ 56) ∧
       (∀ r < 2, EngKeys .read s (0x400 + 0x80 * r) 64 (span (0x400 + 0x80 * r) 64)) ∧
       (∀ r < 2, ∀ k ∈ span (0x400 + 0x80 * r) 64, s.poisoned k = false ∧ s.spillKey k = false) ∧
       ∀ r < 2, ∀ q < 2, ∀ k ∈ span (0x800 + 0x40 * r) 64, k ∉ span (0x400 + 0x80 * q) 64) ∧
    (copying []).defer = false ∧ ((copying []).spur (copying []).mySpurKey).copyQ.length < 16 ∧
    16 ≤ (fullQueue.spur fullQueue.mySpurKey).copyQ.length ∧
    Ready .t [.w 3] queued ∧ (∃ x ∈ queued.spurs, x.1.1 = dieOf queued.cur ∧ ∃ c ∈ x.2.copyQ, ownCmd queued c = true) ∧
    (∀ x ∈ (copying []).spurs, x.1.1 = dieOf (copying []).cur → ∀ c ∈ x.2.copyQ, ownCmd (copying []) c = false) := by
  refine ⟨fun s hs => ⟨ready_of (by revert s hs; decide +kernel), ready_of (by revert s hs; decide +kernel),
    counter_of (ctr := 0x900) (by decide) (by decide) (by revert s hs; decide +kernel) (by revert s hs; decide +kernel), by revert s hs; decide +kernel,
    by revert s hs; decide +kernel, by revert s hs; decide +kernel, by revert s hs; decide +kernel, by revert s hs; decide +kernel,
    by revert s hs; decide +kernel, writes_rows (f := fun r => 0x800 + 0x40 * r) _ 2 (by revert s hs; decide +kernel) (by revert s hs; decide +kernel), by intros; omega,
    keys_rows (f := fun r => 0x400 + 0x80 * r) _ 2 (by revert s hs; decide +kernel), by revert s hs; decide +kernel, by decide +kernel⟩, by decide +kernel, by decide +kernel,
    by decide +kernel, ready_of (by decide +kernel), ?_, by decide +kernel⟩
  exact ⟨_, .head _, rfl, _, .head _, by decide +kernel⟩

/-- Copies that answer RANGE: a length, an unknown space on either side, ranges that meet, a row count; and copies from memory to SCR and
from TIL to memory. -/
theorem witness_CopyCommands_spaces :
    (∀ s ∈ [copying [], onThread [(4, 0x800), (5, 0x400), (6, 2 ^ 26 + 1), (11, 0x900)], onThread [(6, 64), (10, 3), (11, 0x900)],
        onThread [(6, 64), (10, 12), (11, 0x900)], onThread [(4, 0x800), (5, 0x820), (6, 64), (11, 0x900)],
        onThread [(6, 64), (11, 0x900), (12, 65537)]],
      Ready .t [.w 3, .grp 4 3, .grp 10 2] s ∧ Ready .t [.w 3, .grp 4 3, .grp 10 5] s ∧ (s.ctx.rs 11).toNat % 8 = 0 ∧ roPages s = [] ∧
        Counter s 0x900 (span 0x900 8)) ∧
    ((0x820 : Int) - 0x800) % 2 ^ 56 < 64 ∧
    (let s := onThread [(4, 0x80), (5, 0x400), (6, 64), (10, 1), (11, 0x900)]
     Ready .t [.w 3, .grp 4 3, .grp 10 2] s ∧ Counter s 0x900 (span 0x900 8) ∧ s.owned = [] ∧ s.me.pend = [] ∧ s.me.wait = .none ∧
       s.feWait = [] ∧ s.moves = [] ∧ (s.spur (0, 0)).claims = [] ∧ (s.spur (0, 0)).notice.pending = false ∧
       (s.spur (0, 0)).copyQ.length < 16 ∧ s.defer = false ∧ (0 : Int) ≤ 0x80 ∧ 0x80 + 64 ≤ (s.spur (0, 0)).size .scr ∧
       (∀ r < 1, EngKeys .read s (0x400 + r) 64 (span (0x400 + r) 64)) ∧ ∀ k ∈ span 0x400 64, s.poisoned k = false ∧ s.spillKey k = false) ∧
    (let s := onThread [(4, 0x800), (5, 0x80), (6, 64), (10, 8), (11, 0)]
     Ready .t [.w 3, .grp 4 3, .grp 10 2] s ∧ 0x80 + 64 ≤ (s.spur (0, 0)).size .til ∧
       (∀ r < 1, WritesFor (tlbSpur s.cur) s (0x800 + r) 64 (span (0x800 + r) 64)) ∧ (s.spur (0, 0)).poisonAt .til 0x80 64 = none) :=
  ⟨fun s hs => ⟨ready_of (by revert s hs; decide +kernel), ready_of (by revert s hs; decide +kernel), by revert s hs; decide +kernel,
      by revert s hs; decide +kernel, counter_of (ctr := 0x900) (by decide) (by decide) (by revert s hs; decide +kernel) (by revert s hs; decide +kernel)⟩,
    by decide +kernel,
    ⟨ready_of (by decide +kernel), counter_of (ctr := 0x900) (by decide) (by decide) (by decide +kernel) (by decide +kernel), by decide +kernel, by decide +kernel,
      by decide +kernel, by decide +kernel, by decide +kernel, by decide +kernel, by decide +kernel, by decide +kernel, by decide +kernel, by decide +kernel,
      by decide +kernel, keys_rows (f := fun r => 0x400 + r) _ 1 (by decide +kernel), by decide +kernel⟩,
    ready_of (by decide +kernel), by decide +kernel, writes_rows (f := fun r => 0x800 + r) _ 1 (by decide +kernel) (by decide +kernel), by decide +kernel⟩

theorem witness_GatherAndScan :
    (let s := onThread [(4, 0x400), (5, 2), (6, 1 * 2 ^ 32 + 2), (10, 0x800), (11, 8), (12, 8), (13, 0), (14, 0)]
     Ready .t [.w 3, .grp 4 3, .grp 10 5] s ∧ Counter s 0 [] ∧ s.owned = [] ∧ s.me.pend = [] ∧ s.me.wait = .none ∧ s.feWait = [] ∧
       s.moves = [] ∧ (s.spur (0, 0)).notice.pending = false ∧
       (s.spur (0, 0)).claims = [] ∧ 0 + 2 * 8 ≤ (s.spur (0, 0)).size .til ∧ (s.spur (0, 0)).gathQ.length < 16 ∧
       (∀ r < 2, EngReads s (0x400 + 4 * r) 4 [0, 0, 0, 0]) ∧ EngReads s 0x800 8 (List.replicate 8 0)) ∧
    (let s := onThread [(4, 0x100), (5, 2), (6, 1 * 2 ^ 32 + 6)]
     (6 : Nat) / 4 % 2 = 1 ∧ 0x100 + 2 * 4 ≤ (s.spur (0, 0)).size .scr ∧
       ∀ r < 2, ((s.spur (0, 0)).wr .til 0 [1, 2, 3, 4, 5, 6, 7, 8]).poisonAt .scr (0x100 + 4 * r) 4 = none) ∧
    (let s := onThread [(4, 0x4000000000000400), (5, 3), (10, 0x40), (11, 7)]
     Ready .t [.w 3, .grp 4 2, .grp 10 2] s ∧ ptrFmt (s.ctx.rs 4) ∈ [1, 2, 3, 4, 5, 10, 12] ∧ ptrBlg (s.ctx.rs 4) = 0 ∧
       0x40 + 4 * 3 ≤ (s.spur (0, 0)).size .scr ∧ (s.spur (0, 0)).claimed .scr 0x40 12 = false ∧
       ∀ j < 3, ReadsAs s (typedAddr (s.ctx.rs 4) j % 2 ^ 56) 1 [0]) ∧
    (∃ c ∈ (queuedNoCounter.spur (0, 0)).copyQ, c.key = (0, 0) ∧ (queuedNoCounter.spur (0, 0)).copyQ[0]? = some c ∧
      c.refused = none ∧ c.wait = none ∧ c.data = false ∧ c.ctr = 0 ∧ queuedNoCounter.feWait = [] ∧ (match c.move.run queuedNoCounter with | .ok ((), _) => true | _ => false) = true) ∧
    (∃ c ∈ (queuedNowhere.spur (0, 0)).copyQ, c.key = (0, 0) ∧ (queuedNowhere.spur (0, 0)).copyQ[0]? = some c ∧
      (c.stops queuedNowhere).isSome = true) ∧
    (let s := onThread []
     let r : UnitReq := ⟨.nzscan, 0, 3, [0x4000000000000400, 3, 0x40, 7], [], none, none⟩
     ((s.setMe { s.me with wait := .unit r }).agent s.cur).wait = .unit r ∧ r.op = .nzscan) := by
  refine ⟨⟨ready_of (by decide +kernel), rfl, by decide +kernel, by decide +kernel, by decide +kernel, by decide +kernel, by decide +kernel,
    by decide +kernel, by decide +kernel, by decide +kernel, by decide +kernel, bytes_rows _ 2 (by decide +kernel), bytesFor_of (span 0x800 8) (keysFor_of (ids 0x800 8) (by decide +kernel)) (by decide +kernel)⟩,
    by decide +kernel, ⟨ready_of (by decide +kernel), by decide +kernel, by decide +kernel, by decide +kernel, by decide +kernel,
    reads_rows (f := fun j => typedAddr _ j % 2 ^ 56) _ 3 (by decide +kernel)⟩, ?_, ?_, by decide +kernel⟩
  · exact ⟨_, .head _, by decide +kernel, rfl, by decide +kernel, by decide +kernel, by decide +kernel, by decide +kernel, by decide +kernel,
      by decide +kernel⟩
  · exact ⟨_, .head _, by decide +kernel, rfl, by decide +kernel⟩

theorem witness_GatherAndScan_cases :
    (∀ s ∈ [onThread [(4, 0x400), (5, 2), (6, 6), (10, 0x800), (11, 8), (12, 8)], onThread [(4, 0x100), (5, 2), (6, 6), (10, 0x800), (11, 0), (12, 8)],
        (onThread [(4, 0x100), (5, 2), (6, 6), (10, 0x800), (11, 8), (12, 8)]).setSpur (0, 0)
          { spur0 with gathQ := List.replicate 16 (freshCmd (onThread []) true) }],
      Ready .t [.w 3, .grp 4 3, .grp 10 5] s ∧ Counter s 0 [] ∧ (s.ctx.rs 14).toNat = 0 ∧ s.owned = [] ∧ s.me.pend = [] ∧ s.me.wait = .none ∧ s.feWait = [] ∧
       s.moves = [] ∧ (s.spur (0, 0)).notice.pending = false ∧ (s.spur (0, 0)).claims = [] ∧ 2 * 8 ≤ (s.spur (0, 0)).size .til ∧
       0x400 + 2 * 4 ≤ (s.spur (0, 0)).size .scr ∧ { s with defer := true }.defer = true) ∧
    16 ≤ ((onThread []).setSpur (0, 0) { spur0 with gathQ := List.replicate 16 (freshCmd (onThread []) true) }
      |>.spur (0, 0)).gathQ.length ∧
    (∃ c ∈ (queuedNoCounter.spur (0, 0)).copyQ, c.log = none) ∧
    (let s := (onThread [(4, 0x4000000000000400), (5, 65537), (10, 0x40), (11, 7)]).setSpur (0, 0) { spur0 with
       roles := spur0.roles ++ (List.range 8).map fun k => (5 + k, .scr), places := spur0.places ++ (List.range 8).map fun k => (5 + k, 1 + k) }
     Ready .t [.w 3, .grp 4 2, .grp 10 2] s ∧ 0x40 + 4 * 65537 ≤ (s.spur (0, 0)).size .scr) ∧
    (let s := { onThread [(4, 0x4000000000000400), (5, 3), (10, 0x40), (11, 7)] with defer := true }
     Ready .t [.w 3, .grp 4 2, .grp 10 2] s) :=
  ⟨fun s hs => ⟨ready_of (by revert s hs; decide +kernel), rfl, by revert s hs; decide +kernel⟩, by decide +kernel, ⟨_, .head _, by decide +kernel⟩,
    ⟨ready_of (by decide +kernel), by decide +kernel⟩, ready_of (by decide +kernel)⟩

theorem idle_of {s : State} (h : s.owned = [] ∧ s.me.pend = [] ∧ s.me.refused = none ∧ s.moves = []) : Idle s := h

/-- A session of the program, number 2, open, with four triples taken and room for eight. -/
def sess2 : Session :=
  { core := 0, num := 2, rowptr := 0x400, colidx := 0x440, values := 0x480, capnnz := 4, extents := [(0x600, 128)], nrows := 5, ncols := 7
    cap := 8, efmt := 0, op := 0, trapsf := false, state := .opened, pos := [(3, 10)], onchip := 4, runs := 0, spilt := 0, bad := false
    accepted := 4, flags := 0, entries := [], merge := none }
def withSess (s : State) (x : Session) : State := s.setDie 0 { s.die 0 with arete := [x] }

/-- A thread with three triples at 0x20 of its SCR, the session as given. -/
def putting (x : Session) : State :=
  let s := withSess (onThread [(4, 2), (5, 3), (10, 0x20), (11, 3)]) x
  let bs := [(4, 1, 0x3F800000), (0, 6, 0x40), (4, 1, 0x40000000)].flatMap fun (r, c, v) => leBytes 4 r ++ leBytes 4 c ++ leBytes 8 v
  s.setSpur (0, 0) ((s.spur (0, 0)).wr .scr 0x20 bs)
def mine2 (y : Session) : Bool := y.core == 0 && y.num == 2

/-- A master whose descriptor at 0x400 asks for a session of 5 rows and 7 columns into arrays at 0x100, 0x140 and 0x180. -/
def openBytes : List Byte := [0x100, 0x140, 0x180, 4, 0, 0, 5 + 7 * 2 ^ 32, 8].flatMap (leBytes 8)
def opening : State := let s := onMaster [(4, 0x400)]; { s with mem := memSets s.mem (span 0x400 64) openBytes }

theorem witness_SessionCommands :
    (Ready .tm [.w 3, .r 4] opening ∧ 0x400 % 64 = 0 ∧ ReadsAs opening 0x400 64 openBytes ∧ opening.defer = false ∧
      (sessionOf 0 0 openBytes).isSome = true) ∧
    (let s := withSess (onThread [(4, 2), (10, 0x700), (11, 64)]) sess2
     Ready .tm [.w 3, .r 4, .grp 10 2] s ∧ (s.die 0).arete.find? mine2 = some sess2 ∧ sess2.state = .opened ∧ sess2.extents.length < 16 ∧
       Ready .tm [.w 3, .r 4, .r 12] s ∧ s.ctx.rs 12 = 0) ∧
    (let s := onThread [(4, 2), (10, 0x700), (11, 64)]
     (s.die 0).arete.find? mine2 = none) ∧
    (∀ y ∈ [SessState.opened, .ended, .merging],
      (withSess (onThread []) { sess2 with state := y }).myKey.2 = 0 ∧
      ((withSess (onThread []) { sess2 with state := y }).die 0).arete.find? mine2 = some { sess2 with state := y }) ∧
    (let s := putting sess2
     Ready .t [.w 3, .grp 4 2, .grp 10 2] s ∧ Idle s ∧ 0x20 + 16 * 3 ≤ (s.spur (0, 0)).size .scr ∧ (s.spur (0, 0)).claimed .scr 0x20 48 = false ∧
       (s.spur (0, 0)).poisonAt .scr 0x20 48 = none ∧ s.defer = false ∧ (s.die 0).arete.find? mine2 = some sess2 ∧
       sess2.onchip + 3 ≤ sess2.cap ∧
       ∀ t ∈ triples 3 ((s.spur (0, 0)).rd .scr 0x20 48), t.1 < sess2.nrows ∧ t.2.1 < sess2.ncols) ∧
    (let x := { sess2 with onchip := 6 }
     (((putting x).die 0).arete.find? mine2 = some x ∧ x.cap < x.onchip + 3 ∧ x.runs < 4096 ∧ x.free < (64 + 16 * x.onchip + 63) / 64 * 64)) ∧
    (let x := { sess2 with ncols := 6 }
     let ts := triples 3 (((putting x).spur (0, 0)).rd .scr 0x20 48)
     ∃ t, ts[1]? = some t ∧ x.ncols ≤ t.2.1 ∧ ∀ j < 1, ∀ t ∈ ts[j]?, t.1 < x.nrows ∧ t.2.1 < x.ncols) ∧
    (let x := { sess2 with state := .ended, entries := [⟨4, 1, 3, 0, 5⟩, ⟨0, 6, 3, 1, 7⟩] }
     let s := withSess (onMaster [(4, 2)]) x
     Ready .tm [.w 3, .r 4, .r 12] s ∧ Idle s ∧ (s.die 0).arete.find? mine2 = some x ∧ x.merge = none ∧ x.bad = false ∧
       KeysFor none .write s x.rowptr 24 (span 0x400 24) ∧ KeysFor none .write s x.colidx 16 (span 0x440 16) ∧
       KeysFor none .write s x.values 16 (span 0x480 16) ∧
       ∀ va n, (va, n) ∈ [(x.rowptr, 24), (x.colidx, 16), (x.values, 16)] → ∃ ks, KeysFor (tlbSpur s.cur) .write s va n ks) ∧
    (∀ op ∈ [UnitOp.mgopen, .mgput, .mgfin],
      let s := onMaster []
      let r : UnitReq := ⟨op, 0, 3, [], [], none, none⟩
      ((s.setMe { s.me with wait := .unit r }).agent s.cur).wait = .unit r ∧ r.page = none) := by
  refine ⟨⟨ready_of (by decide +kernel), rfl, readsAs_of (ids 0x400 64) (by decide +kernel), rfl, by decide +kernel⟩,
    ⟨ready_of (by decide +kernel), by decide +kernel, rfl, by decide, ready_of (by decide +kernel), by decide +kernel⟩, by decide +kernel,
    by decide +kernel, ⟨ready_of (by decide +kernel), idle_of (by decide +kernel), by decide +kernel⟩, by decide +kernel, ?_,
    ⟨ready_of (by decide +kernel), idle_of (by decide +kernel), by decide +kernel, rfl, rfl, keysFor_of (ids 0x400 24) (by decide +kernel),
      keysFor_of (ids 0x440 16) (by decide +kernel), keysFor_of (ids 0x480 16) (by decide +kernel), ?_⟩, by decide +kernel⟩
  · exact ⟨_, rfl, by decide +kernel, by decide +kernel⟩
  · intro va n h
    simp only [List.mem_cons, List.not_mem_nil, or_false, Prod.mk.injEq] at h
    rcases h with ⟨rfl, rfl⟩ | ⟨rfl, rfl⟩ | ⟨rfl, rfl⟩
    · exact ⟨_, keysFor_of (keys := span 0x400 24) (ids 0x400 24) (by decide +kernel)⟩
    · exact ⟨_, keysFor_of (keys := span 0x440 16) (ids 0x440 16) (by decide +kernel)⟩
    · exact ⟨_, keysFor_of (keys := span 0x480 16) (ids 0x480 16) (by decide +kernel)⟩

/-- Sessions that a batch of three triples finds: with room, too small for it, closed, in need of a spill, with an area for it and without. -/
def spilling : Session := { sess2 with onchip := 6, extents := [(0x600, 256)] }

theorem witness_SessionCommands_cases :
    (let s := { opening with defer := true }
     Ready .tm [.w 3, .r 4] s ∧ ReadsAs s 0x400 64 openBytes) ∧
    (let s := { onThread [(4, 2), (10, 0x700), (11, 64)] with defer := true }
     Ready .tm [.w 3, .r 4, .grp 10 2] s ∧ Ready .tm [.w 3, .r 4, .r 10] s) ∧
    (∀ k ∈ List.range 7, let s := withSess (onThread [(4, 2), (10, BitVec.ofNat 64 k), (11, 64)]) sess2
      Ready .tm [.w 3, .r 4, .grp 10 2] s ∧ (s.ctx.rs 10).toNat = k ∧ Ready .tm [.w 3, .r 4, .r 10] s) ∧
    (∀ op ∈ [UnitOp.mgopen, .mgarea, .mgend, .mgstat],
      let s := onMaster []
      let r : UnitReq := ⟨op, 0, 3, [], [], none, none⟩
      ((s.setMe { s.me with wait := .unit r }).agent s.cur).wait = .unit r ∧ r.op = op) ∧
    (∀ x ∈ [sess2, { sess2 with cap := 2 }, { sess2 with state := .ended }, spilling, { spilling with runs := 4096 }, { spilling with extents := [] },
        { spilling with extents := [], trapsf := true }],
      let s := putting x
      Ready .t [.w 3, .grp 4 2, .grp 10 2] s ∧ Idle s ∧ (s.spur (0, 0)).claimed .scr 0x20 48 = false ∧ (s.spur (0, 0)).poisonAt .scr 0x20 48 = none ∧
        s.defer = false ∧ (s.die 0).arete.find? mine2 = some x ∧ { s with defer := true }.defer = true) ∧
    ((putting sess2).setDie 0 Die.blank).die 0 = Die.blank ∧ Die.blank.arete.find? mine2 = none ∧
    (let x := spilling
     let spill := (64 + 16 * x.onchip + 63) / 64 * 64
     x.cap < x.onchip + 3 ∧ x.runs < 4096 ∧ x.spilt + spill ≤ 256 ∧ (∀ z ∈ ((putting x).die 0).arete, mine2 z = true ∨ z.extents = []) ∧
       WritesFor none (putting x) 0x600 192 (span 0x600 192) ∧ spill = 192 ∧ { x with extents := [] }.free < spill) ∧
    (let x := { sess2 with state := .ended, entries := [⟨4, 1, 3, 0, 5⟩, ⟨0, 6, 3, 1, 7⟩] }
     let s := withSess (onMaster [(4, 2)]) x
     s.defer = false ∧ x.intact (mergeDests x x.rowptr x.colidx x.values x.capnnz) = true ∧
       (∀ y ∈ (s.die 0).arete, mine2 y = true ∨ y.extents = []) ∧ WritesFor none s x.rowptr 24 (span 0x400 24) ∧
       WritesFor none s x.colidx 16 (span 0x440 16) ∧ WritesFor none s x.values 16 (span 0x480 16)) :=
  ⟨⟨ready_of (by decide +kernel), readsAs_of (ids 0x400 64) (by decide +kernel)⟩, ⟨ready_of (by decide +kernel), ready_of (by decide +kernel)⟩,
    fun k hk => ⟨ready_of (by revert k hk; decide +kernel), by revert k hk; decide +kernel, ready_of (by revert k hk; decide +kernel)⟩,
    by decide +kernel,
    fun x hx => ⟨ready_of (by revert x hx; decide +kernel), idle_of (by revert x hx; decide +kernel), by revert x hx; decide +kernel⟩,
    by decide +kernel, by decide +kernel,
    ⟨by decide +kernel, by decide +kernel, by decide +kernel, by decide +kernel, writes_one (by decide +kernel) (by decide +kernel), by decide +kernel⟩,
    ⟨by decide +kernel, by decide +kernel, by decide +kernel, writes_one (by decide +kernel) (by decide +kernel),
      writes_one (by decide +kernel) (by decide +kernel), writes_one (by decide +kernel) (by decide +kernel)⟩⟩

/-- A master with two rows of three scores, and with three indices, at 0x400. -/
def gating (regs : Tab Nat Word) (xs : List Nat) : State :=
  let s := onMaster regs
  { s with mem := memSets s.mem (span 0x400 (4 * xs.length)) (xs.flatMap (leBytes 4)) }
def scores : List Nat := [0x3F800000, 0xBF800000, 0x7FC00000, 0x40000000, 0x80000000, 0]

theorem witness_GateOperations :
    (let s := gating [(4, 0x400), (5, 2), (6, 3), (7, 2), (10, 0x800), (11, 0x900)] scores
     Ready .tm [.w 3, .grp 4 4, .grp 10 2] s ∧ Idle s ∧ s.defer = false ∧ (s.die 0).gateQ = [] ∧
       (∀ i < 6, BytesFor none s ((0x400 + 4 * i) % 2 ^ 56) 4 (leBytes 4 (scores.getD i 0))) ∧ (∀ i < 6, scores.getD i 0 < 2 ^ 32) ∧
       KeysFor none .write s 0x800 16 (span 0x800 16) ∧ NoRo s ∧ KeysFor none .write s 0x900 16 (span 0x900 16)) ∧
    (let s := gating [(4, 0x400), (5, 3), (6, 4), (10, 0x800)] [3, 1, 3]
     Ready .tm [.w 3, .grp 4 3, .grp 10 2] s ∧ (∀ i < 3, BytesFor none s ((0x400 + 4 * i) % 2 ^ 56) 4 (leBytes 4 ([3, 1, 3].getD i 0))) ∧
       KeysFor none .write s 0x800 16 (span 0x800 16) ∧ KeysFor none .write s 0x800 12 (span 0x800 12)) ∧
    (let s := gating [] [3, 7, 3]
     s.myProg.spawning = false ∧ 4 ≤ [3, 7, 3].getD 1 0 ∧ ∀ j < 1, [3, 7, 3].getD j 0 < 4) ∧
    (∀ x ∈ scores, x < 2 ^ 32) ∧
    (let s := onMaster []
     let r : UnitReq := ⟨.gtopk, 0, 3, [], [], none, none⟩
     let u := (s.setMe { s.me with wait := .unit r }).setDie 0 { s.die 0 with gateQ := [s.cur] }
     (u.die 0).gateQ = [s.cur] ∧ (u.agent s.cur).wait = .unit r) := by
  refine ⟨⟨ready_of (by decide +kernel), idle_of (by decide +kernel), rfl, by decide +kernel, bytes_rows _ 6 (by decide +kernel), by decide +kernel,
    keysFor_of (ids 0x800 16) (by decide +kernel), by intro h; exact absurd h (by decide +kernel), keysFor_of (ids 0x900 16) (by decide +kernel)⟩,
    ⟨ready_of (by decide +kernel), bytes_rows _ 3 (by decide +kernel), keysFor_of (ids 0x800 16) (by decide +kernel),
      keysFor_of (ids 0x800 12) (by decide +kernel)⟩, by decide +kernel, by decide +kernel, by decide +kernel⟩

theorem witness_GateOperations_cases :
    (let s := gating [(4, 0x400), (5, 2), (6, 3), (7, 4), (10, 0x800), (11, 0x900)] scores
     Ready .tm [.w 3, .grp 4 4, .grp 10 2] s ∧ ¬ (4 : Nat) ≤ 3) ∧
    (let s := gating [(4, 0x400), (5, 2), (6, 3), (7, 2), (10, 0x800), (11, 0x900)] scores
     WritesFor none s 0x800 16 (span 0x800 16) ∧ WritesFor none s 0x900 16 (span 0x900 16)) ∧
    (∀ s ∈ [gating [(4, 0x400), (5, 8388609), (6, 4), (10, 0x800)] [], gating [(4, 0x400), (5, 3), (6, 0), (10, 0x800)] [],
        gating [(4, 0x400), (5, 3), (6, 257), (10, 0x800)] []], Ready .tm [.w 3, .grp 4 3, .grp 10 2] s) ∧
    (let s := gating [(4, 0x400), (5, 3), (6, 4), (10, 0x800)] [3, 1, 3]
     Idle s ∧ NoRo s ∧ (s.die 0).gateQ = [] ∧ roPages s = [] ∧ WritesFor none s 0x800 16 (span 0x800 16) ∧ WritesFor none s 0x800 12 (span 0x800 12)) ∧
    (let s := gating [(4, 0x400), (5, 3), (6, 4), (10, 0x800)] [3, 7, 3]
     Ready .tm [.w 3, .grp 4 3, .grp 10 2] s ∧ roPages s = [] ∧
       ∀ i < 3, BytesFor none s ((0x400 + 4 * i) % 2 ^ 56) 4 (leBytes 4 ([3, 7, 3].getD i 0))) :=
  ⟨⟨ready_of (by decide +kernel), by decide⟩, ⟨writes_one (by decide +kernel) (by decide +kernel), writes_one (by decide +kernel) (by decide +kernel)⟩,
    fun s hs => ready_of (by revert s hs; decide +kernel),
    ⟨idle_of (by decide +kernel), by intro h; exact absurd h (by decide +kernel), by decide +kernel, by decide +kernel,
      writes_one (by decide +kernel) (by decide +kernel), writes_one (by decide +kernel) (by decide +kernel)⟩,
    ready_of (by decide +kernel), by decide +kernel, bytes_rows _ 3 (by decide +kernel)⟩

/-- The header of a tree of eight nodes with `used` of them, in epoch 6. -/
def header8 (used flags : Nat) : Nat :=
  8 + used * 2 ^ 32 + 6 * 2 ^ 96 + 0x3F800000 * 2 ^ 128 + 0x3F000000 * 2 ^ 160 + 0x3F800000 * 2 ^ 192 + flags * 2 ^ 224

/-- A state with tree 5 of the program at 0x4000, its nodes as given. -/
def withTree (s : State) (flags : Nat) (nodes : List Node) : State :=
  let m := memSets s.mem (span 0x4000 64) (leBytes 64 (header8 nodes.length flags))
  let s := { s with mem := memSets m (span 0x4040 (32 * nodes.length)) (nodes.flatMap fun n => leBytes 32 (Node.toNat n)) }
  s.setDie 0 { s.die 0 with trees :=
    [⟨0, 5, 0x4000, 8, 0x3F800000, 0x3F000000, 0x3F800000, flags.testBit 1, flags.testBit 2, 6, false⟩] }

def leaf0 : Node := ⟨3, 0x3F800000, 7, 1, 2 ^ 32 - 1, 2 ^ 32 - 1, 9, 0, 0, 0, 77⟩
/-- The conditions of `TreeReady` on each byte of the region, computed. -/
def treeB (s : State) (o : Nat) : Bool :=
  let e := ids (0x4000 + o) 1
  e.length == 1 && hitsAllB none .atomic ((0x4000 + o) % 2 ^ 56) s e && (e.all fun x => s.reach (homeOf x.1 x.2)) &&
    (!s.poisoned (0x4000 + o) && !s.ownedLine (0x4000 + o) && !claimedWord s [0x4000 + o])

def keyOf (o : Nat) : Nat := 0x4000 + o

theorem treeReady_of {s : State} {t : Tree} (h : (List.range 576).all (treeB s) = true)
    (f : findTree s 5 = some t ∧ t.cap = 8 ∧ t.region = 0x4000 ∧ t.bad = false ∧ otherOps s 5 = [] ∧ Idle s ∧ s.defer = false)
    (q : ∀ va e k, va < 2 ^ 48 → Hits .none va s e k → pteRoSpawn e = false) : TreeReady s 5 t keyOf := by
  obtain ⟨h1, h2, h3, h4, h6, h7, h8⟩ := f
  simp only [List.all_eq_true, List.mem_range] at h
  have hb : ∀ o, o < 64 + 64 * t.cap → treeB s o = true := fun o ho => h o (by omega)
  refine ⟨h1, by decide, by omega, h4, h6, ?_, ?_, ?_, h7, h8, ?_⟩
  · intro o ho
    have := hb o ho
    simp only [treeB, Bool.and_eq_true] at this
    rw [h3]
    exact keysFor_of (keys := [keyOf o]) (ids (0x4000 + o) 1) (by
      simp only [Bool.and_eq_true]
      exact ⟨⟨⟨by simp [ids, span], by simp [ids, span, keyOf]⟩, this.1.1.2⟩, this.1.2⟩)
  · intro o _ q _ he; simpa [keyOf] using he
  · intro o ho
    have := hb o ho
    simp only [treeB, Bool.and_eq_true, Bool.not_eq_true'] at this
    exact ⟨this.2.1.1, this.2.1.2, this.2.2⟩
  · intro _ o ho e k hk
    exact q _ _ _ (by omega) hk

/-- The one entry of the TLBs is writable to a spawn. -/
theorem hits_page0 {s : State} (ht : s.tlb = [page0]) {nd : Need} {va e k : Nat} (h : Hits nd va s e k) : pteRoSpawn e = false := by
  obtain ⟨_, _, ⟨t, hf, rfl, _⟩, _⟩ := h
  have : t ∈ s.tlb := by
    exact List.mem_of_find?_eq_some hf
  rw [ht] at this
  simp at this
  subst this
  decide


/-- A program with tree 5: an expanded root and its one child; the path of that child at 0x100, two children to add at 0x300. -/
def pathTo (claim : Bool) : List Byte := leBytes 8 (pathWord 6 5 2 claim) ++ leBytes 4 0 ++ leBytes 4 1 ++ List.replicate 248 0
def batch : List Byte := (List.range 2).flatMap fun j => leBytes 2 (100 + j) ++ leBytes 2 0 ++ leBytes 4 (1000 + j)
def trees (s : State) (flags st : Nat) : State :=
  withTree s flags [{ leaf0 with state := 2, first := 1, nch := 1, parent := 2 ^ 32 - 1 }, { leaf0 with state := st, parent := 0 }]
def tree5 (s : State) : Tree := (findTree s 5).getD ⟨0, 0, 0, 0, 0, 0, 0, false, false, 0, false⟩
def treeThread (claim : Bool) (regs : Tab Nat Word) (flags st : Nat) : State :=
  let s := trees (onThread ([(4, 5), (5, 0x100)] ++ regs)) flags st
  s.setSpur (0, 0) (((s.spur (0, 0)).wr .scr 0x100 (pathTo claim)).wr .scr 0x300 batch)
def treeMaster (regs : Tab Nat Word) (st : Nat) : State := trees (onMaster regs) 0 st

theorem place_thread {s : State} {loc n : Nat} {bs : List Byte} (hs : isSlot s.cur = true)
    (h : let p := s.spur s.mySpurKey
      loc + n ≤ p.size .scr ∧ p.claimed .scr loc n = false ∧ p.poisonAt .scr loc n = none ∧ bs = p.rd .scr loc n) : PlaceBytes s loc n bs := by
  simpa [PlaceBytes, hs] using h

theorem witness_TreeUpdates :
    (let s := treeThread true [(10, 0x300), (11, 2)] 0 1
     let t := tree5 s
     TreeReady s 5 t keyOf ∧ Ready .tm [.w 3, .grp 4 2, .grp 10 2] s ∧ PlaceBytes s 0x100 264 (pathTo true) ∧ PlaceBytes s 0x300 16 batch ∧
       Memory.wf s.mem = true ∧ (s.ctx.rs 4).toNat = 5 ∧ [0, 1].Nodup ∧
       let h := leNat (memGets s.mem (hdrKeys keyOf))
       let nd := Node.ofNat (leNat (memGets s.mem (nodeKeys t keyOf (hHalf h) 1)))
       bits (leNat ((pathTo true).take 8)) 63 32 = hEpoch h ∧ nd.state = nPENDING ∧ hUsed h + 2 ≤ t.cap ∧ 1 < hUsed h) ∧
    (let s := treeThread false [(10, 0x300), (11, 7)] 4 0
     let t := tree5 s
     TreeReady s 5 t keyOf ∧ PlaceBytes s 0x100 264 (pathTo false) ∧ t.tft = true ∧ t.cap < 2 + 7) ∧
    (let s := treeThread true [(10, 0x3F800000), (11, 0)] 0 1
     TreeReady s 5 (tree5 s) keyOf ∧ PlaceBytes s 0x100 264 (pathTo true)) ∧
    (let r : UnitReq := ⟨.cdesc, 0, 3, [5, 2 ^ 32 - 1, 0x100], [], none, none⟩
     let s := treeThread true [] 0 1
     let o : CairnOp := ⟨s.cur, 5, 1, 0, [], [], 6, false, false, 0, 0, 0, [], false⟩
     let u := (s.setMe { s.me with wait := .unit r }).setDie 0 { s.die 0 with cairn := [o] }
     let v := (s.setMe { s.me with wait := .unit r }).setDie 0 { s.die 0 with cairn := [{ o with done := true }] }
     (u.agent s.cur).wait = .unit r ∧ findOp u s.cur = some o ∧ (u.agent s.cur).refused = none ∧
       (match (cairnStep r o).run { u with mode := (u.agent s.cur).wmode } with | .ok _ => true | _ => false) = true ∧
       findOp v s.cur = some { o with done := true } ∧
       (match (cairnFinish r { o with done := true }).run { v with mode := (v.agent s.cur).wmode } with | .ok _ => true | _ => false) = true) := by
  refine ⟨⟨treeReady_of (by decide +kernel) ?_ fun _ _ _ _ => hits_page0 (by decide +kernel), ready_of (by decide +kernel),
    place_thread (by decide +kernel) (by decide +kernel), place_thread (by decide +kernel) (by decide +kernel), by decide +kernel⟩,
    ⟨treeReady_of (by decide +kernel) ?_ fun _ _ _ _ => hits_page0 (by decide +kernel),
      place_thread (by decide +kernel) (by decide +kernel), by decide +kernel⟩,
    ⟨treeReady_of (by decide +kernel) ?_ fun _ _ _ _ => hits_page0 (by decide +kernel),
      place_thread (by decide +kernel) (by decide +kernel)⟩, by decide +kernel⟩
  all_goals exact ⟨rfl, by decide +kernel, by decide +kernel, by decide +kernel, by decide +kernel, idle_of (by decide +kernel),
    by decide +kernel⟩

theorem witness_TreeBinding :
    (let s := treeMaster [(4, 3), (5, 0x4000), (6, 1), (7, 5)] 0
     let bs := leBytes 64 (header8 2 0)
     Ready .tm [.w 3, .grp 4 2, .r 10] s ∧ s.ctx.rs 10 = 0 ∧ s.ctx.rs 6 = 1 ∧ ReadsAs s 0x4000 64 bs ∧ findTree s 3 = none ∧
       (s.die 0).trees.length < 16 ∧ findTree s 5 ≠ none ∧ otherOps s 5 = [] ∧ s.defer = false ∧ Idle s) ∧
    (let s := treeMaster [(4, 5), (5, 1)] 0
     let t := tree5 s
     TreeReady s 5 t keyOf ∧ Ready .tm [.w 3, .grp 4 2, .wgrp 12 4] s ∧ Ready .tm [.w 3, .grp 4 2] s ∧ Memory.wf s.mem = true ∧
       let h := leNat (memGets s.mem (hdrKeys keyOf))
       1 < hUsed h ∧ 1 < t.cap ∧ (Node.ofNat (leNat (memGets s.mem (nodeKeys t keyOf (hHalf h) 1)))).state ≠ nEXPANDED) ∧
    (let s := treeMaster [(4, 5), (5, 1), (10, 0x100)] 0
     TreeReady s 5 (tree5 s) keyOf ∧ Ready .tm [.w 3, .grp 4 2, .r 10] s ∧ StoresAt s 0x100 264 (span 0x100 264)) ∧
    (let s := treeThread true [(10, 0x100)] 0 1
     0x100 + 264 ≤ (s.spur (0, 0)).size .scr ∧ (s.spur (0, 0)).claimed .scr 0x100 12 = false) ∧ ([leaf0] : List Node) ≠ [] := by
  refine ⟨⟨ready_of (by decide +kernel), by decide +kernel, by decide +kernel, readsAs_of (ids 0x4000 64) (by decide +kernel), by decide +kernel,
    by decide +kernel, by decide +kernel, by decide +kernel, by decide +kernel, idle_of (by decide +kernel)⟩,
    ⟨treeReady_of (by decide +kernel) ?_ fun _ _ _ _ => hits_page0 (by decide +kernel), ready_of (by decide +kernel),
      ready_of (by decide +kernel), by decide +kernel⟩,
    ⟨treeReady_of (by decide +kernel) ?_ fun _ _ _ _ => hits_page0 (by decide +kernel), ready_of (by decide +kernel),
      storesAt_of (ids 0x100 264) (by decide +kernel)⟩, by decide +kernel, by decide +kernel⟩
  all_goals exact ⟨rfl, by decide +kernel, by decide +kernel, by decide +kernel, by decide +kernel, idle_of (by decide +kernel),
    by decide +kernel⟩

/-- The path of a root's child `e`, in an epoch and of a tree; that thread with it at 0x100. -/
def pathOf (epoch tree len : Nat) (claim : Bool) (e : Nat) : List Byte :=
  leBytes 8 (pathWord epoch tree len claim) ++ leBytes 4 0 ++ leBytes 4 e ++ List.replicate 248 0
def treePath (pb : List Byte) (regs : Tab Nat Word) (flags st : Nat) : State :=
  let s := treeThread true regs flags st
  s.setSpur (0, 0) ((s.spur (0, 0)).wr .scr 0x100 pb)

theorem witness_TreeUpdates_cases :
    (∀ pb ∈ [pathOf 6 4 2 true 1, pathOf 6 5 0 true 1, pathOf 6 5 65 true 1, pathOf 7 5 2 true 1, pathOf 6 5 2 true 9, pathOf 6 5 2 false 1],
      let s := treePath pb [(10, 0x300), (11, 2)] 0 1
      TreeReady s 5 (tree5 s) keyOf ∧ Ready .tm [.w 3, .grp 4 2, .grp 10 2] s ∧ PlaceBytes s 0x100 264 pb ∧ PlaceBytes s 0x300 16 batch) ∧
    (bits (leNat ((pathOf 6 4 2 true 1).take 8)) 19 16 = 4 ∧ leNat ((pathOf 6 5 0 true 1).take 8) % 2 ^ 8 = 0 ∧
      64 < leNat ((pathOf 6 5 65 true 1).take 8) % 2 ^ 8 ∧ bits (leNat ((pathOf 7 5 2 true 1).take 8)) 63 32 = 7 ∧
      (tree5 (treePath (pathOf 6 5 2 true 9) [] 0 1)).cap ≤ 9 ∧ (leNat ((pathOf 6 5 2 false 1).take 8)).testBit 8 = false) ∧
    (∀ st ∈ [nLEAF, nPENDING, nEXPANDED, nTERMINAL], ∀ k ∈ [0, 2],
      let s := treePath (pathTo true) [(10, 0x300), (11, BitVec.ofNat 64 k)] 0 st
      TreeReady s 5 (tree5 s) keyOf ∧ PlaceBytes s 0x100 264 (pathTo true) ∧ PlaceBytes s 0x300 16 batch ∧
        (Node.ofNat (leNat (memGets s.mem (nodeKeys (tree5 s) keyOf 0 1)))).state = st ∧ hHalf (leNat (memGets s.mem (hdrKeys keyOf))) = 0) ∧
    (∀ fl ∈ [0, 4],
      let s := treePath (pathTo true) [(10, 0x300), (11, 7)] fl 1
      TreeReady s 5 (tree5 s) keyOf ∧ (tree5 s).tft = (fl == 4) ∧ Ready .tm [.w 3, .grp 4 2, .grp 10 2] s ∧ (tree5 s).cap < 2 + 7) := by
  refine ⟨fun pb hp => ⟨treeReady_of (by revert pb hp; decide +kernel) ?_ fun _ _ _ _ => hits_page0 (by revert pb hp; decide +kernel),
      ready_of (by revert pb hp; decide +kernel), place_thread (by revert pb hp; decide +kernel) (by revert pb hp; decide +kernel),
      place_thread (by revert pb hp; decide +kernel) (by revert pb hp; decide +kernel)⟩, by decide +kernel,
    fun st hs k hk => ⟨treeReady_of (by revert st hs k hk; decide +kernel) ?_ fun _ _ _ _ => hits_page0 (by revert st hs k hk; decide +kernel),
      place_thread (by revert st hs k hk; decide +kernel) (by revert st hs k hk; decide +kernel),
      place_thread (by revert st hs k hk; decide +kernel) (by revert st hs k hk; decide +kernel), by revert st hs k hk; decide +kernel⟩,
    fun fl hf => ⟨treeReady_of (by revert fl hf; decide +kernel) ?_ fun _ _ _ _ => hits_page0 (by revert fl hf; decide +kernel),
      by revert fl hf; decide +kernel, ready_of (by revert fl hf; decide +kernel), by revert fl hf; decide +kernel⟩⟩
  · revert pb hp; unfold Idle; decide +kernel
  · revert st hs k hk; unfold Idle; decide +kernel
  · revert fl hf; unfold Idle; decide +kernel

theorem witness_TreeBinding_cases :
    (∀ x ∈ [((3 : Nat), (0x4000 : Nat), (2 : Nat)), (3, 0x4004, 0), (16, 0x4000, 0), (3, 0x4000, 0), (5, 0x4000, 0), (3, 0x4000, 1), (5, 0x4000, 1)],
      let s := treeMaster [(4, BitVec.ofNat 64 x.1), (5, BitVec.ofNat 64 x.2.1), (10, BitVec.ofNat 64 x.2.2)] 0
      Ready .tm [.w 3, .grp 4 2, .r 10] s ∧ (s.ctx.rs 4).toNat = x.1 ∧ s.myProg.spawning = false ∧ findTree s 3 = none ∧ findTree s 5 ≠ none ∧
        (s.die 0).trees.length < 16 ∧ otherOps s 5 = []) ∧
    (let s := treeMaster [(4, 3), (5, 0x4000)] 0
     let u := s.setDie 0 { s.die 0 with trees := (List.range 16).map fun k => { tree5 s with core := k / 16 + 1, num := k } }
     findTree u 3 = none ∧ 16 ≤ (u.die 0).trees.length ∧ ReadsAs u 0x4000 64 (leBytes 64 (header8 2 0))) ∧
    (let s := onMaster [(4, 3), (5, 0x4000)]
     Ready .tm [.w 3, .grp 4 2, .r 10] s ∧ ReadsAs s 0x4000 64 (List.replicate 64 0) ∧ findTree s 3 = none ∧
       ¬ 1 ≤ bits (leNat (List.replicate 64 (0 : Byte))) 31 0) ∧
    (let h := header8 2 0
     bits h 31 0 = 8 ∧ bits h 63 32 = 2 ∧ bits h 95 64 = 0 ∧ bits h 227 227 = 0 ∧ finite32 (bits h 159 128) = true ∧
       finite32 (bits h 191 160) = true ∧ finite32 (bits h 223 192) = true) ∧
    (∀ i ∈ [1, 2, 2 ^ 32 - 1], ∀ st ∈ [nLEAF, nPENDING, nTERMINAL],
      let s := treeMaster [(4, 5), (5, BitVec.ofNat 64 i), (10, 0x100)] st
      Ready .tm [.w 3, .grp 4 2, .wgrp 12 4] s ∧ Ready .tm [.w 3, .grp 4 2, .r 10] s ∧ (s.ctx.rs 5).toNat = i ∧
        hUsed (leNat (memGets s.mem (hdrKeys keyOf))) = 2) := by
  refine ⟨fun x hx => ⟨ready_of (by revert x hx; decide +kernel), by revert x hx; decide +kernel⟩,
    ⟨by decide +kernel, by decide +kernel, readsAs_of (ids 0x4000 64) (by decide +kernel)⟩,
    ⟨ready_of (by decide +kernel), readsAs_of (ids 0x4000 64) (by decide +kernel), by decide +kernel⟩, by decide +kernel,
    fun i hi st hs => ⟨ready_of (by revert i hi st hs; decide +kernel), ready_of (by revert i hi st hs; decide +kernel),
      by revert i hi st hs; decide +kernel⟩⟩

/-! Spawns, dispatch and synchronization -/

/-- The header word of a body whose window is `16 * u` registers, at an address (R59). -/
def withHeader (a u : Nat) (s : State) : State := { s with mem := memSets s.mem (span a 4) (leBytes 4 (0x5B0000 + u)) }

/-- A master at a SPAWN of the body at 0x1010, its quota two empty spurs. -/
def spawning (n : Int) : State :=
  let s := onMaster [(1, BitVec.ofInt 64 n)]
  let s := { s with spurs := [((0, 0), { spur0 with windows := [] }), ((0, 1), { spur0 with windows := [] })] }
  withHeader 0x100C 2 (s.setProg (0, 0) { s.prog (0, 0) with quota := [0, 1], qmax := 2, qmin := 2 })
def noRoom (s : State) : State := { s with spurs := [((0, 0), { spur0 with roles := [] }), ((0, 1), { spur0 with roles := [] })] }
def quota2 (s : State) : List Nat := s.myProg.quota.filter fun x => (s.spur (0, x)).fenced = false

theorem witness_SpawnStarts :
    (let s := spawning 3
     Ready .m [.r 1] s ∧ ReadsAs s 0x100C 4 (leBytes 4 0x5B0002) ∧ headerWindow (leNat (leBytes 4 0x5B0002)) = some 32 ∧
       s.myProg.sstate = 0 ∧ quotaTarget s s.myKey = s.myProg.quota.length ∧ s.myProg.quota.Pairwise (· < ·) ∧ s.me.pend = [] ∧
       (∃ x ∈ quota2 s, (s.spur (0, x)).fit 32 ≠ none) ∧ placementFails s 0 32 (quota2 s) 3 = false ∧ heldAny s.myProg (quota2 s) = false) ∧
    (let s := noRoom (spawning 3)
     (∀ x ∈ quota2 s, (s.spur (0, x)).fit 32 = none) ∧ placementFails s 0 32 (quota2 s) 3 = true) ∧
    (2 ^ 32 ≤ ((spawning (2 ^ 32)).ctx.rs 1).toNat ∧ headerWindow (leNat (leBytes 4 0x5B0006)) = none ∧ (onThread []).myProg.sstate ≠ 0) := by
  refine ⟨⟨ready_of (by decide +kernel), readsAs_of (ids 0x100C 4) (by decide +kernel), by decide +kernel⟩, by decide +kernel, by decide +kernel⟩

theorem witness_SpawnStarts_cases :
    (∀ s ∈ [spawning 0, (spawning 3).setProg (0, 0) { (spawning 3).prog (0, 0) with sstate := 1 }, spawning (2 ^ 32), noRoom (spawning 3)],
      Ready .m [.r 1] s ∧ ReadsAs s 0x100C 4 (leBytes 4 0x5B0002)) ∧
    (let s := withHeader 0x100C 6 (spawning 3)
     Ready .m [.r 1] s ∧ ReadsAs s 0x100C 4 (leBytes 4 0x5B0006)) ∧
    (let s := noRoom (spawning 3)
     s.myProg.sstate = 0 ∧ quotaTarget s s.myKey = s.myProg.quota.length ∧ s.myProg.quota.Pairwise (· < ·) ∧ s.me.pend = []) :=
  ⟨fun s hs => ⟨ready_of (by revert s hs; decide +kernel), readsAs_of (ids 0x100C 4) (by revert s hs; decide +kernel)⟩,
    ⟨ready_of (by decide +kernel), readsAs_of (ids 0x100C 4) (by decide +kernel)⟩, by decide +kernel⟩

/-- The master of the spawn of `onThread`, with what is left of the spawn. -/
def joining (p : Prog → Prog) (w : Wait) : State :=
  let s := onThread []
  let s := { s with agents := [(.master 0 0, { agent0 [] with wait := w }), (.slot 0 0 0 0, agent0 [])], cur := .master 0 0 }
  s.setProg (0, 0) (p (s.prog (0, 0)))

theorem witness_JoinAndTend :
    (let s := joining id .none
     Ready .m [.w 3] s ∧ s.myProg.sstate ≠ 0 ∧ ¬(s.myProg.u = 0 ∧ s.myProg.d = 0 ∧ s.myProg.l = 0 ∧ s.myProg.e = 0)) ∧
    (let s := joining (fun p => { p with l := 0, lostNow := [5, 2], contribs := [⟨0, 1, [.val 3 0 7], 0⟩] }) .none
     let p := s.myProg
     Ready .m [.w 3] s ∧ (p.u = 0 ∧ p.d = 0 ∧ p.l = 0 ∧ p.e = 0) ∧
       ∀ n ∈ p.quota, (s.spur (s.myKey.1, n)).badBanks = [] ∧ (s.spur (s.myKey.1, n)).worn = false) ∧
    ((onMaster []).myProg.sstate = 0 ∧ Ready .m [.w 3] (onMaster [])) ∧
    (let s := onThread []
     Ready .t [] s ∧ s.me.pend = [] ∧ s.me.dtraps = [] ∧ s.me.frames = []) ∧
    (Ready .t [] withTraps ∧ withTraps.me.pend = [] ∧ withTraps.me.dtraps = ⟨cPOISON, 0x10⟩ :: [⟨cALIGN, 0x18⟩]) ∧
    (let s := { withPend with defer := true }
     Ready .t [] s ∧ s.me.pend ≠ [] ∧ s.defer = true) :=
  ⟨⟨ready_of (by decide +kernel), by decide +kernel⟩, ⟨ready_of (by decide +kernel), by decide +kernel⟩,
    ⟨by decide +kernel, ready_of (by decide +kernel)⟩, ⟨ready_of (by decide +kernel), by decide +kernel⟩,
    ⟨ready_of (by decide +kernel), by decide +kernel⟩, ⟨ready_of (by decide +kernel), by decide +kernel⟩⟩

/-- A child descriptor of the program: two of a body at 0x5000 with sixteen registers. -/
def desc1 : Desc := ⟨1, 1, 0, 0x5000, 16, 2, 1, 0, [1, 2, 3, 4], 0, 0, 0, 0, 1, 0, 0, 0⟩

/-- A thread at a nested spawn of the body at 0x3000; Scree full; room in the program's dynamic region (R279). -/
def nesting (level : Nat) (scree : List Desc) : State :=
  let s := withHeader 0x2FFC 1 (onThread [(5, 3), (6, 0x3000)])
  let s := s.setProg (0, 0) { s.prog (0, 0) with ctx := 0x10000 }
  let s := { s with mem := memSets s.mem (span 0x10020 8) (leBytes 8 0x200000) }
  (s.setCtx { s.ctx with nlevel := BitVec.ofNat 64 level }).setDie 0 { s.die 0 with scree := scree }

theorem witness_NestedSpawn :
    (let s := nesting 3 []
     Ready .t [.r 5, .r 6, .r 1, .r 2, .r 3, .r 4] s ∧ ReadsAs s 0x2FFC 4 (leBytes 4 0x5B0001) ∧ headerWindow (leNat (leBytes 4 0x5B0001)) = some 16 ∧
       s.ctx.nlevel.toNat % 32 ≠ 16 ∧ (s.die 0).scree.length < 4096 ∧ s.me.pend = []) ∧
    (let s := nesting 3 (List.replicate 4096 desc1)
     Ready .t [.r 5, .r 6, .r 1, .r 2, .r 3, .r 4] s ∧ ReadsAs s 0x2FFC 4 (leBytes 4 0x5B0001) ∧ 4096 ≤ (s.die 0).scree.length ∧ dynRoom s s.myKey 1 = true ∧
       (((s.spur s.mySpurKey).unplace s.cur).place s.cur 16).isSome = true) ∧
    (nesting 16 []).ctx.nlevel.toNat % 32 = 16 :=
  ⟨⟨ready_of (by decide +kernel), readsAs_of (ids 0x2FFC 4) (by decide +kernel), by decide +kernel⟩,
    ⟨ready_of (by decide +kernel), readsAs_of (ids 0x2FFC 4) (by decide +kernel), by decide +kernel⟩, by decide +kernel⟩

/-- An idle slot of the spawn of `onThread`, the program as given. -/
def slot1 : AgentId := .slot 0 0 1 0
def sparse (p : Prog → Prog) (scree : List Desc) : State :=
  let s := onThread []
  let sp : SpawnRec := { SpawnRec.blank with entry := 0x3000, window := 32, count := 9, next := 4, gsnap := List.replicate 32 5, quota := [0] }
  (s.setProg (0, 0) (p { s.prog (0, 0) with spawn := sp, seq := 3 })).setDie 0 { s.die 0 with scree := scree }
def start1 : Start := ⟨{ Ctx.blank with pc := 0x77, window := 8 }, 0, 0⟩
def parked1 : Parked := ⟨0, { agent0 [] with wait := .page 5, core := 0 }, 0, true, 1, 3⟩
def held1 : SpawnRec := { SpawnRec.blank with window := 32, count := 1, quota := [0] }
def waitingFor (w : Wait) (fs : List Frame) : State := let s := onThread []; s.setMe { s.me with wait := w, frames := fs }
def inline1 : Frame := ⟨0, Ctx.blank, [], [], [], desc1, 0, 0, [], false, (0, false, false)⟩

theorem witness_DispatchEvents :
    (let s := sparse (fun p => { p with u := 5 }) []
     let k := (0, 0)
     slotProg s slot1 = some k ∧ (∀ w ∈ (s.spur (0, 0)).windows, w.who ≠ slot1) ∧ freshReady s k (s.prog k) slot1 = true ∧
       (s.prog k).sstate = 1 ∧ 0 < (s.prog k).u ∧ (s.spur (0, 0)).fit 32 ≠ none) ∧
    (let s := sparse (fun p => { p with d := 2 }) [desc1]
     freshReady s (0, 0) (s.prog (0, 0)) slot1 = true ∧ (s.prog (0, 0)).u = 0 ∧ (s.spur (0, 0)).fit desc1.window ≠ none ∧
       bestDesc ((s.die 0).scree.filter fun d => d.core = 0) = some desc1) ∧
    (let s := sparse (fun p => { p with rerun := [start1] }) []
     let p := s.prog (0, 0)
     slotIdle s slot1 = true ∧ onList p slot1 = true ∧ parkedFor s (0, 0) p slot1 = none ∧ slotHeld p slot1 = false ∧
       (s.spur (0, 0)).fit start1.ctx.window ≠ none) ∧
    (let s := sparse (fun p => { p with runList := [parked1] }) []
     let p := s.prog (0, 0)
     parkedFor s (0, 0) p slot1 = some 0 ∧ p.runList[0]? = some parked1 ∧ slotIdle s slot1 = true ∧ p.ending = none ∧ p.saving = none ∧
       (s.spur (0, 0)).fit parked1.agent.ctx.window ≠ none ∧
       recordKept s (0, 0) parked1.record parked1.agent.ctx parked1.agent.frames = true ∧
       recordHurt s (physKey (recordAt s (0, 0) parked1.record)) parked1.agent.ctx = []) ∧
    (let s := onThread []
     let s := { s with agents := [(.master 0 0, agent0 [])], spurs := [((0, 0), { spur0 with windows := [] })] }
     let s := s.setProg (0, 0) { s.prog (0, 0) with held := some held1, u := 1, l := 0 }
     (s.prog (0, 0)).held = some held1 ∧ (s.prog (0, 0)).ending = none ∧ (s.prog (0, 0)).saving = none ∧
       heldAny (s.prog (0, 0)) held1.quota = false ∧ (∀ n ∈ held1.quota, (s.spur (0, n)).fenced = false) ∧ placementFails s 0 held1.window held1.quota held1.count = false ∧ held1.quota.Nodup) ∧
    (let s := waitingFor .room [inline1]
     (s.agent s.cur).live = true ∧ (s.agent s.cur).wait = .room ∧ (s.agent s.cur).frames = [inline1] ∧
       inline1.desc.next < inline1.desc.count ∧ rewindow s s.cur inline1.desc.window ≠ none) ∧
    (let s := waitingFor .ended []
     isSlot s.cur = true ∧ (s.agent s.cur).live = true ∧ (s.agent s.cur).wait = .ended ∧ (s.agent s.cur).frames = [] ∧
       (s.agent s.cur).pend = [] ∧ (s.agent s.cur).dtraps = []) ∧
    (∀ w ∈ [Wait.join 3, .halt], let s := joining (fun p => { p with l := 0 }) w
      joinReady (s.prog (0, 0)) = true ∧ (s.agent (.master 0 0)).wait = w ∧ (s.prog (0, 0)).ending = none) := by
  refine ⟨?_, ?_, ?_, ?_, ?_, ?_, ?_, ?_⟩ <;> decide +kernel

theorem witness_NestedSpawn_cases :
    (∀ s ∈ [nesting 3 [], nesting 16 [], nesting 3 (List.replicate 4096 desc1), (nesting 3 []).setCtx ((nesting 3 []).ctx.ws 5 0 false)],
      Ready .t [.r 5, .r 6] s ∧ Ready .t [.r 1, .r 2, .r 3, .r 4] s ∧ ReadsAs s 0x2FFC 4 (leBytes 4 0x5B0001)) ∧
    (let s := nesting 3 (List.replicate 4096 desc1)
     s.me.pend = [] ∧ recordBusy s s.myKey (freeRecord s s.myKey) = false) ∧
    (let s := (nesting 3 []).setCtx ((nesting 3 []).ctx.ws 6 0x3002 false)
     Ready .t [.r 5, .r 6] s ∧ (s.ctx.rs 6).toNat % 2 ^ 56 % 4 ≠ 0) ∧
    (let s := withHeader 0x2FFC 6 (nesting 3 [])
     Ready .t [.r 5, .r 6] s ∧ ReadsAs s 0x2FFC 4 (leBytes 4 0x5B0006) ∧ headerWindow (leNat (leBytes 4 0x5B0006)) = none) :=
  ⟨fun s hs => ⟨ready_of (by revert s hs; decide +kernel), ready_of (by revert s hs; decide +kernel),
      readsAs_of (ids 0x2FFC 4) (by revert s hs; decide +kernel)⟩, by decide +kernel, ⟨ready_of (by decide +kernel), by decide +kernel⟩,
    ready_of (by decide +kernel), readsAs_of (ids 0x2FFC 4) (by decide +kernel), by decide +kernel⟩

theorem witness_DispatchEvents_parked :
    (let s := sparse (fun p => { p with runList := [parked1] }) []
     slotProg s slot1 = some (0, 0) ∧ recordBusy s (0, 0) parked1.record = false ∧
       ∀ w ∈ (s.spur (dieOf slot1, spurOf slot1)).windows, w.who ≠ slot1) ∧
    (let s := sparse (fun p => { p with u := 0, d := 2 }) [desc1]
     slotProg s slot1 = some (0, 0)) ∧ slotProg (sparse (fun p => { p with rerun := [start1] }) []) slot1 = some (0, 0) := by
  refine ⟨?_, ?_, ?_⟩ <;> decide +kernel

theorem witness_RidgeInstructions :
    (let s := onThread [(5, 7)]
     let s := s.setProg (0, 0) { s.prog (0, 0) with ridge := [(2, 10), (3, 17), (4, 10), (5, 16)] }
     Ready .t [.w 3, .r 5] s ∧ (s.myProg.n 2).toNat + (s.ctx.rs 5).toNat ≤ (s.myProg.n 3).toNat ∧
       (s.myProg.n 5).toNat < (s.myProg.n 4).toNat + (s.ctx.rs 5).toNat) ∧
    (let s := onThread []
     ((s.setMe { s.me with ridge := [(3, 5)] }).agent s.cur).ridge = [(3, 5)]) ∧
    Ready .tm [.w 3] (onThread []) ∧ Ready .m [.r 5] (onMaster []) ∧ Ready .t [.r 5] (onThread []) ∧
    (let vs : List (Nat × Word) := [(0, 5), (7, 0x8000000000000000)]
     (vs.map (·.1)).Nodup ∧ (∀ v ∈ vs, v.1 < 2 ^ 32) ∧ vs ≠ []) :=
  ⟨⟨ready_of (by decide +kernel), by decide +kernel⟩, by decide +kernel, ready_of (by decide +kernel), ready_of (by decide +kernel),
    ready_of (by decide +kernel), by decide +kernel⟩

/-- The thread of `onThread` with this register file, waiting so. -/
def sleeping (w : Wait) (regs : Tab Nat Word) : State :=
  let s := onThread regs
  let s := s.setDie 0 { s.die 0 with cycle := 12 }
  s.setMe { s.me with wait := w, ctx := { s.me.ctx with wlim := 9 } }
def feReq1 : FeReq := ⟨0, .mem 0x10, 3, 0, 0x10, none⟩
def remReq1 : RemoteReq := ⟨true, false, false, 8, 0, 0, 16, 3, 0, 16⟩

theorem witness_BarriersAndWaits :
    (let s := onThread []
     let s := s.setProg (0, 0) { s.prog (0, 0) with bars := [(1, ⟨2, none, [.slot 0 0 1 0]⟩), (2, ⟨3, none, []⟩)], liveCount := 3 }
     Ready .tm [] s ∧ Ready .t [] s ∧ Unwoken s ∧ ownDescs s = [] ∧ Ready .t [.r 4] s ∧
       (s.myProg.bar 1).c ≤ (s.myProg.bar 1).arrived.length + 1 ∧ ((s.myProg.bar 1).arrived ++ [s.cur]).Nodup ∧
       (s.myProg.bar 2).arrived.length + 1 < (s.myProg.bar 2).c) ∧
    (let s := onThread [(4, 0x10), (5, 0)]
     Ready .tm [.w 3, .r 4, .r 5] s ∧ Unwoken s ∧ ownDescs s = [] ∧ ReadsAs s 0x10 8 (List.replicate 8 0)) ∧
    (∀ e key, Hits .wait 0x10 (onThread [(4, 0x10), (5, 0)]) e key → keySpace key = 0) ∧
    (let s := sleeping (.mem ⟨0, 0x10, 0, 3⟩) []
     (s.agent s.cur).wait = .mem ⟨0, 0x10, 0, 3⟩ ∧ ReadsAs (s.turn s.cur) 0x10 8 (List.replicate 8 0)) ∧
    (∀ w ∈ [Wait.mem ⟨0, 0x10, 0, 3⟩, .bar 1, .granule feReq1, .remote remReq1],
      ((sleeping w []).agent (sleeping w []).cur).wait = w ∧ ((sleeping w []).agent (sleeping w []).cur).ctx.wlim.toNat % 2 ^ 48 ≠ 0 ∧
        ((sleeping w []).agent (sleeping w []).cur).since + 9 ≤ (sleeping w []).clock (sleeping w []).cur) ∧
    granExists (sleeping (.granule feReq1) []) feReq1.g = true ∧ remReq1.off + 8 ≤ ((sleeping (.remote remReq1) []).spur (0, 0)).size .scr ∧
    (let s := { sleeping (.granule feReq1) [] with feWait := [(.mem 0x10, .slot 0 0 0 0)] }
     ∃ g, (g, s.cur) ∈ s.feWait) := by
  refine ⟨⟨ready_of (by decide +kernel), ready_of (by decide +kernel), Or.inr (Or.inl (by decide +kernel)), by decide +kernel,
    ready_of (by decide +kernel), by decide +kernel⟩,
    ⟨ready_of (by decide +kernel), Or.inr (Or.inl (by decide +kernel)), by decide +kernel, readsAs_of (ids 0x10 8) (by decide +kernel)⟩, ?_,
    ⟨by decide +kernel, readsAs_of (ids 0x10 8) (by decide +kernel)⟩, by decide +kernel, by decide +kernel, by decide +kernel, ⟨_, .head _⟩⟩
  rintro e key ⟨_, _, ⟨t, ht, rfl, rfl⟩, _⟩
  rw [show tlbFind _ _ _ _ _ = some page0 from by decide +kernel] at ht
  obtain rfl := Option.some.inj ht
  decide +kernel

theorem witness_RemoteScratch :
    (let s := onThread [(4, 0), (5, 16), (10, 8), (11, 7)]
     Ready .t [.w 3, .grp 4 2, .grp 10 1] s ∧ Ready .t [.w 3, .grp 4 2, .grp 10 2] s ∧ Unwoken s ∧ 0 ∈ s.myProg.quota ∧
       (s.spur (0, 0)).fenced = false ∧ 16 + 4 ≤ (s.spur (0, 0)).size .scr ∧ s.defer = false ∧ (s.spur (0, 0)).claimed .scr 16 4 = false ∧
       (s.spur (0, 0)).poisonAt .scr 16 4 = none ∧ (∀ z ∈ s.feWait, z.1 ≠ Granule.scr 0 0 16) ∧ ownDescs s = [] ∧
       granFull s (.scr 0 0 16) = false ∧ remoteWaiting s 0 0 < 64 ∧ ∀ z ∈ s.feWait, z.2 ≠ s.cur) ∧
    (let s := onThread []
     granFull (s.setSpur (0, 0) { s.spur (0, 0) with scrFull := [2] }) (.scr 0 0 16) = true) ∧
    (let s := sleeping (.remote remReq1) []
     (remoteSenders s 0 0)[0]? = some s.cur ∧ (s.agent s.cur).wait = .remote remReq1 ∧ remReq1.fe = false ∧
       remReq1.off + remReq1.size ≤ (s.spur (remReq1.die, remReq1.spur)).size .scr) :=
  ⟨⟨ready_of (by decide +kernel), ready_of (by decide +kernel), Or.inr (Or.inl (by decide +kernel)), by decide +kernel⟩,
    by decide +kernel, by decide +kernel⟩

/-- A full-empty load from the thread's own spur, and the thread waiting with it: in flight, at the port, to a FULL granule. -/
def remFe : RemoteReq := ⟨true, true, false, 8, 0, 0, 16, 3, 0, 16⟩
def remWaiting (held full : Bool) : State :=
  let s := sleeping (.remote remFe) []
  let s := s.setSpur (0, 0) { s.spur (0, 0) with scrFull := if full then [2] else [] }
  { s with ports := if held then [(.scr 0 0 16, s.cur)] else [] }

theorem witness_BarriersAndWaits_remote :
    (∀ h ∈ [false, true], ∀ f ∈ [false, true], let s := remWaiting h f
      (s.agent s.cur).wait = .remote remFe ∧ remFe.fe = true ∧ remFe.off + 8 ≤ (s.spur (remFe.die, remFe.spur)).size .scr ∧
        remoteHeld s s.cur = h ∧ remoteReady s remFe = f ∧ (s.agent s.cur).ctx.wlim.toNat % 2 ^ 48 ≠ 0 ∧
        (s.agent s.cur).since + 9 ≤ s.clock s.cur) ∧
    (let s := { onThread [(4, 0x200010), (5, 0)] with tlb := [page0, ⟨0, none, 1, 0x200000, 21, 2 ^ 54 + 0x1F⟩] }
     Ready .tm [.w 3, .r 4, .r 5] s ∧ Unwoken s ∧ ownDescs s = [] ∧ ReadsAs s 0x200010 8 (List.replicate 8 0) ∧
       ∃ e key, Hits .wait 0x200010 s e key ∧ keySpace key ≠ 0) := by
  refine ⟨by decide +kernel, ready_of (by decide +kernel), Or.inr (Or.inl (by decide +kernel)), by decide +kernel,
    readsAs_of ((span 0x200010 8).map fun a => (2 ^ 54 + 0x1F, 2 ^ 52 + a % 2 ^ 21)) (by decide +kernel),
    2 ^ 54 + 0x1F, 2 ^ 52 + 0x10, hits_of (by decide +kernel), by decide +kernel⟩

theorem witness_RemoteScratch_waits :
    (∀ ps ∈ [([] : List (Granule × AgentId)), [(.scr 0 0 24, .slot 0 0 1 0)]],
      let s := { onThread [(4, 0), (5, 16), (10, 1), (11, 7)] with ports := ps }
      Ready .t [.w 3, .grp 4 2, .grp 10 1] s ∧ Ready .t [.w 3, .grp 4 2, .grp 10 2] s ∧ Unwoken s ∧ remoteHeld s s.cur = false ∧
        remoteWaiting s 0 0 < 64 ∧ (s.spur (0, 0)).claimed .scr 16 8 = false ∧ (s.spur (0, 0)).poisonAt .scr 16 8 = none ∧
        granFull s (.scr 0 0 16) = false ∧ (ps = [] ∨ ∃ z ∈ s.ports, z.1.onSpur 0 0 = true)) ∧
    (let s := onThread [(4, 9), (5, 16), (10, 8), (11, 7)]
     Ready .t [.w 3, .grp 4 2, .grp 10 2] s ∧ (s.ctx.rs 4).toNat ∉ s.myProg.quota) ∧
    (let s := onThread [(4, 0), (5, 32767), (10, 8), (11, 7)]
     Ready .t [.w 3, .grp 4 2, .grp 10 2] s ∧ (s.spur (0, 0)).size .scr < 32767 + 4) ∧
    (let s := onThread [(4, 0), (5, 18), (10, 8), (11, 7)]
     Ready .t [.w 3, .grp 4 2, .grp 10 2] s ∧ (18 : Nat) % 4 ≠ 0) ∧
    (let s := { onThread [(4, 0), (5, 16), (10, 8), (11, 7)] with defer := true }
     Ready .t [.w 3, .grp 4 2, .grp 10 2] s) ∧
    (let s := sleeping (.remote remReq1) []
     (s.spur (0, 0)).claimed .scr remReq1.off remReq1.size = false ∧ (s.spur (0, 0)).poisonAt .scr remReq1.off remReq1.size = none) := by
  refine ⟨fun ps hp => ⟨ready_of (by revert ps hp; decide +kernel), ready_of (by revert ps hp; decide +kernel),
      Or.inr (Or.inl (by revert ps hp; decide +kernel)), by revert ps hp; decide +kernel⟩,
    ⟨ready_of (by decide +kernel), by decide +kernel⟩, ⟨ready_of (by decide +kernel), by decide +kernel⟩,
    ⟨ready_of (by decide +kernel), by decide +kernel⟩, ready_of (by decide +kernel), by decide +kernel⟩

/-- A spur of two SCR banks, a thread with the two operands; with a notice that its thread has not acknowledged. -/
def pooling (r t : Word) (n : Notice) : State :=
  let s := onThread [(4, r), (5, t)]
  s.setSpur (0, 0) { s.spur (0, 0) with
    roles := [(0, .reg), (1, .scr), (2, .til), (3, .acc), (4, .acc), (9, .scr)], places := [(0, 0), (1, 0), (2, 0), (3, 0), (4, 1), (9, 1)]
    notice := n }

/-- A test of every agent's wait that an idle agent passes. -/
theorem waits_of {s : State} {f : Wait → Bool} (hn : f .none = true) (h : (s.agents.all fun z => f z.2.wait) = true) (a : AgentId) :
    f (s.agent a).wait = true := by
  show f (tabGet s.agents a Agent.blank).wait = true
  generalize s.agents = l at h
  induction l with
  | nil => exact hn
  | cons x l ih =>
    simp only [List.all_cons, Bool.and_eq_true] at h
    unfold tabGet
    split
    · exact h.1
    · exact ih h.2

theorem noAck_of {s : State} (h : (s.agents.all fun z => z.2.wait == .none) = true) : ∀ z e x, (s.agent z).wait ≠ .ack e x := by
  intro z e x he
  have := waits_of (f := fun w => w == .none) rfl h z
  simp [he] at this

theorem witness_PoolInstructions :
    (∀ x ∈ [((2 : Nat), (1 : Nat)), (4, 2), (4, 0), (1, 0), (4, 1)],
      let s := pooling (wordN x.1) (wordN x.2) ((onThread []).spur (0, 0)).notice
      Ready .t [.w 6, .r 4, .r 5] s ∧ (∀ z e x, (s.agent z).wait ≠ .ack e x) ∧ (s.spur (0, 0)).notice.pending = false) ∧
    (let s := pooling 2 1 ((onThread []).spur (0, 0)).notice
     wakeable s s.cur s.me = false ∧ (s.spur (0, 0)).heldBanks 2 = 2 ∧ (s.spur (0, 0)).touchedFrom .scr 32768 = false) ∧
    (let s := pooling 4 0 ((onThread []).spur (0, 0)).notice
     let p := s.spur (0, 0)
     p.heldBanks 4 = 1 ∧ ((p.banksOf (roleOf 4)).map fun x => tabGet p.places x 0).Perm (List.range 1)) ∧
    (let p := (pooling 4 2 ((onThread []).spur (0, 0)).notice).spur (0, 0)
     2 - p.heldBanks 4 ≤ p.freeBanks.length) ∧
    (let s := pooling 1 0 ((onThread []).spur (0, 0)).notice
     ∃ z ∈ (s.spur (0, 0)).windows, 0 * 32768 < (z.base + z.len) * 64) ∧
    (let s := pooling 7 2 ⟨true, 7, 1, [⟨0, 0, false, false, false⟩]⟩
     let n := (s.spur (0, 0)).notice
     Ready .t [.w 6, .r 4] s ∧ n.pending = true ∧ (s.ctx.rs 4).toNat % 2 ^ 16 = n.seq ∧ ackWaits s = false ∧ ∃ m, n.member s.me.outer = some m ∧ m.acked = false) :=
  ⟨fun x hx => ⟨ready_of (by revert x hx; decide +kernel), noAck_of (by revert x hx; decide +kernel), by revert x hx; decide +kernel⟩,
    by decide +kernel, ⟨by decide +kernel, by decide +kernel⟩, by decide +kernel, by decide +kernel,
    ⟨ready_of (by decide +kernel), by decide +kernel, by decide +kernel, by decide +kernel, by decide +kernel⟩⟩

/-! Traps, registers and the context -/

theorem witness_TrapsAndReturns :
    ((onThread []).ctx.tcause.getLsbD 8 = false ∧ (onThread []).ctx.tvec.toNat / 4 * 4 ≠ 0) ∧
    (let s := onThread []
     (s.setCtx { s.ctx with tcause := 0x10A }).ctx.tcause.getLsbD 8 = true ∧ s.myProg.ending = none) ∧
    (let s := withWords (onMaster []) [0xFC001100, 0x01061028]
     let s := s.setCtx { s.ctx with tpc := 0x1000, frm := 0x1010 }
     Ready .tm [] s ∧ s.ctx.tpc.toNat % 4 = 0 ∧ s.ctx.frm.getLsbD 12 = true ∧ (fetchWord s.ctx.tpc).run s = .ok (0xFC001100, s)) ∧
    (let s := onMaster []
     Ready .tm [] s ∧ s.ctx.tpc.toNat % 4 = 0 ∧ s.ctx.frm.getLsbD 12 = false) :=
  ⟨by decide +kernel, by decide +kernel, ⟨ready_of (by decide +kernel), by decide +kernel, by decide +kernel, rfl⟩,
    ⟨ready_of (by decide +kernel), by decide +kernel⟩⟩

theorem witness_ControlRegisters :
    Ready .tm [.w 3] (onThread []) ∧ Ready .tm [.r 3] (onThread []) ∧ Ready .tm [.r 3] (onMaster []) ∧
    csrTrap (onThread []).cur 0x100 true = none ∧ csrTrap (onThread []).cur 0x118 true = none ∧ csrTrap (onMaster []).cur 0x210 true = none ∧
    csrTrap (onMaster []).cur 0x300 false = some cPRIV ∧ csrTrap (onMaster []).cur 0x300 true = some cPRIV ∧
    csrTrap (.service 0 0) 0x300 true = none ∧ isMaster (onMaster []).cur = true ∧ isSlot (onThread []).cur = true ∧
    (onThread []).cur = .slot 0 0 0 0 ∧ (onMaster []).cur = .master 0 0 :=
  ⟨ready_of (by decide +kernel), ready_of (by decide +kernel), ready_of (by decide +kernel), by decide +kernel⟩

/-- A service core about to run an instruction, the program's context area at 0x10000 with this header, one page of 1 GiB mapped. -/
def servingAt (w0 : Nat) (regs : Tab Nat Word) : State :=
  let s := onThread []
  let s := { s with tlb := [⟨0, none, 1, 0, 30, 0x1F⟩], cur := .service 0 0, mem := memSets s.mem (span 0x10000 8) (leBytes 8 w0) }
  let s := s.setAgent (.service 0 0) (agent0 regs)
  s.setProg (0, 0) { s.prog (0, 0) with ctx := 0x10000 }

def serving : Tab Nat Word → State := servingAt 0x010001

theorem witness_SystemInstructions :
    Ready .tm [] withPend ∧ (∀ p ∈ withPend.me.pend, pendFree withPend p = true) ∧ Ready .m [] (onMaster []) ∧ (onMaster []).myProg.spawning = false ∧ (onMaster []).myProg.ending = none ∧
    (let s := joining id .none
     Ready .m [] s ∧ s.myProg.spawning = true ∧ joinReady s.myProg = false) ∧
    (Ready .p [.r 4, .r 5] (serving []) ∧ (∀ x ∈ (serving []).agents, x.2.pend = []) ∧ (serving []).owned = [] ∧ (serving []).claims = []) ∧
    Ready .tm [.w 3, .r 4] (onThread [(4, 0x10)]) ∧
    (let s := onThread [(4, 0x10)]
     tlbFind s (dieOf s.cur) (tlbSpur s.cur) s.myProg.asid 0x10 = some page0) ∧
    (let s := { onThread [(4, 0x400000)] with roots := [(1, 0x100001)] }
     tlbFind s (dieOf s.cur) (tlbSpur s.cur) s.myProg.asid 0x400000 = none ∧
       walk s s.myProg.asid 0x400000 ∈ [Walk.invalid, .malformed, .noRoot]) :=
  ⟨ready_of (by decide +kernel), by decide +kernel, ready_of (by decide +kernel), by decide +kernel, by decide +kernel,
    ⟨ready_of (by decide +kernel), by decide +kernel⟩, ⟨ready_of (by decide +kernel), by decide +kernel⟩, ready_of (by decide +kernel),
    by decide +kernel, by decide +kernel⟩

theorem witness_SystemInstructions_cases :
    (∀ w ∈ [(1 : Nat), 2 ^ 16 + 1, 2 ^ 18 + 2 ^ 17 + 2 ^ 16], let s := serving [(4, 0x10000), (5, BitVec.ofNat 64 w)]
      Ready .p [.r 4, .r 5] s ∧ (∀ x ∈ s.agents, x.2.pend = []) ∧ stillUsed s (invCtl w) (s.ctx.rs 4).toNat = false) ∧
    (let s := onThread [(4, 0x1000000000000)]
     Ready .tm [.w 3, .r 4] s ∧ 2 ^ 48 ≤ (s.ctx.rs 4).toNat % 2 ^ 56) ∧
    (let s := { ((((onThread [(4, 0x10)]).wrN 0x100000 8 0x101001).wrN 0x101000 8 0x102001).wrN 0x102000 8 0x103001).wrN 0x103000 8 0x20001F with
       tlb := [], roots := [(1, 0x100001)] }
     Ready .tm [.w 3, .r 4] s ∧ tlbFind s (dieOf s.cur) (tlbSpur s.cur) s.myProg.asid 0x10 = none ∧ walk s s.myProg.asid 0x10 = .leaf 0x20001F 12) ∧
    (let s := joining (fun p => { p with l := 0 }) .none
     Ready .m [] s ∧ joinReady s.myProg = true ∧ s.myProg.ending = none) :=
  ⟨fun w hw => ⟨ready_of (by revert w hw; decide +kernel), by revert w hw; decide +kernel⟩, ⟨ready_of (by decide +kernel), by decide +kernel⟩,
    ⟨ready_of (by decide +kernel), by decide +kernel⟩, ready_of (by decide +kernel), by decide +kernel⟩

/-- A program being saved: with one spur; with none. -/
def saving : State := into' (execCtxsv 4 0 (serving [(4, 0x10000)]))
def savingAlone : State :=
  let s := { saving with agents := [(.master 0 0, agent0 []), (.service 0 0, agent0 [])] }
  s.setProg (0, 0) { s.prog (0, 0) with quota := [], sstate := 0, l := 0, liveCount := 0 }

/-- A program saved with a master and one thread; another of its address space runs on die 1. -/
def savedProg : Saved :=
  let s := onThread []
  ⟨1, 0x10000, (0, 0), { s.prog (0, 0) with ctx := 0x10000 }, agent0 [], [(0, { spur0 with windows := [⟨.slot 0 0 0 0, 0, 12⟩] })],
    [(.slot 0 0 0 0, agent0 [])], [], [], [], [(0x1000, List.replicate 8 0)], [], [], []⟩
def restoring (w0 : Nat) : State :=
  { serving [(4, 0x10000)] with
    saved := [savedProg], progs := [((1, 0), { prog0 with quota := [] })], agents := [(.service 0 0, agent0 [(4, 0x10000)])], spurs := [], roots := [(1, 0x1001)]
    mem := memSets State.reset.mem (span 0x10000 8) (leBytes 8 w0) }

/-- Whether what is read back is whole. -/
def wholeBack : Except Stop (Back × State) → Bool
  | .ok (b, _) => (b.img ++ b.dyn).all fun y => y.2.kept && y.2.bad == []
  | .error _ => false

/-- Whether a saved program is read back whole. -/
def readsBack (s : State) (x : Saved) : Bool := wholeBack ((inAsid (0, 0) x.asid (readBack (0, 0) x none)).run (freshRoot x.asid s))
/-- Whether a program's context can be written. -/
def writesContext (s : State) : Bool :=
  match (do let m ← imageOf (0, 0); writeContext (0, 0) 0x10000 m (s.prog (0, 0)).quota.length; pure m : Act Image).run s with
  | .ok _ => true
  | .error _ => false

theorem span_get : ∀ (n a i x : Nat), (span a n)[i]? = some x → x = a + i ∧ i < n
  | 0, _, _, _, h => by simp [span] at h
  | n + 1, a, 0, x, h => by simp [span] at h; omega
  | n + 1, a, i + 1, x, h => by have := span_get n (a + 1) i x (by simpa [span] using h); omega

theorem span_length : ∀ (n a : Nat), (span a n).length = n
  | 0, _ => rfl
  | n + 1, a => by simp [span, span_length n]

/-- The page of 1 GiB at 0. -/
def pageG : TlbEntry := ⟨0, none, 1, 0, 30, 0x1F⟩

/-- Only the page at 0 is mapped, for address space 1; no engine owns a line, no line is poisoned and no word claimed. -/
def OnePage (s : State) : Prop :=
  s.tlb = [pageG] ∧ (s.prog (0, 0)).asid = 1 ∧ s.owned = [] ∧ s.bad = [] ∧ s.claims = []

theorem onePage_trans {s : State} {nd : Need} {va n : Nat} (h : OnePage s) (hp : permits nd 0x1F = true) (hn : va + n ≤ 2 ^ 30)
    (hr : nd.deferred = true ∨ s.reach (.die 0) = true) : (partTrans (0, 0) nd va n).run s = .ok (span va n, s) := by
  refine partTrans_hits n va _ (span_length n va) fun i key hk => ?_
  obtain ⟨rfl, hi⟩ := span_get n va i key hk
  refine ⟨pageG, by omega, ?_, ?_, hp, ?_, ?_⟩
  · simp [tlbFind, h.1, h.2.1, pageG]
    omega
  · show va + i = pteSpace 0x1F * 2 ^ 52 + (pteFrame 0x1F / 2 ^ 30 * 2 ^ 30 + (va + i) % 2 ^ 56 % 2 ^ 30)
    have h1 : pteSpace 0x1F = 0 := by decide
    have h2 : pteFrame 0x1F / 2 ^ 30 = 0 := by decide
    omega
  · show (nd.writes && pteRoSpawn 0x1F && _) = false
    simp [show pteRoSpawn 0x1F = false from by decide]
  · rcases hr with hr | hr
    · exact .inl hr
    · right
      have h1 : keySpace (va + i) = 0 := by unfold keySpace; omega
      have h2 : pteHome 0x1F = 0 := by decide
      simpa [homeOf, h1, pageG, h2] using hr

theorem onePage_free {s : State} (h : OnePage s) (keys : List Nat) : keys.any s.ownedLine = false ∧
    keys.any s.poisoned = false ∧ claimedWord s keys = false := by
  refine ⟨?_, ?_, ?_⟩ <;>
    simp [List.any_eq_false, State.ownedLine, State.poisoned, claimedWord, tabGet, h.2.2.1, h.2.2.2.1, h.2.2.2.2]

theorem onePage_write {s : State} {va : Nat} {bs : List Byte} (h : OnePage s) (hn : va + bs.length ≤ 2 ^ 30) :
    ∃ u, (partWrite (0, 0) va bs).run s = .ok ((), u) ∧ OnePage u := by
  obtain ⟨l, w, d, v, hw⟩ := partWrite_ok (onePage_trans h (by decide) hn (.inl rfl)) (onePage_free h _).1 (onePage_free h _).2.2
  exact ⟨_, hw, h⟩

theorem onePage_read {s : State} {va n : Nat} (h : OnePage s) (hn : va + n ≤ 2 ^ 30) (hr : s.reach (.die 0) = true) :
    ∃ bs u, (partRead (0, 0) va n).run s = .ok (bs, u) ∧ OnePage u := by
  obtain ⟨bs, f, hm⟩ := maskSpill_frame s (span va n) (memGets s.mem (span va n))
  obtain ⟨l, w, d, v, ht⟩ := touchL1_frame { s with free := f } (.slot 0 0 0 0) false false (span va n)
  refine ⟨bs, { s with free := f, l1 := l, writes := w, dies := d, saved := v }, ?_, h⟩
  have hp : ((span va n).zipIdx.find? fun p => s.poisoned p.1) = none := by simp [State.poisoned, h.2.2.2.1]
  simp only [partRead, awaitOwner, poisonTrap, StateT.run_bind, onePage_trans h (nd := .read) (by decide) hn (.inr hr), ok_bind, run_get,
    (onePage_free h _).1, hp, hm, ht, Bool.false_eq_true, if_false, run_pure, run_set]

/-- The pages of a context area are checked, with no change. -/
theorem onePage_check {s : State} {n : Nat} (h : OnePage s) (hn : n ≤ 0x20000000) (hr : s.reach (.die 0) = true) :
    (areaCheck (0, 0) 0x10000 n).run s = .ok ((), s) := by
  have hl : ∀ l : List Nat, (∀ i ∈ l, i < 0x20000) → (forIn l PUnit.unit fun i _ => (do
      let _ ← partTrans (0, 0) .read (0x10000 + i * 4096) 1
      let _ ← partTrans (0, 0) .write (0x10000 + i * 4096) 1
      pure (ForInStep.yield PUnit.unit) : Act (ForInStep PUnit))).run s = .ok (PUnit.unit, s) := by
    intro l
    induction l with
    | nil => intro _; rfl
    | cons i l ih =>
      intro hi
      have hi0 := hi i (.head _)
      have h1 := onePage_trans (nd := .read) (va := 0x10000 + i * 4096) (n := 1) h (by decide) (by omega) (.inr hr)
      have h2 := onePage_trans (nd := .write) (va := 0x10000 + i * 4096) (n := 1) h (by decide) (by omega) (.inl rfl)
      simp only [List.forIn_cons, StateT.run_bind, h1, h2, ok_bind, run_pure]
      exact ih fun j hj => hi j (.tail _ hj)
  have h0 := hl (List.range ((n + 4095) / 4096)) fun i hi => by have := List.mem_range.1 hi; omega
  simp only [areaCheck, StateT.run_bind, h0, ok_bind, run_pure]

/-- A program of no spur, no descriptor and no run list: its context is the master record alone. -/
theorem onePage_context {s : State} (h : OnePage s) (hr : s.reach (.die 0) = true) (hq : (s.prog (0, 0)).quota = [])
    (hd : descCount s (0, 0) = 0) (hr' : (s.prog (0, 0)).runList = [])
    (ha : (s.agents.filter fun x => isSlot x.1 && inProgram (0, 0) x) = []) (hz : areaSize (s.prog (0, 0)) ≤ 0x20000000) : writesContext s = true := by
  have hi : ∃ bs : List Byte, bs.length = 0xF000 ∧ (imageOf (0, 0)).run s = .ok (⟨[(0x1000, bs)], [], [], []⟩, s) := by
    obtain ⟨n, hn⟩ : ∃ n, n = 0xF000 := ⟨_, rfl⟩
    rw [← hn]
    refine ⟨(List.range n).map (Config.masterByte (masterNumbers s (0, 0))), by rw [List.length_map, List.length_range], ?_⟩
    have hl : dynRecords s (0, 0) = [] := by simp only [dynRecords, hr', ha, List.flatMap_nil, List.append_nil]
    simp only [imageOf, looseImage, ← hn, dynImage, descPlaces, fixedImage, poisonImage, dynPoison, StateT.run_bind, run_get,
      ok_bind, hq, hd, hl, run_pure, List.mapM_nil, List.zipIdx_nil, List.flatMap_nil, List.map_nil,
      List.append_nil, Nat.reduceAdd, Nat.reduceDiv, List.take_zero]
  obtain ⟨bs, hb, hi⟩ := hi
  have hc := onePage_check (n := areaSize (s.prog (0, 0))) h hz hr
  obtain ⟨w, v, hv, hv'⟩ := onePage_read (n := 8) (va := 0x10000) h (by decide) hr
  obtain ⟨x, hx, hx'⟩ := onePage_write (va := 0x11000) (bs := bs) hv' (by omega)
  obtain ⟨y, hy, -⟩ := onePage_write (va := 0x10000) (bs := leBytes 8 (savedHeader (leNat w) 0)) hx' (by simp [leBytes])
  simp -implicitDefEqProofs only [writesContext, hq, writeContext, StateT.run_bind, run_gets, hi, hc, ok_bind, hv, List.forIn_cons, List.forIn_nil, hx, hy,
    run_pure, List.length_nil, Nat.reduceAdd]

theorem writes_alone : writesContext (restProgram (0, 0) savingAlone) = true :=
  onePage_context (by unfold OnePage; decide +kernel) (by decide +kernel) (by decide +kernel) (by decide +kernel) (by decide +kernel)
    (by decide +kernel) (by decide +kernel)

/-- The parts of a saved context, read after the check of its area. -/
def readParts (x : Saved) : Act Back := do
  let img ← x.image.mapM fun (o, bs) => do
    let bad := (x.bad.filter fun b => decide (o ≤ b ∧ b < o + bs.length)).map (· - o)
    pure (o, ← partBack (← areaKeys (0, 0) x none o bs.length) bs bad)
  let dyn ← x.dyn.mapM fun (n, at', bs) => do
    let bad := (x.dynBad.filter fun b => b.1 == n).map (·.2)
    pure (n, ← partBack (if at' = 0 then [] else dynKeys at' bs.length) (if at' = 0 then [] else bs) bad)
  pure ⟨img, dyn⟩

theorem readBack_eq (x : Saved) : readBack (0, 0) x none = (areaCheck (0, 0) x.area (areaSize x.prog) >>= fun _ => readParts x) := by
  unfold readBack readParts
  simp only [Option.isNone, if_true]

theorem run_readBack {s v : State} {x : Saved} (hc : (areaCheck (0, 0) x.area (areaSize x.prog)).run s = .ok ((), v)) :
    (readBack (0, 0) x none).run s = (readParts x).run v := by
  rw [readBack_eq, StateT.run_bind, hc, ok_bind]

theorem run_inAsid {α : Type} {s v : State} {n : Nat} {act : Act α} {r : α}
    (h : act.run (s.setProg (0, 0) { Prog.blank with asid := n }) = .ok (r, v)) :
    ∃ w, (inAsid (0, 0) n act).run s = .ok (r, w) := by
  simp only [inAsid, StateT.run_bind, run_gets, run_mods, ok_bind, h, run_pure]
  exact ⟨_, rfl⟩

theorem readsBack_of {s v : State} {x : Saved} (hf : freshRoot x.asid s = s)
    (hc : (areaCheck (0, 0) x.area (areaSize x.prog)).run (s.setProg (0, 0) { Prog.blank with asid := x.asid }) = .ok ((), v))
    (h : wholeBack ((readParts x).run v) = true) : readsBack s x = true := by
  cases hp : (readParts x).run v with
  | error e => rw [hp] at h; exact absurd h Bool.false_ne_true
  | ok p =>
    obtain ⟨w, hw⟩ := run_inAsid ((run_readBack hc).trans hp)
    rw [hp] at h
    unfold readsBack
    rw [hf]
    exact (congrArg wholeBack hw).trans h

theorem reads_back : readsBack (restoring 0x020001) savedProg = true :=
  readsBack_of (if_pos (by decide +kernel))
    (onePage_check (by unfold OnePage; decide +kernel) (by decide +kernel) (by decide +kernel)) (by decide +kernel)

theorem partKeys_of {s : State} {k : Nat × Nat} {nd : Need} {va n : Nat} {keys : List Nat} (es : List (Nat × Nat))
    (h : (es.length == n && (keys == es.map (·.2)) &&
      es.zipIdx.all fun x => queueB s k.1 (s.prog k).asid nd ((va + x.2) % 2 ^ 56) x.1.1 x.1.2) = true)
    (c : (clearB s keys && !claimedWord s keys) = true) (r : ∀ t ∈ s.tlb, pteRoSpawn t.entry = false) : PartKeys s k nd va n keys := by
  simp only [Bool.and_eq_true, Bool.not_eq_true'] at c
  exact ⟨queueKeys_of es h, clear_of c.1, c.2, fun _ _ => r⟩

theorem witness_ContextSaveAndRestore :
    (∀ w0 ∈ [0x010001, 0x030001, 0x010002],
      let s := servingAt w0 [(4, 0x10000)]
      let p := s.prog (0, 0)
      Ready .p [.r 4] s ∧ p.running = true ∧ p.ending = none ∧ p.saving = none ∧ PartKeys s (0, 0) .read 0x10000 8 (span 0x10000 8) ∧
        PartKeys s (0, 0) .write 0x10000 8 (span 0x10000 8) ∧ leNat (memGets s.mem (span 0x10000 8)) = w0) ∧
    (∀ w0 ∈ [0x020001, 0x030001],
      let s := restoring w0
      Ready .p [.r 4] s ∧ (s.prog (0, 0)).running = false ∧ (∀ y ∈ span 0x10000 8, s.ownedLine y = false) ∧
        headerOk s 0x10000 = (w0 == 0x020001)) ∧
    (let s := restoring 0x020001
     let x := savedProg
     let m : Place := ⟨0, 0, (x.spurs.map (·.1)).zip (restoreSpurs s 0 x)⟩
     findSaved { s with saved := [] } (0, 0) 0x10000 = none ∧ findSaved s (0, 0) 0x10000 = some (x, none) ∧ canRestore s 0 x = true ∧
       tabGet s.roots x.asid 0 % 2 = 1 ∧
       readsBack s x = true ∧ (∀ y ∈ x.threads, isSlot y.1 = true) ∧ (x.threads.map fun y => m.agent y.1).Nodup) ∧
    (let s := { restoring 0x020001 with fences := (List.range 124).map fun p => ⟨4, 0, p⟩ }
     let s := s.setDie 0 { s.die 0 with scree := List.replicate 4096 desc1 }
     canRestore s 0 { savedProg with scree := [desc1] } = false) ∧
    (let s := savingAlone
     let w := restProgram (0, 0) s
     (s.prog (0, 0)).saving = some ⟨0x10000, none⟩ ∧ (s.prog (0, 0)).ending = none ∧ saveReady s (0, 0) = true ∧ (w.prog (0, 0)).ending = none ∧
       atRest w (0, 0) = true ∧ dynRoom s (0, 0) (saveRecords s (0, 0)) = true ∧ writesContext w = true) ∧
    (let s := saving.setDie 0 { saving.die 0 with scree := [desc1] }
     (s.prog (0, 0)).saving = some ⟨0x10000, none⟩ ∧ saveReady s (0, 0) = true ∧ (s.prog (0, 0)).ending = none ∧
       dynRoom s (0, 0) (saveRecords s (0, 0)) = false) :=
  ⟨fun x hx => ⟨ready_of (by revert x hx; decide +kernel), by revert x hx; decide +kernel, by revert x hx; decide +kernel,
      by revert x hx; decide +kernel, partKeys_of (ids 0x10000 8) (by revert x hx; decide +kernel) (by revert x hx; decide +kernel)
      (by revert x hx; decide +kernel), partKeys_of (ids 0x10000 8) (by revert x hx; decide +kernel) (by revert x hx; decide +kernel)
      (by revert x hx; decide +kernel), by revert x hx; decide +kernel⟩,
    fun x hx => ⟨ready_of (by revert x hx; decide +kernel), by revert x hx; decide +kernel⟩,
    ⟨by decide +kernel, by decide +kernel, by decide +kernel, by decide +kernel, reads_back, by decide +kernel, by decide +kernel⟩, by decide +kernel,
    ⟨by decide +kernel, by decide +kernel, by decide +kernel, by decide +kernel, by decide +kernel, by decide +kernel, writes_alone⟩,
    by decide +kernel⟩

/-- Saves and restores that are refused: of a core without a program, of one ending or saved already, of an area whose root is invalid. -/
theorem witness_ContextSaveAndRestore_refused :
    (let s := serving [(4, 0x10000)]
     Ready .p [.r 4] s ∧ (s.prog (0, 1)).running = false ∧ s.ownedLine (physKey 0x10000) = false ∧ keyExists (physKey 0x10000 + 3) = true ∧
       keyExists (physKey (2 ^ 52 - 8) + 3) = false) ∧
    (∀ x ∈ [(some haltEnd, (none : Option SaveReq)), (none, some ⟨0x10000, none⟩)],
      let s := serving [(4, 0x10000)]
      let s := s.setProg (0, 0) { s.prog (0, 0) with ending := x.1, saving := x.2 }
      Ready .p [.r 4] s ∧ (s.prog (0, 0)).running = true ∧ PartKeys s (0, 0) .read 0x10000 8 (span 0x10000 8) ∧
        PartKeys s (0, 0) .write 0x10000 8 (span 0x10000 8) ∧ ((s.prog (0, 0)).ending ≠ none ∨ (s.prog (0, 0)).saving ≠ none)) ∧
    (let s := serving [(4, 0x10000)]
     Ready .p [.r 4] s ∧ (s.prog (0, 0)).running = true ∧ ∀ y ∈ span (physKey 0x10000) 8, s.ownedLine y = false) ∧
    (let s := { restoring 0x020001 with roots := [] }
     Ready .p [.r 4] s ∧ (s.prog (0, 0)).running = false ∧ headerOk s 0x10000 = true ∧ findSaved s (0, 0) 0x10000 = some (savedProg, none) ∧
       tabGet s.roots savedProg.asid 0 % 2 ≠ 1) :=
  ⟨⟨ready_of (by decide +kernel), by decide +kernel⟩,
    fun x hx => ⟨ready_of (by revert x hx; decide +kernel), by revert x hx; decide +kernel,
      partKeys_of (ids 0x10000 8) (by revert x hx; decide +kernel) (by revert x hx; decide +kernel) (by revert x hx; decide +kernel),
      partKeys_of (ids 0x10000 8) (by revert x hx; decide +kernel) (by revert x hx; decide +kernel) (by revert x hx; decide +kernel),
      by revert x hx; decide +kernel⟩,
    ⟨ready_of (by decide +kernel), by decide +kernel⟩, ready_of (by decide +kernel), by decide +kernel⟩

/-! Events of the homes, the units, firmware, links, the host and power -/

/-- A store and a reduction of a thread outstanding to a word, its line poisoned or its home gone; a claim of that word. -/
def t0 : AgentId := .slot 0 0 0 0
def pendOf (k : PendKind) (h : Nat) : Pend := ⟨5, 0x400, span 0x400 8, [.die h], k, false, 0, none, false⟩
def frame1 : Frame := ⟨0, Ctx.blank, [], [], [], desc1, 0, 0, [], false, (0, false, false)⟩
def holding (k : PendKind) (h : Nat) (bad : List Nat) (frames : List Frame) : State :=
  let s := onThread []
  { (s.setMe { s.me with pend := [onePend, pendOf k h], frames := frames }).setDie 2 { s.die 2 with state := .out } with bad := bad }
def load1 : LoadReq := ⟨0x400, 8, true, 3, true, false⟩
def amo1 : AmoReq := ⟨1, 64, 3, 0x1234, 0x5, 0x400, span 0x400 8, [.die 0], none⟩
def claiming (granted bad : List Nat) : State := { sleeping (.claim amo1) [] with claims := [(0x80, [.amo t0])], granted := granted, bad := bad }

theorem witness_AccessEvents :
    (let s := sleeping (.load load1) []
     (s.agent t0).wait = .load load1 ∧ ReadsAs (s.turn t0) 0x400 8 (List.replicate 8 0)) ∧
    (∀ k ∈ [PendKind.store (leBytes 8 7), .red 0 1 5], ∀ h ∈ [0, 2], ∀ b ∈ [[], [16]], ∀ fs ∈ [[], [frame1]],
      let s := holding k h b fs
      let p := pendOf k h
      (s.agent t0).pend[1]? = some p ∧ p.queued = false ∧ claimedWord s p.keys = false ∧ (∀ x ∈ p.keys, s.ownedLine x = false) ∧
        (∀ q ∈ (s.agent t0).pend.take 1, overlaps q p.keys = false) ∧ (s.agent t0).frames[(s.agent t0).frames.length - 1 - p.depth]? = fs[0]? ∧
        (∀ x ∈ p.homes, s.reach x = (h == 0)) ∧ ∀ x ∈ p.keys, s.poisoned x = (b != [])) ∧
    (∀ g ∈ [[], [0x80]], ∀ b ∈ [[], [16]],
      let s := claiming g b
      tabGet s.claims 0x80 [] = .amo t0 :: [] ∧ s.ownedLine (0x80 * 8) = false ∧ (s.agent t0).wait = .claim amo1 ∧
        s.poisoned (0x80 * 8) = (b != [])) ∧
    (let s := claiming [0x80] []
     amo1.w = 64 ∧ (ids 0x400 8).length = amo1.w / 8 ∧ (∀ i e, (ids 0x400 8)[i]? = some e → Hits .atomic ((0x400 + i) % 2 ^ 56) (s.turn t0) e.1 e.2) ∧ (∀ e ∈ ids 0x400 8, s.poisoned e.2 = false) ∧
       Unshared (s.turn t0) ((ids 0x400 8).map (·.2))) ∧
    (let r : SfuReq := ⟨t0, 5, false, 1, 0, []⟩
     let s := sleeping .sfu []
     ((s.setSpur (0, 0) { s.spur (0, 0) with sfu := [r] }).spur (0, 0)).sfu = [r] ∧
       ((s.setSpur (0, 0) { s.spur (0, 0) with sfuRun := [r] }).spur (0, 0)).sfuRun = [r] ∧ (s.agent t0).live = true ∧ (s.agent t0).wait = .sfu) := by
  refine ⟨⟨by decide +kernel, readsAs_of (ids 0x400 8) (by decide +kernel)⟩, by decide +kernel, by decide +kernel,
    ⟨rfl, rfl, hitsAll_of (by decide +kernel), by decide +kernel, ?_⟩, by decide +kernel⟩
  exact show ∀ p ∈ ((claiming [0x80] []).turn t0).me.pend, _ from by decide +kernel

/-- A thread waiting with a claim to a home that is out. -/
theorem witness_AccessEvents_lost :
    (let s := claiming [0x80] []
     (s.agent t0).wait = .claim amo1 ∧ (amo1.w = 32 ∨ amo1.w = 64) ∧ amo1.keys.length = amo1.w / 8 ∧
       (∀ k ∈ amo1.keys, s.poisoned k = false ∧ s.spillKey k = false) ∧ ∀ h ∈ amo1.homes, s.reach h = true) ∧
    (let r : AmoReq := { amo1 with homes := [.die 2] }
     let s := { sleeping (.claim r) [] with claims := [(0x80, [.amo t0])], granted := [0x80] }
     let s := s.setDie 2 { s.die 2 with state := .out }
     (s.agent t0).wait = .claim r ∧ tabGet s.claims 0x80 [] = .amo t0 :: [] ∧ ∃ h ∈ r.homes, s.reach h = false) ∧
    ∀ k ∈ span 0x400 8, (holding (.red 0 1 5) 0 [] []).spillKey k = false := by
  refine ⟨?_, ?_, ?_⟩ <;> decide +kernel

/-- A thread that waits for the page of 0x400010, whose fault is recorded; the page mapped by a four-level table at 0x100000. -/
def fault1 : FaultRec := ⟨7, 1, faultPage 0x400010, 0x400010, 0, 0, 12, false, false, [], false⟩
def faulting (f : FaultRec) (pte : Nat) : State :=
  let s := { sleeping (.page 0x400010) [] with roots := [(1, 0x100001)], writes := [((0x200, 2), 9), ((0x200, 0), 3)] }
  let s := (((s.wrN 0x100000 8 0x101001).wrN 0x101000 8 0x102001).wrN 0x102010 8 0x103001).wrN 0x103000 8 pte
  s.setDie 0 { s.die 0 with faults := [f], ring := { (s.die 0).ring with out := [77], bound := true, base := 0x8000, lsize := 4 } }
def moving (st : MoveState) : State := { faulting fault1 0x20009F with moves := [⟨0, 1, 0x400000, 12, 0x200000, 2, 0x900000, st⟩] }

theorem witness_FaultService :
    (let s := faulting fault1 0
     (s.die 0).faults[0]? = some fault1 ∧ servesDie s 0 = true ∧ fault1.sent = false ∧ fault1.held = false ∧
       invalidSlot s 4 (rootTable (tabGet s.roots 1 0)) 0x400010 = some 0x103000 ∧ fwRuns s = true ∧ (s.agent t0).wait = .page 0x400010 ∧
       fault1.holds 0x400010 = true ∧ retiredFrame s (pteFrame 0x20001F / 4096) = false) ∧
    (let f := { fault1 with held := true, waiters := [.thread 0 0 0 0] }
     let s := faulting f 0x20001F
     (s.die 0).faults[0]? = some f ∧ walk s 1 0x400010 = .leaf 0x20001F 12 ∧ pteMigrating 0x20001F = false) ∧
    (let r := ((faulting fault1 0).die 0).ring
     r.out = [77] ∧ r.bound = true ∧ (r.tail + 2 ^ 32 - r.head) % 2 ^ 32 < 2 ^ r.lsize) ∧
    (let s := faulting fault1 0x20001F
     walk s 1 0x400000 = .leaf 0x20001F 12 ∧ leafSlot s 4 (rootTable (tabGet s.roots 1 0)) 0x400000 = some (0x103000, 0x20001F, 12) ∧ servesDie s 2 = true ∧
       pteSpace 0x20001F = 0 ∧ pteMigrating 0x20001F = false ∧ ptePin 0x20001F = false ∧ 0x900 * 4096 + 4096 ≤ hbmBytes ∧
       retiredFrame s 0x900 = false ∧ tabGet s.writes (0x200, 0) 0 < tabGet s.writes (0x200, 2) 0) ∧
    (∀ st ∈ [MoveState.fencing, .draining, .copying], (moving st).moves[0]? = some ⟨0, 1, 0x400000, 12, 0x200000, 2, 0x900000, st⟩) ∧
    (let s := moving .draining
     let s := s.setMe { s.me with pend := [onePend] }
     s.owned = [] ∧ s.claims = [] ∧ ∀ x ∈ s.agents, ∀ p ∈ x.2.pend, pendFree s p = true) ∧
    (let s := moving .copying
     MemOk s ∧ 0x900000 / 4096 < 2 ^ 40 ∧ 0x200000 + 4096 ≤ 0x900000 ∧
       leafSlot (copyPage ⟨0, 1, 0x400000, 12, 0x200000, 2, 0x900000, .copying⟩ s) 4 (rootTable (tabGet s.roots 1 0)) 0x400000 =
         some (0x103000, 0x20009F, 12) ∧ leafSlot s 4 (rootTable (tabGet s.roots 1 0)) 0x400000 = some (0x103000, 0x20009F, 12)) :=
  ⟨by decide +kernel, by decide +kernel, by decide +kernel, by decide +kernel, by decide +kernel, by decide +kernel,
    show Memory.wf _ = true from by decide +kernel, by decide +kernel⟩

theorem witness_FaultService_cases :
    (let s := faulting fault1 0
     let r := (s.die 0).ring
     (∀ k ∈ ringKeys r, s.ownedLine k = false) ∧ claimedWord s (ringKeys r) = false ∧ fwRuns s = true ∧
       (let u := { s with owned := [⟨0x8000 / 64, 5, 1, 0x8000⟩] }
        (u.die 0).ring.out = [77] ∧ ∃ k ∈ ringKeys (u.die 0).ring, u.ownedLine k = true)) ∧
    (∀ x ∈ [(false, 4, 0), (true, 4, 16)], let s := faulting fault1 0
      let s := s.setDie 0 { s.die 0 with ring := { (s.die 0).ring with bound := x.1, lsize := x.2.1, tail := x.2.2 } }
      (s.die 0).ring.out = [77] ∧ ((s.die 0).ring.bound = false ∨ 2 ^ 4 ≤ ((s.die 0).ring.tail + 2 ^ 32 - (s.die 0).ring.head) % 2 ^ 32)) ∧
    (∀ x ∈ [((0x20001F : Nat), ([] : List Nat), false), (0x20001F, [0x200], true), (0x20001F + 2 ^ 9, [], false)],
      let s := { faulting fault1 x.1 with retired := x.2.1 }
      walk s 1 0x400000 = .leaf x.1 12 ∧ leafSlot s 4 (rootTable (tabGet s.roots 1 0)) 0x400000 = some (0x103000, x.1, 12) ∧
        servesDie s 0 = true ∧ pteHome x.1 = 0 ∧ pteSpace x.1 = 0 ∧ pteMigrating x.1 = false ∧ retiredFrame s 0x900 = false ∧
        retiredFrame s (pteFrame x.1 / 4096) = x.2.2) := by
  refine ⟨?_, ?_, ?_⟩ <;> decide +kernel

/-- A sample within a window: of a program alone, held no more, and of one whose window a heavier program has left. -/
theorem witness_GovernorSamples_held :
    (let s := onThread []
     let s := s.setDie 0 { s.die 0 with sample := 1, goneWeight := 9 }
     servesDie s 0 = true ∧ (0 : Nat) ∈ runningCores s 0 ∧ ¬ (s.die 0).sample % 100 = 0 ∧ 0 < (s.prog (0, 0)).weight ∧
       ((runningCores s 0).filter fun x => decide (x ≠ 0)) = [] ∧
       ¬ 100 * (0 + (s.die 0).goneWeight) / (0 + (s.die 0).goneWeight + (s.prog (0, 0)).weight) ≤ (s.prog (0, 0)).winHeld) ∧
    (100 * 0 / (0 + ((onThread []).prog (0, 0)).weight) ≤ 0 ∧ ((onThread []).die 0).sample % 100 = 0) := by
  decide +kernel

theorem witness_GovernorSamples : servesDie (onThread []) 0 = true ∧ (0 : Nat) ∈ runningCores (onThread []) 0 := by decide +kernel

/-- A spur with a bank in the RDC that holds a line, and a token in the cell of its first slot. -/
def caching : State :=
  let s := onThread []
  s.setSpur (0, 0) { s.spur (0, 0) with
    roles := (5, .rdc) :: spur0.roles, places := (5, 0) :: spur0.places, rdc := [⟨16, List.replicate 64 7, []⟩]
    tokens := [(0, ⟨t0, 5, false, 1, 0, []⟩)] }
/-- A die lost, no agent live on it, its program ending. -/
def lostDie : State :=
  let s := onThread []
  let s := s.setProg (0, 0) { s.prog (0, 0) with ending := some ⟨5, 0, 0, 0, 0, 0, none, true⟩ }
  { s.setDie 0 { s.die 0 with state := .lost } with agents := [] }

theorem witness_ErrorEvents :
    (let s := onThread []
     let s := s.setDie 0 { s.die 0 with errLimit := 1 }
     servesDie s 0 = true ∧ unitExists 2 5 = true ∧ 0 < (s.die 0).errLimit ∧ (⟨2, 0, 5⟩ : Machine.Fence) ∉ s.fences ∧
       (s.spur (0, 9 / 32)).role (9 % 32) = .free ∧ spurSpawning s (0, 0) = true ∧ spurSpawning (onMaster []) (0, 0) = false ∧
       (s.spur (0, 0)).role (0x8008 / 32768) ∈ [Role.scr, .til, .acc] ∧ (s.agent (regAgent 0 0)).live = true ∧
       isSlot (regAgent 0 0) = true ∧ 5 < (s.agent (regAgent 0 0)).ctx.window ∧ (s.spur (0, 0)).fenced = false) ∧
    (let s := caching
     let p := s.spur (0, 0)
     servesDie s 0 = true ∧ p.role (0x28010 / 32768) = .rdc ∧
       (p.rdc[(tabGet p.places (0x28010 / 32768) 0 * 32768 + 0x28010 % 32768) / 64]?).isSome = true ∧
       (tabFind p.tokens ((0x100008 - 2 ^ 20) / 16)).isSome = true) ∧
    ((lostDie.die 0).state = .lost ∧ fwRuns lostDie = true ∧ (lostDie.prog (0, 1)).running = false ∧ lostDie.agents = [] ∧
      (lostDie.prog (0, 0)).running = true ∧ ((lostDie.prog (0, 0)).ending).isSome = true) ∧
    MemOk { onThread [] with power := .stopped } :=
  ⟨by decide +kernel, by decide +kernel, by decide +kernel, show Memory.wf _ = true from by decide +kernel⟩

/-- A queue of die 0 with two packets in its ring at 0x4000, the first as given, and those started. -/
def queueing (started : List Packet) (w : Nat) : State :=
  let s := onMaster []
  let s := s.setQueue (0, 3) { s.queue (0, 3) with
    state := .ready, base := 0x4000, lsize := 4, weight := 2, asid := 1, head := 3, tail := 5, next := 3, started := started }
  { s with mem := memSets s.mem (span 0x40C0 64) (leBytes 64 w), roots := [(1, 0x100001)] }
/-- A LAUNCH of one spur, of the default split. -/
def launch1 : Nat := 1 + 0x8000 * 2 ^ 192 + 0x600 * 2 ^ 256 + 2 ^ 320 + 2 ^ 328 + 5 * 2 ^ 340 + 2 ^ 382 + 0x10000 * 2 ^ 448
/-- What a fetch of the head packet gives, and whether it leaves the rest of the state. -/
def fetches (s : State) (w : Nat) : Bool := match (fetchPacket (0, 3)).run s with
  | .ok (x, u) => x == w && u.owned == [] && u.claims == []
  | .error _ => false

/-- Whether the header of a launched program's context can be read and written, by no engine and clear of poison. -/
def writesHeader (s : State) : Bool :=
  let z := (freshRoot 1 s).setProg (0, 1) { Prog.blank with asid := 1 }
  match (do let hk ← partTrans (0, 1) .read 0x10000 8; let wk ← partTrans (0, 1) .write 0x10000 8; pure (hk ++ wk) : Act (List Nat)).run z with
  | .ok (keys, _) => (keys.all fun x => !z.ownedLine x && !z.poisoned x && !z.spillKey x) && !claimedWord z keys
  | .error _ => false

theorem witness_HostQueues :
    (let s := queueing [] 3
     (s.die 0).state = .up ∧ s.power ≠ .off ∧ s.power ≠ .stopped ∧ 2 ^ 4 < (20 + 2 ^ 32 - (s.queue (0, 3)).head) % 2 ^ 32 ∧
       ¬ 2 ^ 4 < (19 + 2 ^ 32 - (s.queue (0, 3)).head) % 2 ^ 32) ∧
    (∀ w ∈ [7, 2 + 2 ^ 12], canFetch (queueing [] w) (0, 3) = true ∧ fetches (queueing [] w) w = true ∧ pkEstat (queueing [] w) (0, 3) w ≠ 0) ∧
    (let s := queueing [packetOf 9 1 2] (3 + 2 ^ 10)
     canFetch s (0, 3) = true ∧ fetches s (3 + 2 ^ 10) = true ∧ pkEstat s (0, 3) (3 + 2 ^ 10) = 0 ∧ (s.queue (0, 3)).started ≠ []) ∧
    (let s := { queueing [] 3 with tlb := [], roots := [] }
     canFetch s (0, 3) = true ∧ (match (fetchAll (0, 3)).run s with | .error (.trap _) => true | _ => false) = true) ∧
    (let s := queueing [] launch1
     fetches s launch1 = true ∧ pkKind launch1 = 1 ∧ pkEstat s (0, 3) launch1 = 0 ∧ barred (s.queue (0, 3)) launch1 = false ∧
       nextLaunch s 0 = some 3 ∧ (s.prog (0, 1)).running = false ∧ (∀ x < 1, (s.prog (0, x)).running = true) ∧
       (match (readGinit (0, 3) launch1).run s with | .ok _ => true | _ => false) = true ∧ writesHeader s = true) := by
  refine ⟨?_, ?_, ?_, ?_, ?_⟩ <;> decide +kernel

theorem witness_Packets :
    (∀ w ∈ [2 + 0x900 * 2 ^ 192 + 0x400 * 2 ^ 256 + 64 * 2 ^ 320, 3, 3 + 2 ^ 8 + 0x800 * 2 ^ 64, 3 + 2 ^ 8 + 2 ^ 11 + 0x800 * 2 ^ 64,
        4 + 0x900 * 2 ^ 192 + 5 * 2 ^ 256, 5, 6 + 20 * 2 ^ 192], ∀ st ∈ [[], [packetOf 1 1 2]],
      let s := queueing st w
      canFetch s (0, 3) = true ∧ fetches s w = true ∧ pkEstat s (0, 3) w = 0 ∧ barred (s.queue (0, 3)) w = false ∧ nextOther s 0 = some 3 ∧
        tabGet s.roots 1 0 % 2 = 1 ∧ ∀ x ∈ st, x.num ≠ (s.queue (0, 3)).next) ∧
    (∀ nd ∈ [Need.atomic, .write, .read], QueueKeys (queueing [] 3) 0 1 nd 0x800 8 (span 0x800 8)) ∧
    (let p := packetOf 2 1 (2 + 0x900 * 2 ^ 192 + 0x400 * 2 ^ 256 + 64 * 2 ^ 320)
     let s := queueing [p] 3
     (s.queue (0, 3)).started[0]? = some p ∧ servesDie s 0 = true ∧ p.page = none ∧ p.refused = none ∧ p.done = false ∧ p.failed = false ∧ p.scope = 0 ∧
       s.owned = [] ∧ s.claims = [] ∧ p.kind = 2 ∧ p.pos ≤ p.z) ∧
    QueueKeys (queueing [] 3) 0 1 .read 0x400 64 (span 0x400 64) ∧ QueueKeys (queueing [] 3) 0 1 .write 0x900 64 (span 0x900 64) ∧
    (∀ x ∈ span 0x400 64, (queueing [] 3).poisoned x = false ∧ (queueing [] 3).spillKey x = false ∧ x ∉ span 0x900 64) ∧
    (let p := packetOf 2 1 (4 + 0x900 * 2 ^ 192)
     p.kind = 4 ∧ p.done = false ∧ QueueKeys (queueing [p] 3) 0 1 .read 0x900 8 (span 0x900 8)) := by
  refine ⟨by decide +kernel, ?_, by decide +kernel, queueKeys_of (ids 0x400 64) (by decide +kernel),
    queueKeys_of (ids 0x900 64) (by decide +kernel), by decide +kernel, rfl, rfl, queueKeys_of (ids 0x900 8) (by decide +kernel)⟩
  intro nd h
  simp only [List.mem_cons, List.not_mem_nil, or_false] at h
  rcases h with rfl | rfl | rfl <;> exact queueKeys_of (ids 0x800 8) (by decide +kernel)

/-- A request that stands in the mailbox: fields of an offset, a size and a value. -/
def asking (s : State) (l : List (Nat × Nat × Nat)) : State :=
  let bs := l.foldl (fun (bs : List Byte) x => bs.take x.1 ++ leBytes x.2.1 x.2.2 ++ bs.drop (x.1 + x.2.1)) (List.replicate 256 0)
  { s with mailbox := { s.mailbox with sub := bs, tag := 5, done := 4, busy := true, taken := false } }
def withQueue (x : QState) : State :=
  let s := onThread []
  s.setQueue (0, 3) { s.queue (0, 3) with state := x, base := 0x4000, lsize := 5, weight := 1, asid := 1, head := 2, tail := 4 }

theorem witness_MailboxCommands :
    (∀ c ∈ List.range 24, let s := asking (onThread []) [(0, 2, c)]
      mbOpen s = true ∧ mbCode s = c ∧ (s.die 0).state = .up ∧ argDie s = 0) ∧
    (∀ d ∈ [4, 255], argDie (asking (onThread []) [(8, 1, d)]) = d) ∧
    (∀ x ∈ [QState.disabled, .ready, .blocked, .fetchFault, .error], ((withQueue x).queue (0, 3)).state = x) ∧
    (let s := asking (withQueue .disabled) [(0, 2, 1), (9, 1, 3), (16, 8, 0x8000), (24, 1, 5), (26, 1, 2), (28, 2, 1), (36, 4, 4)]
     (queueOf (mbArg s 16 32)).isSome = true ∧ queueOf (mbArg (asking s []) 16 32) = none ∧ argUnit s = 3) ∧
    (let s := faulting { fault1 with sent := true } 0
     (s.die 0).faults.find? (fun f => f.id == 7 && f.sent) = some { fault1 with sent := true } ∧ (s.die 0).faults.find? (fun f => f.id == 8 && f.sent) = none) ∧
    (let s := onThread []
     ((s.setDie 0 { s.die 0 with extents := [⟨4, 0, 0, 0, 0x1000⟩] }).die 0).extents.find? (fun x => x.id == 4) = some ⟨4, 0, 0, 0, 0x1000⟩) ∧
    (let p := (onThread []).prog (0, 0)
     p.running = true ∧ p.ending = none ∧ p.saving = none ∧ ((onThread []).prog (0, 1)).running = false) ∧
    (∀ s ∈ [serving []], let s := s.setDie 0 { s.die 0 with extents := [⟨4, 0, 0, 0, 0x1000⟩] }
      (s.prog (0, 0)).ctx = 0x10000 ∧ (s.prog (0, 0)).ending = none ∧ PartKeys s (0, 0) .read 0x10020 8 (span 0x10020 8) ∧
        PartKeys s (0, 0) .write 0x10020 8 (span 0x10020 8) ∧ (∀ x ∈ span 0x10020 8, memGet s.mem x = 0) ∧ ∀ y ∈ s.agents, parks y.1 y.2 = false) ∧
    (∀ w0 ∈ [0x020001, 0x030001],
      let s := asking (restoring w0) [(0, 2, 10), (16, 8, 0x10000)]
      mbOpen s = true ∧ physKey (argA s) = 0x10000 ∧ headerOk s 0x10000 = (w0 == 0x020001) ∧ (∀ y ∈ span 0x10000 8, s.ownedLine y = false) ∧
        (s.prog (0, 0)).running = false ∧ findSaved { s with saved := [] } (0, 0) 0x10000 = none ∧ findSaved s (0, 0) 0x10000 = some (savedProg, none) ∧
        canRestore s 0 savedProg = true ∧ readsBack s savedProg = true) ∧
    (let s := onThread []
     (∀ x ∈ s.agents, x.2.pend = []) ∧ s.owned = [] ∧ s.claims = []) ∧
    ((∀ l < 32, ((onThread []).link l).trained = false) ∧ ∃ x ∈ (onThread []).progs, x.2.running = true ∧ x.2.asid = 1) ∧
    (∀ x ∈ (onThread []).progs, x.2.running = true → x.2.asid ≠ 2) := by
  refine ⟨by decide +kernel, by decide +kernel, by decide +kernel, by decide +kernel, by decide +kernel, by decide +kernel,
    by decide +kernel, ?_, by decide +kernel, by decide +kernel, ⟨by decide +kernel, _, .head _, by decide +kernel⟩, by decide +kernel⟩
  rintro s (_ | ⟨_, ⟨⟩⟩)
  exact ⟨by decide +kernel, by decide +kernel, partKeys_of (ids 0x10020 8) (by decide +kernel) (by decide +kernel) (by decide +kernel),
    partKeys_of (ids 0x10020 8) (by decide +kernel) (by decide +kernel) (by decide +kernel), by decide +kernel, by decide +kernel⟩

theorem witness_FirmwareCommands :
    (∀ c ∈ [0x11, 0x12, 0x13, 0x14, 0x15, 0x16, 0x17, 0x18], let s := asking (onThread []) [(0, 2, c), (8, 1, 6)]
      mbOpen s = true ∧ mbCode s = c ∧ s.fw.upd = .idle ∧ s.fw.standby.off = false ∧ s.node = 0x3FFFF ∧ (s.link 6).state = .down) ∧
    (∀ p ∈ [Power.idle, .sleep], mbOpen { asking (onThread []) [] with power := p } = true) ∧
    (∀ m ∈ [31, 32, 65], mbArg (asking (onThread []) [(8, 1, m)]) 8 1 = m) ∧
    (let s := asking (onThread []) [(0, 2, 0x11)]
     mbOpen { s with fw := s.fw.setStandby { s.fw.standby with off := true } } = true) ∧
    (let s := { asking (onThread []) [(0, 2, 0x17), (8, 1, 6), (9, 1, 1)] with node := 3 }
     mbOpen s = true ∧ mbArg s 9 1 = 1 ∧ (s.link 6).state = .down) := by
  refine ⟨?_, ?_, ?_, ?_, ?_⟩ <;> decide +kernel

theorem witness_MailboxCommands_cases :
    (∀ x ∈ [(0x8000, 4), (0x8004, 4), (0x8000, 3), (hbmBytes, 16)], let s := asking (onThread []) [(0, 2, 5), (16, 8, x.1), (24, 1, x.2)]
      mbOpen s = true ∧ argA s = x.1 ∧ mbArg s 24 1 = x.2 ∧
        (decide (argA s % 4096 = 0 ∧ 4 ≤ mbArg s 24 1 ∧ mbArg s 24 1 ≤ 16) && runExists (argA s) (32 * 2 ^ mbArg s 24 1)) = (x == (0x8000, 4))) ∧
    (∀ x ∈ [0, 1, 2], let s := asking (faulting { fault1 with sent := true } 0) [(0, 2, 6), (16, 1, x)]
      mbOpen s = true ∧ mbArg s 16 1 = x) ∧
    (∀ x ∈ [(0x200000, true), (0x200008, false), (hbmBytes, false)],
      let s := asking (serving []) [(0, 2, 7), (16, 8, x.1)]
      let s := s.setDie 0 { s.die 0 with extents := [⟨0, 0, 0, 0, 0x1000⟩] }
      mbOpen s = true ∧ argA s = x.1 ∧ argA s ≠ 0 ∧ (decide (argA s % 2 ^ 21 = 0) && runExists (argA s + (2 ^ 21 - 8)) 8) = x.2 ∧
        (s.die 0).extents.find? (fun y => y.id == arg32 s) = some ⟨0, 0, 0, 0, 0x1000⟩) ∧
    (∀ w0 ∈ [0x010001, 0x030001],
      let s := asking (servingAt w0 []) [(0, 2, 9)]
      mbOpen s = true ∧ (s.prog (0, 0)).ctx = 0x10000 ∧ (s.prog (0, 0)).running = true ∧
        PartKeys s (0, 0) .read 0x10000 8 (span 0x10000 8) ∧ PartKeys s (0, 0) .write 0x10000 8 (span 0x10000 8) ∧
        leNat (memGets s.mem (span 0x10000 8)) = w0) ∧
    (let s := { asking (restoring 0x020001) [(0, 2, 10), (16, 8, 0x10000)] with power := .sleep }
     mbOpen s = true ∧ s.power = .sleep) ∧
    (let s := { asking (restoring 0x020001) [(0, 2, 10), (16, 8, 0x10000)] with roots := [] }
     mbOpen s = true ∧ s.power ≠ .sleep ∧ headerOk s 0x10000 = true ∧ findSaved s (0, 0) 0x10000 = some (savedProg, none) ∧
       tabGet s.roots savedProg.asid 0 % 2 ≠ 1) ∧
    (let s := asking (onThread []) [(0, 2, 14), (16, 8, 0x10000), (24, 8, 1)]
     mbOpen s = true ∧ (∀ x ∈ s.agents, x.2.pend = []) ∧ stillUsed s (invCtl (argB s)) (argA s) = false) := by
  refine ⟨by decide +kernel, by decide +kernel, by decide +kernel, fun x hx => ⟨by revert x hx; decide +kernel, by revert x hx; decide +kernel,
      by revert x hx; decide +kernel, partKeys_of (ids 0x10000 8) (by revert x hx; decide +kernel) (by revert x hx; decide +kernel)
      (by revert x hx; decide +kernel), partKeys_of (ids 0x10000 8) (by revert x hx; decide +kernel) (by revert x hx; decide +kernel)
      (by revert x hx; decide +kernel), by revert x hx; decide +kernel⟩, by decide +kernel, by decide +kernel, by decide +kernel⟩

/-- A run that begins in host memory has all its bytes there. -/
theorem runExists_host {a n : Nat} (h : keySpace (physKey a) ≠ 0) : runExists a n = true := by
  have h2 : keySpace (physKey a + (n - 1)) ≠ 0 := by unfold keySpace at h ⊢; omega
  simp [runExists, keyExists, h, h2]

/-- A run that begins beyond HBM does not exist. -/
theorem runExists_beyond {a n : Nat} (h : keyExists (physKey a) = false) : runExists a n = false := by simp [runExists, h]

/-- Host memory has room for every image; a report, and a chain that fits, go to host memory; HBM ends at its 384 GiB. -/
theorem witness_FirmwareCommands_memory :
    (let s := asking (onThread []) [(0, 2, 0x11), (16, 8, 2 ^ 63)]
     mbOpen s = true ∧ s.fw.upd = .idle ∧ s.fw.standby.off = false ∧ imageExists (argA s) s = true) ∧
    (let s := asking (onThread []) [(0, 2, 0x11), (16, 8, hbmBytes)]
     mbOpen s = true ∧ imageExists (argA s) s = false) ∧
    (∀ x ∈ [(32, 0x8000), (31, 0x8000), (32, hbmBytes)], let s := asking (onThread []) [(0, 2, 0x12), (8, 1, x.1), (16, 8, 0x4000), (24, 8, x.2)]
      mbOpen s = true ∧ mbArg s 8 1 = x.1 ∧ (runExists (argA s) (mbArg s 8 1) && runExists (argB s) 5651) = (x.2 == 0x8000)) ∧
    (let s := asking (onThread []) [(0, 2, 0x13), (16, 8, 2 ^ 63), (24, 8, 2 ^ 64 - 1)]
     mbOpen s = true ∧ (Config.certificate.length < 2 ^ 64 → Config.certificate.length ≤ argB s ∧ runExists (argA s) Config.certificate.length = true)) ∧
    (let s := asking (onThread []) [(0, 2, 0x13), (16, 8, hbmBytes), (24, 8, 0)]
     mbOpen s = true ∧ ¬ runExists (argA s) Config.certificate.length = true) ∧
    (let s := { asking (onThread []) [(0, 2, 0x15)] with power := .idle, progs := [] }
     mbOpen s = true ∧ busy s = false ∧ mbOpen { s with power := .active } = true) ∧
    (let s := { asking (onThread []) [(0, 2, 0x17), (8, 1, 6)] with node := 3 }
     mbOpen s = true ∧ mbArg s 8 1 = 6 ∧ mbArg s 9 1 = 0 ∧ s.node ≠ 0x3FFFF ∧ (s.link 6).state = .down ∧
       ((s.setLink 6 { s.link 6 with state := .active }).link 6).state ≠ .down) := by
  refine ⟨⟨by decide +kernel, by decide +kernel, by decide +kernel, ?_⟩, ⟨by decide +kernel, ?_⟩, by decide +kernel, ⟨by decide +kernel, fun h => ⟨?_, ?_⟩⟩,
    ⟨by decide +kernel, ?_⟩, by decide +kernel, by decide +kernel⟩
  · rw [imageExists, runExists_host (by decide +kernel), runExists_host (by decide +kernel)]; rfl
  · rw [imageExists, runExists_beyond (by decide +kernel)]; rfl
  · rw [show argB _ = 2 ^ 64 - 1 from by decide +kernel]; omega
  · exact runExists_host (by decide +kernel)
  · rw [runExists_beyond (by decide +kernel)]; decide

/-- Firmware in a state of an update, the first complex active, the standby up to the journal; neither, or the active one, dead. -/
def updating (u : UpdState) (alive : Bool) (missed n : Nat) : State :=
  let s := onThread []
  { s with fw := { s.fw with upd := u, missed := missed, a := { s.fw.a with alive := alive, applied := 1 }, b := { s.fw.b with applied := 1 }
                             journal := [.fences [], .counters 1 [⟨4, 5, 6⟩], .fences [⟨4, 0, 5⟩]], jseq := n } }

theorem witness_FirmwareEvents :
    (∀ u ∈ [UpdState.staged, .imports, .sync, .quiesce], let s := updating u true 0 1
      s.power ≠ .off ∧ s.power ≠ .stopped ∧ s.fw.active.alive = true ∧ s.fw.standby.alive = true ∧ s.fw.upd = u ∧
        s.fw.standby.applied = s.fw.jseq ∧ quiescent s = true) ∧
    (let f := (updating .idle false 3 3).fw
     3 ≤ f.missed ∧ f.active.alive = false ∧ f.standby.alive = true ∧ f.journal[f.standby.applied]? = some (.counters 1 [⟨4, 5, 6⟩]) ∧
       f.journal[f.standby.applied + 1]? = some (.fences [⟨4, 0, 5⟩])) := by
  refine ⟨?_, ?_⟩ <;> decide +kernel

/-- A link with five flits sent and not acknowledged, expecting the seventh. -/
def linked (x : LinkState) (l resends : Nat) : State :=
  (onThread []).setLink l { Link.blank with state := x, width := 8, next := 10, buf := List.replicate 5 (List.replicate 116 1), expected := 7, resends := resends, trained := true }

/-- LI s6, 0x1234_5678_9ABC_DEF0 expands to the four words of R64, NOP to the word of R63. -/
theorem test_pseudo :
    ((Pseudo.li 6 0x123456789ABCDEF0).expand.map encode = [some 0xFE26AF37, some 0x100C02F0, some 0xFE012345, some 0x170C199E]) ∧
    Pseudo.nop.expand.map encode = [some 0x10000000] := by decide +kernel

/-- The check value of CRC-64/ECMA-182 on the digits 1 to 9. -/
theorem test_crc64 : crc64 [0x31, 0x32, 0x33, 0x34, 0x35, 0x36, 0x37, 0x38, 0x39] = 0x6C40DF5F0B497347 := by decide +kernel

theorem witness_LinkEvents :
    (∀ x ∈ [LinkState.active, .replay, .training, .retrain, .down], ∀ l ∈ [6, 40], linksRun (linked x l 8) = true ∧ ((linked x l 8).link l).state = x) ∧
    (let r := (linked .active 6 0).link 6
     let una := (r.next + 4096 - r.buf.length % 4096) % 4096
     r.buf.length = 5 ∧ una = 5 ∧ (7 + 4096 - una) % 4096 = 2 ∧ r.expected = 7 ∧ (List.replicate 116 1#8).length = 116 ∧
       8 ∈ linkWidths 6 ∧ 8 ≤ goodLanes 6 r ∧ r.retrains.length ≤ 3) ∧
    (let s := onThread []
     servesDie s (s.homeDie 0x400) = true ∧ 0x400 < hbmBytes ∧ (∀ x ∈ span 0x400 8, s.ownedLine x = false) ∧ claimedWord s (span 0x400 8) = false ∧
       (∀ x ∈ span 0x400 8, s.poisoned x = false) ∧ s.applied = []) ∧
    (let s := { onThread [] with applied := [((Config.homeSlice (0x400 / 64) % 64, 3), [(9, 0)])] }
     (tabGet s.applied (s.homeDie 0x400 * 64 + Config.homeSlice (0x400 / 64) % 64, 3) []).any (fun x => x.1 == 9) = true) := by
  refine ⟨by decide +kernel, by decide +kernel, by decide +kernel, ?_⟩
  have h : State.homeDie { onThread [] with applied := [((Config.homeSlice (0x400 / 64) % 64, 3), [(9, 0)])] } 0x400 = 0 := by decide +kernel
  simp [h, tabGet]

theorem witness_LinkEvents_saddle :
    (let p := List.replicate 116 1#8
     let s := linked .active 40 0
     let t := s.setLink 40 { s.link 40 with detour := [(1, p)], via := [(7, 1)] }
     (s.link 40).detour = [] ∧ (t.link 40).detour = [(1, p)] ∧ (s.link 40).buf.length < 512 ∧ reverseLink 40 = 43 ∧
       (s.link 40).keeps (flitOf 0 7 0 p) = true ∧ (s.link 40).expected = 7 ∧ tabFind (t.link 40).via 7 = some 1 ∧
       saddleRoute t (saddleEnds 40).2 1 = some 42) ∧
    (let s := linked .retrain 40 0
     saddleEnds 40 = (2, 3) ∧ portWorks s 2 0 = true ∧ portWorks s 0 3 = true ∧ (s.link 40).via = [] ∧ (s.link 40).detour = [] ∧
       (s.link 43).left 43 = [] ∧ ¬ (5 ∈ linkWidths 40)) ∧
    (let s := (onThread []).setLink 40 { Link.blank with state := .replay, next := 10, buf := List.replicate 5 (List.replicate 116 1), naks := [7] }
     (s.link 40).naks = [7] ∧ (7 + 4096 - (s.link 40).una) % 4096 = 2) := by
  decide +kernel

theorem witness_PowerAndHost :
    State.reset.power = .idle ∧ (∀ p ∈ [Power.off, .active, .sleep], { State.reset with power := p }.power = p) ∧
    busy { State.reset with power := .active } = false ∧ busy (onThread []) = true ∧ hostReady (onThread []) (span 0x400 64) = true ∧
    (∀ x ∈ span 0x400 64, (onThread []).poisoned x = false) ∧
    (let f : BootFails := ⟨[0], 1, false, [(1, 3)], [3], [33], [(4, 1, 7)]⟩
     ¬ ((0 ∈ f.rom ∧ 1 ∈ f.rom) ∨ 2 ≤ f.slots ∨ f.micro = true) ∧ 3 ∈ f.deadStacks ∧ (1, 3) ∈ f.channels ∧ (4, 1, 7) ∈ f.units ∧
       unitExists 4 7 = true) ∧
    (onThread []).mailbox.done = (onThread []).mailbox.tag ∧
    ((onThread []).die 3).state = .up ∧ (0x10000 + 0x400 * 3 + 16 * 63) % 4 = 0 := by
  decide +kernel

theorem witness_LinkEvents_cases :
    (∀ l ∈ [6, 40], let s := linked .active l 0
      let t := s.setLink l { s.link l with naked := true }
      linksRun t = true ∧ (t.link l).state = .active ∧ (t.link l).naked = true ∧ (s.link l).naked = false) ∧
    (let p := List.replicate 116 1#8
     let s := (linked .active 40 0).setLink 40 { (linked .active 40 0).link 40 with naked := true }
     (s.link 40).keeps (flitOf 0 7 0 p) = true ∧ (s.link 40).keeps (flitOf 0 9 0 p) = true ∧ flitKind (List.replicate 3 (0 : Byte)) ≤ 3 ∧
       (List.replicate 3 (0 : Byte)).length ≠ 128) ∧
    (let s := (linked .active 6 0).setLink 6 { Link.blank with state := .active, buf := List.replicate 512 (List.replicate 116 1) }
     512 ≤ (s.link 6).buf.length ∧ linksRun s = true) ∧
    (let s := onThread []
     0x400 < hbmBytes ∧ ∀ x ∈ span 0x400 8, s.poisoned x = false ∧ s.spillKey x = false) ∧ hbmBytes ≤ 2 ^ 51 := by
  refine ⟨?_, ?_, ?_, ?_, ?_⟩ <;> decide +kernel

theorem witness_PowerAndHost_cases :
    (let f : BootFails := ⟨[0], 1, false, [(1, 3)], [3], [33], [(1, 2, 7), (3, 2, 7), (4, 1, 7)]⟩
     ¬ ((0 ∈ f.rom ∧ 1 ∈ f.rom) ∨ 2 ≤ f.slots ∨ f.micro = true) ∧ ∀ x ∈ f.units, (x.1 = 1 ∨ x.1 = 3 ∨ x.1 = 4) ∧ x.2.1 < 4 ∧
       unitExists x.1 x.2.2 = true) ∧
    (let f : BootFails := ⟨[0, 1], 0, false, [], [], [], []⟩
     (0 ∈ f.rom ∧ 1 ∈ f.rom) ∧ { State.reset with power := .off, retired := [5] }.power = .off) ∧
    busy State.reset = false ∧ busy { onThread [] with power := .idle } = true ∧ (∀ x ∈ span 0x400 64, (onThread []).spillKey x = false) ∧
    hostReady (onThread []) (span (2 ^ 52 + 0x400) 64) = true ∧ (3 : Nat) ≠ 4 ∧ (0x106 : Nat) % 4 ≠ 0 ∧
    (let s := onThread []
     ({ s with mailbox := { s.mailbox with tag := 5, done := 4 } }).mailbox.done ≠ 5) := by
  decide +kernel

/-! The whole machine -/

/-- A table of four levels at 0x100000 for address space 1, its first entry of each level as given. -/
def tabled (a b c d : Nat) : State :=
  let s := { onThread [] with tlb := [], roots := [(1, 0x100001)] }
  (((s.wrN 0x100000 8 a).wrN 0x101000 8 b).wrN 0x102000 8 c).wrN 0x103000 8 d

theorem witness_Translation :
    (let s := onThread []
     isService s.cur = false ∧ tlbFind s (dieOf s.cur) (tlbSpur s.cur) s.myProg.asid 0x10 = some page0) ∧
    (let s := tabled 0x101001 0x102001 0x103001 0x20001F
     tlbFind s (dieOf s.cur) (tlbSpur s.cur) s.myProg.asid 0x10 = none ∧ walk s 1 0x10 = .leaf 0x20001F 12) ∧
    walk (tabled 0x101001 0x102001 0x103001 0x20009F) 1 0x10 = .leaf 0x20009F 12 ∧ (0x20009F : Nat).testBit 7 = true ∧
    walk (tabled 0x101001 0x102001 0x20001F 0) 1 0x10 = .leaf 0x20001F 21 ∧ walk (tabled 0x101001 0x4000001F 0 0) 1 0x10 = .leaf 0x4000001F 30 ∧
    walk (tabled 0 0 0 0) 1 0x10 = .invalid ∧ walk (tabled 0x101005 0 0 0) 1 0x10 = .malformed ∧ walk (tabled 0 0 0 0) 2 0x10 = .noRoot ∧
    walk (tabled 0x6000000001 0 0 0) 1 0x10 = .malformed ∧ walk (tabled 0x101001 0x600000001F 0 0) 1 0x10 = .malformed ∧
    (let s := tabled 0x101001 0x102001 0x103001 0x20001F
     destPending s (dieOf s.cur) s.myProg.asid 0x10 = false ∧
       destPending (s.setDie 0 { s.die 0 with faults := [⟨7, 1, 0, 0x10, 1, 0, 12, false, true, [], false⟩] }) (dieOf s.cur) s.myProg.asid 0x10 = true) ∧
    walk { tabled 0 0 0 0 with bad := [0x100000 / 64] } 1 0x10 = .poison ∧ ∀ k ∈ span 0x100000 8, (tabled 0 0 0 0).poisoned k = false := by
  refine ⟨?_, ?_, ?_, ?_, ?_, ?_, ?_, ?_, ?_, ?_, ?_, ?_, ?_, ?_⟩ <;> decide +kernel

theorem witness_Translation_cases :
    walk { tabled 0 0 0 0 with roots := [(1, hbmBytes + 1)] } 1 0x10 = .malformed ∧ hbmBytes < hbmBytes + 4096 ∧
    (let s := { ((List.range 16).foldl (fun (s : State) j => s.wrN (0x103000 + 8 * j) 8 (0x20011F + j * 0x1000)) (tabled 0x101001 0x102001 0x103001 0)) with
       roots := [(1, 0x100001)] }
     (∀ j < 16, s.rdN (0x103000 + j * 8) 8 = 0x20001F + 2 ^ 8 + j * 2 ^ 12) ∧ walk s 1 0x3010 = .leaf 0x20311F 16) ∧
    (∀ nd ∈ [Need.write, .red, .none, .atomic, .granule, .read, .fetch, .wait], permits nd 0x1F = true) ∧
    (let s := { onThread [] with tlb := [⟨0, none, 1, 0, 21, 0x3F⟩] }
     tlbFind s (dieOf s.cur) (tlbSpur s.cur) s.myProg.asid 0x10 = some ⟨0, none, 1, 0, 21, 0x3F⟩ ∧ s.myProg.sstate ≠ 0) ∧
    (let s := { onThread [] with tlb := [⟨0, none, 1, 0, 21, 0x1F + 2 * 2 ^ 52⟩] }
     let s := s.setDie 2 { s.die 2 with state := .out }
     s.reach (homeOf (0x1F + 2 * 2 ^ 52) 0x10) = false) := by
  refine ⟨?_, ?_, ?_, ?_, ?_, ?_⟩ <;> decide +kernel

/-- One instruction of each place that a state refuses, and the first of several checks that fails. -/
theorem witness_ChecksComeFirst :
    isSlot (onMaster []).cur = false ∧ isSlot (onThread []).cur = true ∧ isService (onThread []).cur = false ∧
    Opd.badGroup (.grp 94 3) = true ∧ Opd.writesG (.w 97) = true ∧ (onThread []).ctx.window = 96 ∧
    (let s := onThread []
     let s := s.setCtx { s.ctx with window := 16, poison := [5] }
     [Opd.w 3, .r 4, .r 20].flatMap Opd.regs = [3, 4] ++ 20 :: [] ∧ s.ctx.window ≤ 20 ∧
       [Opd.w 3, .r 4, .r 5].flatMap Opd.reads = [4] ++ 5 :: [] ∧ 5 ∈ s.ctx.poison) ∧
    (let s := onThread []
     ∃ p ∈ (s.setMe { s.me with ridge := [(4, 9)] }).me.ridge, p.1 ∈ [Opd.w 3, .r 4].flatMap Opd.regs) ∧
    (onThread []).ctx.q 1 = false :=
  ⟨by decide +kernel, by decide +kernel, by decide +kernel, by decide +kernel, by decide +kernel, by decide +kernel, by decide +kernel,
    ⟨_, .head _, by decide +kernel⟩, by decide +kernel⟩

/-- The place and the registers of an instruction of each place. -/
theorem witness_ChecksComeFirst_places :
    checksOf (onThread []) (.add 3 4 5) = some (.tm, [.w 3, .r 4, .r 5]) ∧ checksOf (onThread []) (.sts 3 4 0) = some (.t, [.r 3, .r 4]) ∧
      checksOf (onMaster []) (.spawn 3 4) = some (.m, [.r 3]) ∧ checksOf (onMaster []) (.tlbinv 3 4) = some (.p, [.r 3, .r 4]) := by
  refine ⟨rfl, rfl, rfl, rfl⟩

/-- An addition and a store that answer a next state. -/
theorem witness_RegisterFrames : ∃ t, exec (.add 3 4 5) (onThread [(4, 1)]) = .next t := ⟨_, rfl⟩
theorem witness_MemoryFrames : (∃ t, exec (.stD 3 4 0) (onThread [(3, 1), (4, 0x10)]) = .next t) ∧ onePend ∈ withPend.me.pend :=
  ⟨⟨_, rfl⟩, .head _⟩

/-- The master of a package about to step, by the agenda. -/
def stepping : State := { withWords (onMaster [(4, 1)]) [0x01061028] with agenda := [.issue (.master 0 0) false] }

theorem witness_EveryStepAnswers : (∀ x ∈ stepping.agents, onPackage x.1 = true) ∧
    (∃ who d rest, stepping.agenda = .issue who d :: rest ∧ onPackage who = true) ∧ onPackage (.master 4 0) = false :=
  ⟨by decide +kernel, ⟨_, _, _, rfl, rfl⟩, by decide +kernel⟩

/-- A thread about to step, its spur's instruction buffer as given, or with a word fetched ahead. -/
def steppingThread (buf ahead : List (Nat × Nat)) : State :=
  let s := withWords (onThread [(4, 1)]) [0x01061028]
  let s := s.setSpur (0, 0) { s.spur (0, 0) with ibuf := buf }
  { s.setMe { s.me with ahead := ahead } with agenda := [.issue t0 false] }

theorem witness_StepRunsDecoded :
    (∀ x ∈ [(stepping, AgentId.master 0 0), (steppingThread [] [], t0), (steppingThread [(0x1000, 0x10060064)] [], t0),
        (steppingThread [] [(0x1000, 0x10060064)], t0)],
      let s := x.1
      let who := x.2
      let v := startIssue { s with agenda := [], cur := who, mode := .plain, defer := false } who
      s.agenda = .issue who false :: [] ∧ onPackage who = true ∧ (s.agent who).live = true ∧ (s.agent who).wait = .none ∧
       (s.prog (s.progKey who)).ending = none ∧ (s.prog (s.progKey who)).saving = none ∧ (s.die (dieOf who)).state = .up ∧ s.power = .active ∧
       hasTurn s who = true ∧ (s.agent who).refused = none ∧ hitsAllB (tlbSpur v.cur) .fetch 0x1000 v (ids 0x1000 4) = true ∧
       (∀ e ∈ ids 0x1000 4, s.poisoned e.2 = false) ∧ leNat (memGets s.mem ((ids 0x1000 4).map (·.2))) = 0x01061028 ∧
       nextEvent { s with agenda := [] } = none ∧ (nextAgent { s with agenda := [] }).isSome = true) ∧
    (∀ i e, (ids 0x1000 4)[i]? = some e → Hits .fetch ((0x1000 + i) % 2 ^ 56) (startIssue { stepping with agenda := [] } (.master 0 0)) e.1 e.2) ∧
    decodeLowWord 0x01061028 = .ok (.add 3 4 5) ∧ decodeLowWord 0x10060064 = .ok (.addi 3 0 100) ∧ (onThread []).power = .active ∧
    ((onThread []).agent (.slot 0 0 1 0)).live = false :=
  ⟨by decide +kernel, hitsAll_of (by decide +kernel), rfl, rfl, by decide +kernel, by decide +kernel⟩

theorem witness_StepRunsDecoded_cases :
    (∀ x ∈ [(stepping, AgentId.master 0 0), (steppingThread [] [], t0)],
      stalled { x.1 with agenda := [], cur := x.2, mode := .plain, defer := false } x.2 = false ∧ x.1.ports = []) ∧
    (let s := steppingThread [] []
     let s := s.setSpur (0, 0) { s.spur (0, 0) with tokens := [(tokenCell t0, ⟨t0, 3, false, 5, 0, []⟩)] }
     tokenOf s t0 = some ⟨t0, 3, false, 5, 0, []⟩ ∧ stalled { s with agenda := [], cur := t0 } t0 = false ∧ hasTurn { s with agenda := [], cur := t0 } t0 = true) ∧
    (let s := steppingThread [] []
     let s := s.setAgent t0 { s.agent t0 with refused := some 0x1000 }
     tokenOf s t0 = none ∧ (s.agent t0).refused = some 0x1000 ∧ stalled { s with agenda := [], cur := t0 } t0 = false ∧
       hasTurn { s with agenda := [], cur := t0 } t0 = true) ∧
    (let s := steppingThread [] []
     let s := s.setAgent t0 { s.agent t0 with ridge := [(4, 9)] }
     s.agenda = .issue t0 false :: [] ∧ (s.agent t0).wait = .none ∧ stalled { s with agenda := [], cur := t0 } t0 = true) ∧
    (let s := { stalledGang with agenda := [.issue stalledGang.cur false] }
     (s.agent s.cur).wait = .gangRoom 7 [0] ∧ gangStalls { s with agenda := [] } 0 7 [0] = true) ∧
    (let s := { steppingThread [] [] with power := .idle }
     s.agenda = .issue t0 false :: [] ∧ s.power ≠ .active ∧ s.ports = []) ∧
    (∀ c : Nat, c < 1 → (State.reset.withFetchWord 32 0x01061028).ports = []) ∧ (0x01061028 : Nat) < 2 ^ 32 := by
  refine ⟨?_, ?_, ?_, ?_, ?_, ?_, ?_, ?_⟩ <;> decide +kernel

theorem witness_MemoryFrames_typed :
    (let s := onThread [(1, 0x6500000000000100), (2, 0x2000)]
     (∀ j < 4, ∀ m < 1, Hits .write ((typedAddr (s.ctx.rs 1) j % 2 ^ 56 + m) % 2 ^ 56) s 0x1F ((typedAddr (s.ctx.rs 1) j % 2 ^ 56 + m) % 2 ^ 56)) ∧
       (∀ j < 4, Hits .read (typedScale (s.ctx.rs 1) (s.ctx.rs 2) j) s 0x1F (typedScale (s.ctx.rs 1) (s.ctx.rs 2) j))) ∧
    (onThread []).feWait = [] ∧ ownDescs (onThread []) = [] := by
  have h : ∀ m j : Nat, ∀ nd va, hitsB (tlbSpur (onThread [(1, 0x6500000000000100), (2, 0x2000)]).cur) nd va
      (onThread [(1, 0x6500000000000100), (2, 0x2000)]) 0x1F va = true → Hits nd va (onThread [(1, 0x6500000000000100), (2, 0x2000)]) 0x1F va :=
    fun _ _ _ _ h => hits_of h
  refine ⟨⟨fun j hj m hm => h m j _ _ ?_, fun j hj => h 0 j _ _ ?_⟩, by decide +kernel, by decide +kernel⟩
  · revert m; revert j; decide +kernel
  · revert j; decide +kernel

theorem witness_MemoryStaysCanonical : MemOk stepping ∧ ∃ t, step stepping = .next t :=
  ⟨show Memory.wf _ = true from by decide +kernel, _, rfl⟩

theorem witness_RoundTrip : (Instr.add 3 4 5).wellFormed = true ∧ encode (.add 3 4 5) = some 0x01061028 := ⟨rfl, rfl⟩

end Sys2Proof.Tests
end

section
/-! What the integer instructions compute (04_scalar_vector.md R95 to R106), and where the control transfers go (R109 to R112). -/

namespace Sys2Proof.Machine

/-! ### Words from numbers -/

theorem wordN_toNat {n : Nat} (h : n < 2 ^ 64) : (wordN n).toNat = n := Nat.mod_eq_of_lt h

theorem wordOf_toInt {z : Int} (h1 : -2 ^ 63 ≤ z) (h2 : z < 2 ^ 63) : (wordOf z).toInt = z :=
  BitVec.toInt_ofInt_eq_self (by decide) h1 h2

theorem wordN_getLsbD (n : Nat) {i : Nat} (h : i < 64) : (wordN n).getLsbD i = n.testBit i := by
  rw [wordN, BitVec.getLsbD_ofNat, decide_eq_true h, Bool.true_and]

/-- A bit below 2^64 of an integer is that bit of its two's complement. -/
theorem wordOf_getLsbD (z : Int) {k : Nat} (h : k < 64) : (wordOf z).getLsbD k = decide (z / 2 ^ k % 2 = 1) := by
  obtain ⟨n, hn⟩ : ∃ n : Nat, (wordOf z).toNat = n ∧ (n : Int) = z % 2 ^ 64 :=
    ⟨_, BitVec.toNat_ofInt .., Int.toNat_of_nonneg (Int.emod_nonneg _ (by decide))⟩
  obtain ⟨q, hq⟩ : ∃ q : Int, (n : Int) = z + 2 ^ k * (2 * q) := by
    refine ⟨-(2 ^ (63 - k) * (z / 2 ^ 64)), ?_⟩
    have hsplit : (2 : Int) ^ 64 = 2 ^ k * (2 * 2 ^ (63 - k)) := by
      rw [← Int.mul_assoc, Int.mul_comm _ 2, Int.mul_assoc, ← Int.pow_add, ← Int.pow_succ', show k + (63 - k) + 1 = 64 by omega]
    rw [hn.2, Int.emod_def]
    generalize z / 2 ^ 64 = c
    rw [hsplit, Int.mul_neg, Int.mul_neg, Int.sub_eq_add_neg, Int.mul_assoc, Int.mul_assoc]
  have hbit : ((n / 2 ^ k % 2 : Nat) : Int) = z / 2 ^ k % 2 := by
    have hpos : (0 : Int) < 2 ^ k := Int.pow_pos (by decide)
    push_cast
    rw [hq, Int.add_mul_ediv_left _ _ (Int.ne_of_gt hpos), Int.add_mul_emod_self_left]
  rw [← BitVec.testBit_toNat, hn.1, Nat.testBit_eq_decide_div_mod_eq, ← hbit]
  exact decide_eq_decide.mpr (by omega)

/-! ### Minima, shifts and rotations (R97) -/

theorem smin_toInt (x y : Word) : (if x.slt y then x else y).toInt = min x.toInt y.toInt := by
  simp only [BitVec.slt_eq_decide, decide_eq_true_eq]; split <;> omega

theorem smax_toInt (x y : Word) : (if x.slt y then y else x).toInt = max x.toInt y.toInt := by
  simp only [BitVec.slt_eq_decide, decide_eq_true_eq]; split <;> omega

theorem umin_toNat (x y : Word) : (if x.ult y then x else y).toNat = min x.toNat y.toNat := by
  simp only [BitVec.ult_eq_decide, decide_eq_true_eq]; split <;> omega

theorem umax_toNat (x y : Word) : (if x.ult y then y else x).toNat = max x.toNat y.toNat := by
  simp only [BitVec.ult_eq_decide, decide_eq_true_eq]; split <;> omega

theorem shl64_toNat (x : Word) (c : Nat) : (shl64 x c).toNat = x.toNat * 2 ^ c % 2 ^ 64 := by
  rw [shl64, BitVec.toNat_shiftLeft, Nat.shiftLeft_eq]

theorem shr64_toNat (x : Word) (c : Nat) : (shr64 x c).toNat = x.toNat / 2 ^ c := by
  rw [shr64, BitVec.toNat_ushiftRight, Nat.shiftRight_eq_div_pow]

theorem sra64_toInt (x : Word) (c : Nat) : (sra64 x c).toInt = x.toInt / 2 ^ c := by
  rw [sra64, BitVec.toInt_sshiftRight, Int.shiftRight_eq_div_pow]; norm_cast

/-- The two shifts of a rotation meet at bit 64 - c: below it the right shift gives the bit, from it on the left shift. -/
theorem rotate_getLsbD (x : Word) {c i : Nat} (hc : c < 64) (hi : i < 64) :
    (shr64 x c ||| shl64 x (64 - c)).getLsbD i = x.getLsbD ((i + c) % 64) := by
  simp only [shr64, shl64, BitVec.getLsbD_or, BitVec.getLsbD_ushiftRight, BitVec.getLsbD_shiftLeft, hi, decide_true, Bool.true_and]
  by_cases hw : i + c < 64
  · have hl : i < 64 - c := by omega
    rw [Nat.mod_eq_of_lt hw, Nat.add_comm]
    simp [hl]
  · have hl : ¬ i < 64 - c := by omega
    have hi' : (i + c) % 64 = i - (64 - c) := by omega
    simp [hl, hi', BitVec.getLsbD_of_ge x (c + i) (by omega)]

theorem andn_getLsbD (x y : Word) (i : Nat) : (x &&& ~~~y).getLsbD i = (x.getLsbD i && !y.getLsbD i) := by
  rw [BitVec.getLsbD_and, BitVec.getLsbD_not]
  by_cases hi : i < 64
  · simp [hi]
  · simp [BitVec.getLsbD_of_ge x i (by omega)]

/-- An immediate added wraps once, whatever its size (R100, R102). -/
theorem add_wordOf_toInt (x : Word) (i : Int) : (x + wordOf i).toInt = (x.toInt + i).bmod (2 ^ 64) := by
  rw [BitVec.toInt_add, wordOf, BitVec.toInt_ofInt, Int.add_bmod_bmod]

/-! ### Products, quotients and remainders (R72, R98) -/

/-- The high half of a signed product fits a word. -/
theorem mulh_toInt (x y : Word) : (wordOf (x.toInt * y.toInt / 2 ^ 64)).toInt = x.toInt * y.toInt / 2 ^ 64 := by
  have hlo : -2 ^ 126 ≤ x.toInt * y.toInt := BitVec.le_toInt_mul_toInt
  have hhi : x.toInt * y.toInt ≤ 2 ^ 126 := BitVec.toInt_mul_toInt_le
  exact wordOf_toInt (by omega) (by omega)

/-- The high half of an unsigned product fits a word. -/
theorem mulhu_toNat (x y : Word) : (wordN (x.toNat * y.toNat / 2 ^ 64)).toNat = x.toNat * y.toNat / 2 ^ 64 := by
  refine wordN_toNat (Nat.div_lt_of_lt_mul ?_)
  exact Nat.mul_lt_mul'' x.isLt y.isLt

/-- The signed quotient, by its cases (R72): a divisor of zero, the one quotient that overflows, and the rest. -/
theorem div64_cases (x y : Word) :
    if y = 0 then (div64 x y).toInt = -1
    else if x.toInt = -2 ^ 63 ∧ y.toInt = -1 then (div64 x y).toInt = -2 ^ 63
    else (div64 x y).toInt = x.toInt.tdiv y.toInt := by
  unfold div64
  split
  · rfl
  split
  case isTrue h => rw [h.1, h.2]; rfl
  case isFalse h =>
    have hne : x ≠ BitVec.intMin 64 ∨ y ≠ -1#64 :=
      Decidable.not_and_iff_not_or_not.mp fun hc => h ⟨by rw [hc.1]; rfl, by rw [hc.2]; rfl⟩
    calc (wordOf (x.toInt.tdiv y.toInt)).toInt = (x.sdiv y).toInt := by rw [BitVec.toInt_sdiv]; exact BitVec.toInt_ofInt _
      _ = _ := BitVec.toInt_sdiv_of_ne_or_ne x y hne

theorem divu64_cases (x y : Word) :
    if y = 0 then (divu64 x y).toNat = 2 ^ 64 - 1 else (divu64 x y).toNat = x.toNat / y.toNat := by
  unfold divu64
  split
  · rfl
  · exact wordN_toNat (Nat.lt_of_le_of_lt (Nat.div_le_self ..) x.isLt)

/-- The signed remainder, by the same cases. -/
theorem rem64_cases (x y : Word) :
    if y = 0 then rem64 x y = x
    else if x.toInt = -2 ^ 63 ∧ y.toInt = -1 then rem64 x y = 0
    else (rem64 x y).toInt = x.toInt.tmod y.toInt := by
  unfold rem64
  split
  · rfl
  split
  case isTrue h => rw [h.1, h.2]; rfl
  case isFalse => rw [wordOf, ← BitVec.toInt_srem, BitVec.ofInt_toInt]

theorem remu64_cases (x y : Word) :
    if y = 0 then remu64 x y = x else (remu64 x y).toNat = x.toNat % y.toNat := by
  unfold remu64
  split
  · rfl
  · exact wordN_toNat (Nat.lt_of_le_of_lt (Nat.mod_le ..) x.isLt)

/-! ### Counts of bits (R99) -/

/-- The highest set bit of a word that is not zero is bit log2, so 63 - log2 zeros stand above it. -/
theorem clz64_counts (x : Word) : (clz64 x).toNat ≤ 64 ∧ (∀ i < (clz64 x).toNat, x.getLsbD (63 - i) = false) ∧
    ((clz64 x).toNat < 64 → x.getLsbD (63 - (clz64 x).toNat) = true) := by
  by_cases h : x = 0
  · subst h
    exact ⟨by decide, fun i _ => by simp, fun hc => absurd hc (by decide)⟩
  have h0 : x.toNat ≠ 0 := by simpa [BitVec.toNat_eq] using h
  have hlog : x.toNat.log2 < 64 := (Nat.log2_lt h0).mpr x.isLt
  have hr : (clz64 x).toNat = 63 - x.toNat.log2 := by
    rw [clz64, if_neg h, wordN_toNat (by omega)]
  rw [hr]
  refine ⟨by omega, fun i hi => ?_, fun _ => ?_⟩
  · rw [← BitVec.testBit_toNat]
    exact Nat.testBit_lt_two_pow ((Nat.log2_lt h0).mp (by omega))
  · rw [← BitVec.testBit_toNat, show 63 - (63 - x.toNat.log2) = x.toNat.log2 by omega]
    exact Nat.testBit_log2 h0

/-- Counting from bit 0 stops at the lowest set bit, or after n bits. -/
theorem ctzFrom_counts : ∀ n x : Nat, ctzFrom n x ≤ n ∧ (∀ i < ctzFrom n x, x.testBit i = false) ∧
    (ctzFrom n x < n → x.testBit (ctzFrom n x) = true)
  | 0, _ => ⟨Nat.le_refl _, fun _ h => absurd h (Nat.not_lt_zero _), fun h => absurd h (Nat.not_lt_zero _)⟩
  | n + 1, x => by
    obtain ⟨hle, hlow, hstop⟩ := ctzFrom_counts n (x / 2)
    rw [ctzFrom]
    split
    case isTrue h => exact ⟨Nat.zero_le _, fun _ hi => absurd hi (Nat.not_lt_zero _), fun _ => by simp [Nat.testBit_zero, h]⟩
    case isFalse h =>
      rw [Nat.add_comm 1]
      refine ⟨Nat.succ_le_succ hle, fun i hi => ?_, fun hn => ?_⟩
      · cases i with
        | zero => simp [Nat.testBit_zero, h]
        | succ i => rw [Nat.testBit_succ]; exact hlow i (by omega)
      · rw [Nat.testBit_succ]; exact hstop (by omega)

/-- The zeros below the lowest set bit of a word. -/
theorem ctz64_counts (x : Word) : (wordN (ctzFrom 64 x.toNat)).toNat ≤ 64 ∧
    (∀ i < (wordN (ctzFrom 64 x.toNat)).toNat, x.getLsbD i = false) ∧
    ((wordN (ctzFrom 64 x.toNat)).toNat < 64 → x.getLsbD (wordN (ctzFrom 64 x.toNat)).toNat = true) := by
  have h := ctzFrom_counts 64 x.toNat
  rwa [wordN_toNat (Nat.lt_of_le_of_lt h.1 (by decide))]

/-- Counting the lowest n bits one by one. -/
theorem popFrom_eq_length_filter : ∀ n x : Nat, popFrom n x = ((List.range n).filter fun i => x.testBit i).length
  | 0, _ => rfl
  | n + 1, x => by
    have ih := popFrom_eq_length_filter n (x / 2)
    rw [popFrom, ih, List.range_succ_eq_map, List.filter_cons, List.filter_map, Nat.testBit_zero]
    simp only [Function.comp_def, Nat.succ_eq_add_one, Nat.testBit_succ]
    split
    case isTrue h => simp only [decide_eq_true_eq] at h; simp [h, Nat.add_comm]
    case isFalse h => simp only [decide_eq_true_eq] at h; simp [show x % 2 = 0 by omega]

/-- The set bits of a word. -/
theorem popc64_eq_length_filter (x : Word) :
    (wordN (popFrom 64 x.toNat)).toNat = ((List.range 64).filter fun i => x.getLsbD i).length := by
  rw [popFrom_eq_length_filter]
  refine wordN_toNat (Nat.lt_of_le_of_lt (List.length_filter_le ..) ?_)
  rw [List.length_range]; decide

/-! ### Bit fields (R104) -/

theorem bfPos_add_bfLen_le (y : Word) : bfPos y + bfLen y ≤ 64 := by
  unfold bfLen bfPos; omega

/-- A field of l bits, sign-extended, as the model reads it. -/
theorem wordOf_sextN {l f : Nat} (hl : 0 < l) : wordOf (sextN l f) = (BitVec.ofNat l f).signExtend 64 := by
  obtain ⟨l, rfl⟩ : ∃ k, l = k + 1 := ⟨l - 1, by omega⟩
  rw [BitVec.signExtend, wordOf]
  congr 1
  rw [BitVec.toInt_eq_toNat_cond, BitVec.toNat_ofNat, sextN, Nat.add_sub_cancel, Nat.pow_succ]
  push_cast
  have : (f % (2 ^ l * 2) < 2 ^ l) ↔ (2 * (f % (2 ^ l * 2)) < 2 ^ l * 2) := by omega
  simp only [this, Int.pow_succ]

/-- The bits of an extracted field: below its length those of the source, above it copies of its top bit where the
descriptor asks for a sign. -/
theorem bfx64_getLsbD (x y : Word) {i : Nat} (hi : i < 64) : (bfx64 x y).getLsbD i =
    if i < bfLen y then x.getLsbD (bfPos y + i)
    else bfSx y && decide (0 < bfLen y) && x.getLsbD (bfPos y + bfLen y - 1) := by
  have hfield (j : Nat) : (x.toNat / 2 ^ bfPos y % 2 ^ bfLen y).testBit j = (decide (j < bfLen y) && x.getLsbD (bfPos y + j)) := by
    rw [Nat.testBit_mod_two_pow, Nat.testBit_div_two_pow, Nat.add_comm, BitVec.testBit_toNat]
  rw [bfx64]
  split
  case isTrue h =>
    obtain ⟨hs, hl⟩ := h
    have htop : bfPos y + (bfLen y - 1) = bfPos y + bfLen y - 1 := by omega
    simp only [wordOf_sextN hl, BitVec.getLsbD_signExtend, BitVec.msb_eq_getLsbD_last, BitVec.getLsbD_ofNat, hfield, htop, hs, hl, hi,
      Nat.sub_lt hl, decide_true, Bool.true_and, Nat.one_pos]
    split <;> simp [*]
  case isFalse h =>
    rw [wordN_getLsbD _ hi, hfield]
    have hz : (bfSx y && decide (0 < bfLen y)) = false := by simpa using h
    simp only [hz, Bool.false_and]
    split <;> simp [*]

/-- The bits of a word with a field put in. -/
theorem bfi64_getLsbD (d x y : Word) {i : Nat} (hi : i < 64) : (bfi64 d x y).getLsbD i =
    if bfPos y ≤ i ∧ i < bfPos y + bfLen y then x.getLsbD (i - bfPos y) else d.getLsbD i := by
  have hmask : (wordN ((2 ^ bfLen y - 1) * 2 ^ bfPos y)).getLsbD i = decide (bfPos y ≤ i ∧ i < bfPos y + bfLen y) := by
    rw [wordN_getLsbD _ hi, Nat.testBit_mul_two_pow, Nat.testBit_two_pow_sub_one, ← Bool.decide_and]
    exact decide_eq_decide.mpr (by omega)
  simp only [bfi64, BitVec.getLsbD_or, BitVec.getLsbD_and, BitVec.getLsbD_not, BitVec.getLsbD_shiftLeft, hmask, hi,
    decide_true, Bool.true_and]
  split
  case isTrue h => simp [h]
  case isFalse h => simp [h]

/-! ### Pointers (R105, R106) -/

theorem padd64_toNat (x y : Word) :
    (padd64 x y).toNat = x.toNat / 2 ^ 56 * 2 ^ 56 + (x.toNat % 2 ^ 56 + y.toNat) % 2 ^ 56 :=
  wordN_toNat (by have := x.isLt; omega)

theorem ptag64_toNat (x : Word) {t : Nat} (ht : t < 256) : (ptag64 x t).toNat = t * 2 ^ 56 + x.toNat % 2 ^ 56 := by
  rw [ptag64, Nat.mod_eq_of_lt ht, wordN_toNat (by omega)]

/-! ### The shapes of the instructions -/

variable {d a b : Nat} {s : State}

/-- Where it is ready, an instruction of two sources writes its function of them with their taints, and completes (R95). -/
theorem alu2_ready (f : Word → Word → Word) (h : Ready .tm [.w d, .r a, .r b] s) :
    alu2 f d a b s = .next (s.doneS d (f (s.ctx.rs a) (s.ctx.rs b)) (s.ctx.tainted a || s.ctx.tainted b)) :=
  runInstr_ready h _

/-- The same of one source. -/
theorem alu1_ready (f : Word → Word) (h : Ready .tm [.w d, .r a] s) :
    alu1 f d a s = .next (s.doneS d (f (s.ctx.rs a)) (s.ctx.tainted a)) :=
  runInstr_ready h _

/-- An instruction whose meaning is `alu2 f` computes any relation that `f` meets. -/
theorem computes2_of_alu2 {c : Nat → Nat → Nat → Instr} {rel : Word → Word → Word → Prop} (f : Word → Word → Word)
    (hexec : ∀ d a b s, exec (c d a b) s = alu2 f d a b s) (hrel : ∀ x y, rel x y (f x y)) : Computes2 c rel :=
  fun d a b s h => ⟨_, hrel .., (hexec d a b s).trans (alu2_ready f h)⟩

theorem computes1_of_alu1 {c : Nat → Nat → Instr} {rel : Word → Word → Prop} (f : Word → Word)
    (hexec : ∀ d a s, exec (c d a) s = alu1 f d a s) (hrel : ∀ x, rel x (f x)) : Computes1 c rel :=
  fun d a s h => ⟨_, hrel _, (hexec d a s).trans (alu1_ready f h)⟩

/-- The word of an instruction of three registers: major, fields and function stand side by side (R30). -/
theorem encode_of_put {i : Instr} {major func d a b : Nat}
    (h : encode i = some (put 17 d (put 10 a (put 3 b (major * 2 ^ 24 + func))))) :
    encode i = some (major * 2 ^ 24 + d * 2 ^ 17 + a * 2 ^ 10 + b * 2 ^ 3 + func) := by
  rw [h, put, put, put]
  exact congrArg some (by omega)

/-! ### Where control goes (R32, R109 to R112) -/

/-- B, where it is ready (R32, R109). -/
theorem exec_br_ready (q n : Nat) (o : Int) (h : Ready .tm [] s) :
    exec (.br q n o) s =
      .next (if s.ctx.q q = decide (n = 0) then retireTo s (s.ctx.pc + BitVec.ofInt 64 (o * 4)) else retire s) := by
  refine (runInstr_ready h _).trans (congrArg _ ?_)
  by_cases ht : s.ctx.q q = decide (n = 0)
  · simp only [run_bind, run_rdQ, ht, if_true, run_pure, settle_jump, wordOf]
  · simp only [run_bind, run_rdQ, ht, if_false, run_pure, settle_adv]

/-- JAL, where it is ready (R33, R110): its target is taken from the PC before the link is written. -/
theorem exec_jal_ready (o : Int) (h : Ready .tm [.w d] s) :
    exec (.jal d o) s =
      .next (retireTo (s.setCtx (s.ctx.ws d (s.ctx.pc + 4) false)) (s.ctx.pc + BitVec.ofInt 64 (o * 4))) :=
  runInstr_ready h _

/-- The address of the executing word outside gangs and frames (R38). -/
theorem wordAddr_of_plain_or_prefixed (h : s.mode = .plain ∨ s.mode = .prefixed) :
    wordAddr s = if s.mode = .prefixed then s.ctx.pc + 4 else s.ctx.pc := by
  rcases h with h | h <;> simp [wordAddr, h]

/-- JALR, where it is ready (R111): an unaligned target traps before the link is written. -/
theorem exec_jalr_ready (i : Int) (h : Ready .tm [.w d, .r a] s) :
    exec (.jalr d a i) s =
      .next (if (eaImm (s.ctx.rs a) i 4).toNat % 4 = 0
        then retireTo (s.setCtx (s.ctx.ws d (wordAddr s + 4) false)) (eaImm (s.ctx.rs a) i 4)
        else takeTrap s ⟨cALIGN, eaImm (s.ctx.rs a) i 4⟩) := by
  refine (runInstr_ready h _).trans (congrArg _ ?_)
  simp only [run_bind, run_rdS, run_trapIf, decide_eq_true_eq]
  by_cases ht : (eaImm (s.ctx.rs a) i 4).toNat % 4 = 0
  · simp only [ht, ne_eq, not_true_eq_false, if_false, if_true, run_wrS, run_pure, settle_jump]
  · simp only [ht, ne_eq, not_false_eq_true, if_false, if_true, settle_trap]

theorem sub_one_eq_zero_iff (x : Word) : x - 1 = 0 ↔ x = 1 := by
  bv_omega

/-- REP, where it is ready (R112): the counter decides before and after it is decreased. -/
theorem exec_rep_ready (i : Int) (h : Ready .tm [.rw a] s) :
    exec (.rep a i) s =
      .next (if s.ctx.rs a = 0 then retire s
        else
          let u := s.setCtx (s.ctx.ws a (s.ctx.rs a - 1) (s.ctx.tainted a))
          if s.ctx.rs a = 1 then retire u else retireTo u (s.ctx.pc - BitVec.ofInt 64 (4 * i))) := by
  refine (runInstr_ready h _).trans (congrArg _ ?_)
  rw [run_bind, run_rdS]
  by_cases h0 : s.ctx.rs a = 0
  · simp only [h0, if_true, run_pure, settle_adv]
  have hone : s.ctx.rs a - 1 = 0 ↔ s.ctx.rs a = 1 := sub_one_eq_zero_iff _
  simp only [h0, if_false, run_bind, run_gets, run_wrT, hone]
  split <;> rfl

end Sys2Proof.Machine
end

section
/-! The statements about integer instructions and control transfers, settled. -/

open Sys2Proof Sys2Proof.Machine

/-- Settles O1: each operation's function of its sources meets the rule that R97 to R99 give it, and each word is its fields
side by side. -/
theorem registerArithmetic : Obligations.RegisterArithmetic := by
  unfold Obligations.RegisterArithmetic
  refine ⟨⟨?add, ?sub, ?and, ?or, ?xor, ?andn, ?min, ?max, ?minu, ?maxu, ?shl, ?shr, ?sra, ?rotr, ?word, ?encodings⟩,
    ⟨?mul, ?mulh, ?mulhu, ?div, ?divu, ?rem, ?remu, ?productEncodings⟩, ?clz, ?ctz, ?popc⟩
  case add => exact computes2_of_alu2 (· + ·) (fun _ _ _ _ => rfl) fun x y => BitVec.toNat_add x y
  case sub => exact computes2_of_alu2 (· - ·) (fun _ _ _ _ => rfl) fun x y => BitVec.toInt_sub
  case and => exact computes2_of_alu2 (· &&& ·) (fun _ _ _ _ => rfl) fun x y i => BitVec.getLsbD_and
  case or => exact computes2_of_alu2 (· ||| ·) (fun _ _ _ _ => rfl) fun x y i => BitVec.getLsbD_or
  case xor => exact computes2_of_alu2 (· ^^^ ·) (fun _ _ _ _ => rfl) fun x y i => BitVec.getLsbD_xor
  case andn => exact computes2_of_alu2 _ (fun _ _ _ _ => rfl) andn_getLsbD
  case min => exact computes2_of_alu2 _ (fun _ _ _ _ => rfl) smin_toInt
  case max => exact computes2_of_alu2 _ (fun _ _ _ _ => rfl) smax_toInt
  case minu => exact computes2_of_alu2 _ (fun _ _ _ _ => rfl) umin_toNat
  case maxu => exact computes2_of_alu2 _ (fun _ _ _ _ => rfl) umax_toNat
  case shl => exact computes2_of_alu2 _ (fun _ _ _ _ => rfl) fun x y => shl64_toNat x (cnt6 y)
  case shr => exact computes2_of_alu2 _ (fun _ _ _ _ => rfl) fun x y => shr64_toNat x (cnt6 y)
  case sra => exact computes2_of_alu2 _ (fun _ _ _ _ => rfl) fun x y => sra64_toInt x (cnt6 y)
  case rotr => exact computes2_of_alu2 _ (fun _ _ _ _ => rfl) fun x y i => rotate_getLsbD x (Nat.mod_lt _ (by decide))
  case word => rfl
  case encodings =>
    simp only [List.forall_mem_cons, List.not_mem_nil, false_imp_iff, implies_true, and_true]
    intro d a b
    refine ⟨?_, ?_, ?_, ?_, ?_, ?_, ?_, ?_, ?_, ?_, ?_, ?_, ?_, ?_⟩ <;> exact encode_of_put rfl
  case mul => exact computes2_of_alu2 (· * ·) (fun _ _ _ _ => rfl) fun x y => BitVec.toNat_mul x y
  case mulh => exact computes2_of_alu2 _ (fun _ _ _ _ => rfl) mulh_toInt
  case mulhu => exact computes2_of_alu2 _ (fun _ _ _ _ => rfl) mulhu_toNat
  case div => exact computes2_of_alu2 div64 (fun _ _ _ _ => rfl) div64_cases
  case divu => exact computes2_of_alu2 divu64 (fun _ _ _ _ => rfl) divu64_cases
  case rem => exact computes2_of_alu2 rem64 (fun _ _ _ _ => rfl) rem64_cases
  case remu => exact computes2_of_alu2 remu64 (fun _ _ _ _ => rfl) remu64_cases
  case productEncodings =>
    simp only [List.forall_mem_cons, List.not_mem_nil, false_imp_iff, implies_true, and_true]
    intro d a b
    refine ⟨?_, ?_, ?_, ?_, ?_, ?_, ?_⟩ <;> exact encode_of_put rfl
  case clz => exact computes1_of_alu1 clz64 (fun _ _ _ => rfl) clz64_counts
  case ctz => exact computes1_of_alu1 _ (fun _ _ _ => rfl) ctz64_counts
  case popc => exact computes1_of_alu1 _ (fun _ _ _ => rfl) popc64_eq_length_filter

/-- Settles O2: an immediate is the word of its low 64 bits (R100 to R102); the fields are read and put in bit by bit
(R104), and the pointer operations keep or replace the tag over 56 bits of address (R105, R106). -/
theorem immediatesAndFields : Obligations.ImmediatesAndFields := by
  unfold Obligations.ImmediatesAndFields
  refine ⟨⟨?addi, ?andi, ?ori, ?xori, ?shli, ?shri, ?srai, ?lih⟩, ?sel, ?bfx, ?bfi, ?padd, ?ptag⟩
  case addi => exact fun i => computes1_of_alu1 (· + wordOf i) (fun _ _ _ => rfl) (add_wordOf_toInt · i)
  case andi =>
    exact fun i => computes1_of_alu1 (· &&& wordOf i) (fun _ _ _ => rfl) fun x k hk => by rw [BitVec.getLsbD_and, wordOf_getLsbD i hk]
  case ori =>
    exact fun i => computes1_of_alu1 (· ||| wordOf i) (fun _ _ _ => rfl) fun x k hk => by rw [BitVec.getLsbD_or, wordOf_getLsbD i hk]
  case xori =>
    exact fun i => computes1_of_alu1 (· ^^^ wordOf i) (fun _ _ _ => rfl) fun x k hk => by rw [BitVec.getLsbD_xor, wordOf_getLsbD i hk]
  case shli => exact fun c _ => computes1_of_alu1 _ (fun _ _ _ => rfl) (shl64_toNat · c)
  case shri => exact fun c _ => computes1_of_alu1 _ (fun _ _ _ => rfl) (shr64_toNat · c)
  case srai => exact fun c _ => computes1_of_alu1 _ (fun _ _ _ => rfl) (sra64_toInt · c)
  case lih => exact fun i => computes1_of_alu1 (· + wordOf (i * 2 ^ 34)) (fun _ _ _ => rfl) (add_wordOf_toInt · _)
  case sel => exact fun q d a b s h => runInstr_ready h _
  case bfx => exact computes2_of_alu2 bfx64 (fun _ _ _ _ => rfl) fun x y i => bfx64_getLsbD x y
  case bfi => exact fun d a b s h => ⟨_, fun i => bfi64_getLsbD _ _ _, runInstr_ready h _⟩
  case padd => exact computes2_of_alu2 padd64 (fun _ _ _ _ => rfl) padd64_toNat
  case ptag => exact fun t ht => computes1_of_alu1 _ (fun _ _ _ => rfl) (ptag64_toNat · ht)

/-- Settles O4: each transfer runs, where it is ready, as its own rule says. -/
theorem controlTransfers : Obligations.ControlTransfers := by
  unfold Obligations.ControlTransfers
  refine ⟨?br, ?jal, ?jalr, ?rep⟩
  case br => exact fun q n o s h _ => exec_br_ready q n o h
  case jal => exact fun d o s h => exec_jal_ready o h
  case jalr =>
    intro d a i s h target wa hmode
    rw [exec_jalr_ready i h, wordAddr_of_plain_or_prefixed hmode]
    rfl
  case rep => exact fun a i s h => exec_rep_ready i h

end

section
/-! Taking a trap and returning from one (14_recovery.md R352, R357, R361). -/

namespace Sys2Proof.Machine

/-! ### The values that a trap writes -/

/-- TVEC.ADDR * 4 is TVEC with its two low bits clear (R353). -/
theorem handler_eq (c : Ctx) : handler c = wordN (c.tvec.toNat / 4 * 4) := by
  have hshift : handler c = c.tvec >>> 2 <<< 2 := by
    ext i hi
    have hmask : (3#64)[i] = decide (i < 2) :=
      (wordN_getLsbD 3 hi).trans (Nat.testBit_two_pow_sub_one 2 i)
    simp only [handler, BitVec.getElem_and, BitVec.getElem_not, hmask, BitVec.getElem_shiftLeft, BitVec.getElem_ushiftRight]
    by_cases h2 : i < 2
    · simp [h2]
    · simp [h2, show 2 + (i - 2) = i by omega, BitVec.getLsbD_eq_getElem hi]
  have hlt := c.tvec.isLt
  refine BitVec.eq_of_toNat_eq ?_
  rw [hshift, wordN_toNat (by omega), BitVec.toNat_shiftLeft, BitVec.toNat_ushiftRight, Nat.shiftLeft_eq, Nat.shiftRight_eq_div_pow,
    Nat.mod_eq_of_lt (by omega)]

/-- There is no handler exactly where TVEC.ADDR is zero (R357). -/
theorem handler_eq_zero_iff (c : Ctx) : handler c = 0 ↔ c.tvec.toNat / 4 * 4 = 0 := by
  have hlt := c.tvec.isLt
  rw [handler_eq, ← BitVec.toNat_inj, wordN_toNat (by omega)]
  rfl

/-- INH stands above a cause of 8 bits (R354). -/
theorem inh_or_cause {n : Nat} (h : n < 256) : 0x100#64 ||| wordN n = wordN (256 + n) := by
  rw [wordN, ← BitVec.ofNat_or]
  exact congrArg wordN (Nat.two_pow_add_eq_or_of_lt (i := 8) h 1).symm

/-! ### The end of a program -/

@[simp] theorem startEnd_mem (s : State) (k : Nat × Nat) (r : EndRec) : (startEnd s k r).mem = s.mem := by
  unfold startEnd; dsimp only; split <;> rfl

@[simp] theorem startEnd_me (s : State) (k : Nat × Nat) (r : EndRec) : (startEnd s k r).me = s.me := by
  unfold startEnd; dsimp only; split <;> rfl

/-- The first end asked for stands (R364). -/
theorem startEnd_ending {s : State} {k : Nat × Nat} (r : EndRec) (h : (s.prog k).ending = none) :
    ((startEnd s k r).prog k).ending = some r := by
  simp [startEnd, h]

/-! ### Taking a trap -/

/-- A change of an agent's record that keeps its core keeps its program. -/
theorem State.myProg_setMe {s : State} {r : Agent} (h : r.core = s.me.core) : (s.setMe r).myProg = s.myProg := by
  have hkey : (s.setMe r).myKey = s.myKey := by
    have hcore : ((s.setMe r).agent s.cur).core = (s.agent s.cur).core := (congrArg Agent.core (s.me_setMe r)).trans h
    unfold State.myKey State.progKey
    rw [State.setMe_cur, hcore]
  unfold State.myProg
  rw [hkey]
  rfl

/-- The exit record that a fatal trap leaves, with the reason for the end (R357, R370). -/
def trapEnd (s : State) (reason : Nat) (t : Trap) (tpc : Word) : EndRec :=
  ⟨reason, t.cause, t.tval, tpc, (endWho s).1, (endWho s).2, none, false⟩

/-- The state at the entry of a handler (R352). -/
def State.trapped (s : State) (t : Trap) (tpc : Word) : State :=
  s.setMe { s.me with ctx := s.ctx.trapped t tpc, wait := .none }

variable {s : State} (t : Trap) (tpc : Word)

@[simp] theorem State.trapped_mem : (s.trapped t tpc).mem = s.mem := rfl

@[simp] theorem State.trapped_ctx : (s.trapped t tpc).ctx = s.ctx.trapped t tpc := State.ctx_setMe ..

@[simp] theorem State.trapped_wait : (s.trapped t tpc).me.wait = .none := congrArg Agent.wait (State.me_setMe ..)

@[simp] theorem State.trapped_myProg : (s.trapped t tpc).myProg = s.myProg := State.myProg_setMe rfl

/-- With INH clear and a handler, a trap enters the handler (R352). -/
theorem takeTrapAt_enters (hi : inhibited s.ctx = false) (hh : handler s.ctx ≠ 0) :
    takeTrapAt s t tpc = s.trapped t tpc := by
  unfold takeTrapAt
  dsimp only
  rw [if_neg (by simp [hi]), if_neg hh]
  rfl

/-- With INH set, or without a handler, a trap ends the program (R357). -/
theorem takeTrapAt_ends (h : inhibited s.ctx = true ∨ handler s.ctx = 0) :
    takeTrapAt s t tpc = startEnd s s.myKey (trapEnd s (if inhibited s.ctx then 2 else 1) t tpc) := by
  by_cases hi : inhibited s.ctx = true
  · simp [takeTrapAt, trapEnd, hi]
  · simp [takeTrapAt, trapEnd, hi, h.resolve_left hi]

/-! ### Returning from a handler -/

/-- The state after TRET has gone back, from the state in which it did (R361). -/
def State.returned (u : State) : State :=
  u.setMe { u.me with ctx := { returnFromTrap u.ctx with instret := u.ctx.instret + 1 }, wait := .none }

@[simp] theorem State.returned_mem (u : State) : u.returned.mem = u.mem := rfl

@[simp] theorem State.returned_wait (u : State) : u.returned.me.wait = .none := congrArg Agent.wait (State.me_setMe ..)

@[simp] theorem State.returned_ctx (u : State) : u.returned.ctx =
    { u.ctx with pc := u.ctx.tpc, tcause := u.ctx.tcause &&& ~~~256#64, inFrame := u.ctx.frm.getLsbD 12
                 instret := u.ctx.instret + 1 } := State.ctx_setMe ..

section
variable (h : Ready .tm [] s)
include h

/-- TRET checks the alignment of TPC first (R361). -/
theorem exec_tret_unaligned (hal : s.ctx.tpc.toNat % 4 ≠ 0) :
    exec .tret s = .next (takeTrap s ⟨cALIGN, s.ctx.tpc⟩) := by
  refine (runInstr_ready h _).trans (congrArg _ ?_)
  simp only [run_bind, run_trapIf, hal, ne_eq, not_false_eq_true, decide_true, if_true, settle_trap]

/-- Without an active frame TRET goes back to TPC. -/
theorem exec_tret_no_frame (hal : s.ctx.tpc.toNat % 4 = 0) (hf : s.ctx.frm.getLsbD 12 = false) :
    exec .tret s = .next s.returned := by
  refine (runInstr_ready h _).trans (congrArg _ ?_)
  simp only [run_bind, run_trapIf, hal, hf, ne_eq, not_true_eq_false, decide_false, Bool.false_eq_true, if_false, run_mods, run_pure]
  rfl

/-- With an active frame TRET goes back only where a frame stands at TPC (R42). -/
theorem exec_tret_frame {w : Nat} {u : State} (hal : s.ctx.tpc.toNat % 4 = 0) (hf : s.ctx.frm.getLsbD 12 = true)
    (hw : (fetchWord s.ctx.tpc).run s = .ok (w, u)) :
    exec .tret s = .next (if bits w 31 24 = 0xFC then u.returned else takeTrap s ⟨cILLOP, wordN w⟩) := by
  refine (runInstr_ready h _).trans (congrArg _ ?_)
  simp only [run_bind, run_trapIf, hal, hf, hw, ne_eq, not_true_eq_false, decide_false, Bool.false_eq_true, if_false, if_true]
  by_cases hm : bits w 31 24 = 0xFC
  · simp only [hm, not_true_eq_false, decide_false, Bool.false_eq_true, if_false, if_true, run_mods, run_pure]
    rfl
  · simp only [hm, not_false_eq_true, decide_true, if_false, if_true, settle_trap]

end

end Sys2Proof.Machine
end

section
/-! The statement about traps and returns, settled. -/

open Sys2Proof Sys2Proof.Machine

/-- Settles O36: TRAP and BKPT are a trap by definition; a trap enters the handler or ends the program; TRET goes back where
TPC is aligned and, with FRM active, holds a frame. -/
theorem trapsAndReturns : Obligations.TrapsAndReturns := by
  unfold Obligations.TrapsAndReturns
  refine ⟨?trap, ?bkpt, ?taken, ?tret⟩
  case trap => exact fun _ _ => rfl
  case bkpt => exact fun _ => rfl
  case taken =>
    intro s tr tpc hcause c h t
    have hzero : handler c = 0 ↔ h = 0 := handler_eq_zero_iff c
    refine ⟨fun hinh hh => ?enters, fun hfatal => ?ends⟩
    case enters =>
      have ht : t = s.trapped tr tpc := takeTrapAt_enters tr tpc hinh (mt hzero.mp hh)
      have hctx : c.trapped tr tpc =
          { c with pc := wordN h, tpc := tpc, tcause := wordN (256 + tr.cause), tval := tr.tval, inFrame := false } := by
        rw [← inh_or_cause hcause, ← handler_eq]; rfl
      rw [ht]
      exact ⟨(State.trapped_ctx tr tpc).trans hctx, State.trapped_wait tr tpc, State.trapped_mem tr tpc, State.trapped_myProg tr tpc⟩
    case ends =>
      have ht : t = startEnd s s.myKey (trapEnd s (if inhibited c then 2 else 1) tr tpc) :=
        takeTrapAt_ends tr tpc (hfatal.imp_right hzero.mpr)
      rw [ht, startEnd_me, startEnd_mem]
      refine ⟨rfl, rfl, fun hrunning => ?_⟩
      rw [startEnd_ending _ hrunning, trapEnd, endWho]
      cases isSlot s.cur <;> rfl
  case tret =>
    intro s hready c back
    refine ⟨exec_tret_unaligned hready, fun hal hf => ?plain, fun w u hal hf hw => ?frame⟩
    case plain =>
      refine ⟨s.returned, exec_tret_no_frame hready hal hf, s.returned_wait, s.returned_mem, ?_⟩
      rw [s.returned_ctx, hf]
    case frame =>
      have hexec := exec_tret_frame hready hal hf hw
      refine ⟨fun hm => hexec.trans (by rw [if_neg hm]; rfl), fun hm hu => ?_⟩
      refine ⟨u.returned, hexec.trans (by rw [if_pos hm]), u.returned_wait, u.returned_mem, ?_⟩
      rw [u.returned_ctx, hu, hf]

end
